-- ==== Sys2Proof/Word.lean ====
section
/-!
DEFINITION. The machine's words: bytes, 32-bit instruction words, 64-bit general words, 256-bit
vector registers and 2,048-byte long registers (R4, R109, R200, R212).
-/

namespace Sys2Proof

/-- A byte of memory (R4). -/
abbrev Byte := BitVec 8

/-- An instruction word (R109). -/
abbrev W32 := BitVec 32

/-- A general register, an address, a control register (R110, R125). -/
abbrev Word := BitVec 64

/-- A short-vector register (R200). -/
abbrev VReg := BitVec 256

/-- A long register of 2,048 bytes (R212). -/
abbrev QReg := BitVec 16384

end Sys2Proof
end

