-- ==== Sys2Proof/Config.lean ====
section
/-!
DEFINITION. What the spec leaves open: every constant here is opaque, without a body, so that nothing
proved of the model can rest on a value of it. Each is named in the assumption log.
-/

namespace Sys2Proof.Config

/-- Which of the events that may come next does come next, as a function of the step count: the spec
fixes no order between messages of different sources (R55, R337, R406). Log 4. -/
opaque schedule : Nat → Nat

/-- A 64-bit value the spec leaves undefined, one for each use. Log 5. -/
opaque freeValue : Nat → Word

/-- A long register whose contents the spec leaves undefined (R211, R237). Log 5. -/
opaque freeLong : Nat → QReg

/-- SHAKE256 of a byte string, the first 256 bits (R18, R400). Log 6. -/
opaque shake256 : List Byte → BitVec 256

/-- KMAC256 with a key, over a message, output length 64, customisation string FV8-MXCAP (R293): the
first 64 bits, little-endian. Log 6. -/
opaque kmac256 : BitVec 256 → List Byte → BitVec 64

/-- Does the SLH-DSA-SHAKE-256s signature over a header verify under a key digest (R400)? Log 6. -/
opaque slhVerify : BitVec 256 → List Byte → List Byte → Bool

/-- The AES-256-GCM tag of a batch of flits under a key and a counter (R361). Log 6. -/
opaque gcmTag : BitVec 256 → Nat → List (BitVec 256) → BitVec 128

/-- CRC-24 over payload, SEQ and VC; the spec gives no polynomial (R336). Log 6. -/
opaque crc24 : BitVec 256 → BitVec 16 → BitVec 3 → BitVec 24

/-- The link key of a port and direction that the session's key schedule yields, by session and key
number (R359, R361). Log 6. -/
opaque linkKey : Nat → Nat → Bool → BitVec 256

/-- The engine key K_e that the controller loads at boot (R293, R394). Log 6. -/
opaque engineKey : Nat → BitVec 256

/-- The native image zutc makes of a Zutur text, as bytes; none where it refuses. Its inputs are the text, the
object's digest, the grade, the feature level and the number of members the domain offers (R35). Log 6. -/
opaque zutc : List Byte → BitVec 256 → Nat → Nat → Nat → Option (List Byte)

/-- The members a communication schedule may name: the modules of the domain (R11, R35). Log 6. -/
opaque domainMembers : Nat

/-- What a symbol of a SYMTAB is bound to, by the table's bytes and the symbol's index: a section and an offset
in it, or an index in the resource table; none where it is not defined. The spec gives no layout of symbols
(R19, R30). Log 21. -/
opaque symbolOf : List Byte → Nat → Option (Option Nat × Nat)

/-- The label that the BASE of an entry of the resource template names, by the symbol table's bytes and the entry's
index: a section and an offset in it; none where BASE is an address as it stands. The spec gives no layout for it
(R25, R30). Log 75. -/
opaque entryLabel : List Byte → Nat → Option (Nat × Nat)

/-- The 64-byte unit of TCM at which the loader places a DATA or ZERO section that lies in a kernel's TCM data area,
by load id and section index; none for one in device memory (R22, R36). Log 75. -/
opaque dataUnit : W32 → Nat → Option (BitVec 9)

/-- The 64-byte unit of TCM at which the loader places a section's text, by load id and section index (R46).
Log 22. -/
opaque textUnit : W32 → Nat → BitVec 9

/-- Is a device id assigned to a module or a host of the domain (R11)? Log 8. -/
opaque assigned : BitVec 12 → Bool

/-- Is an id that is assigned a host's, with no core behind it (R11)? Log 8. -/
opaque isHost : BitVec 12 → Bool

/-- An error mark that only a frame sets: whether its cause is ECC or PEER, and its address, by its bit and the frame's
word of marks (R173, R369). Log 78. -/
opaque frameMark : Nat → BitVec 64 → Bool × BitVec 64

/-- Is another module an FV-8S (R8)? Log 8. -/
opaque isFv8s : BitVec 12 → Bool

/-- The entries that a core's system owed area holds: the OS agent sizes it (R69). Log 35. -/
opaque sysOwedSize : Nat

/-- The digest of the key fused into the management controller (R400). Log 6. -/
opaque fusedKeyDigest : BitVec 256

/-- Which of the free object indexes ONEW takes (R276), by use count. Log 7. -/
opaque freeIndex : Nat → BitVec 24

/-- The board of another module, and its rack, by device id: R12 numbers them and the spec ties no id to
one. Log 1. -/
opaque boardOf : BitVec 12 → Nat

/-- The rack of another module. Log 1. -/
opaque rackOf : BitVec 12 → Nat

/-- The position of another module on its board, which is its L5 port (R350). Log 1. -/
opaque portOf : BitVec 12 → Nat

/-- The cabling of the boards: rack number, board number, and the L6 port that the board's trunk lands on (R405).
Log 47. -/
opaque cabling : List (Nat × Nat × Nat)

/-- The cabling of the racks: rack number, and the L7 port that its trunk lands on (R405). Log 47. -/
opaque trunks : List (Nat × Nat)

/-- The fabric port that the fixed path to a device takes (R337). Log 1. -/
opaque pathPort : BitVec 12 → BitVec 5

/-- The credits of a class's virtual channel beyond its first: flits of the class that may be out on a link, not yet
acknowledged, when it sends one more (R338). Log 83. -/
opaque classCredits : BitVec 3 → Nat

/-- Have two ports of the trunk one route timing, so that a phase goes on when its flits move from one to the other
(R396)? Log 83. -/
opaque sameTiming : Nat → Nat → Bool

/-- XBOUND.BOUND of another core of the device, by its place in the layout of SELFID [31:0] and the step count: this machine
does not hold it (R106, R339). Log 84. -/
opaque otherBound : BitVec 32 → Nat → Nat

/-- The unit of a doubleword of a die's fence block, by its index there: its kind in the coding of R390 (0 core, 1 cluster,
2 channel, 3 port) and its index within the die (R389, R392). The spec gives no layout of the block. Log 85. -/
opaque fenceAt : Nat → Option (Nat × Nat)

/-- The offset of MIGMAX in a translation agent's block (R234, R389). Log 85. -/
opaque migmaxAt : Nat

/-- The offset of the invalidation port in a translation agent's block: the doublewords that name the DOMAIN, the page and
the scope follow one another there, and a store to the last sends the invalidation (R231, R389). Log 85. -/
opaque invalAt : Nat

/-- The corrected errors that a unit may have before each further one is logged (R390). Log 86. -/
opaque eccThreshold : BitVec 16 → Nat

/-- The clusters that fail the self-test at power-on (R404). Log 86. -/
opaque selfTestFails : List Nat

end Sys2Proof.Config
end

