-- ==== Sys2Proof/Syntax.lean ====
section
/-!
DEFINITION. The instructions of Aktik and the events of the machine, and the plain data that messages
carry (R40, R49, R54, R73, R83, R131, R249, R346). Register fields keep their five bits; WellFormed
says which numbers are legal.
-/

namespace Sys2Proof

/-- Privilege levels (R366: LVL 0 H, 1 C, 2 S). -/
inductive Level | h | c | s
  deriving DecidableEq, Repr

/-- Obligation kinds, in the coding of R83: 0 SIGNAL, 1 RELEASE, 2 SEND, 3 ARRIVE. -/
inductive OblKind | signal | release | send | arrive
  deriving DecidableEq, Repr

/-- Who asks, owes or acts: a context in the layout of SELFID [35:0] (R161), a host agent (R71), a
Millrace binding (R309), the management controller or the OS agent. -/
inductive Agent where
  | ctx (sel : BitVec 36)
  | host (dev : BitVec 12)
  | millrace (bind : Nat)
  | controller
  | osAgent
  | other
  deriving DecidableEq, Repr

/-- The waiting instructions of R53. -/
inductive WaitOp | wait | barw | enq | deq
  deriving DecidableEq, Repr

/-- How a discharge is made (R49, R278, R279). -/
inductive DisHow where
  | ok
  | fail (code : BitVec 28)
  | send (msg reply : Word)
  | standing
  deriving DecidableEq, Repr

/-- The operations that a home engine answers (R275 to R283). -/
inductive HomeOp where
  | onew (scope g : Word) (kind : BitVec 5)
  | ofree (h : Word)
  | oblig (h : Word)
  | poll (h : Word)
  | oqry (h : Word) (field : BitVec 5)
  | osend (h msg reply : Word)
  /-- an OBLIG that found no place at the core takes back what it created (R69) -/
  | withdraw (h : Word)
  /-- a message that names this reply was removed: RESV - 1, OWED + 1 (R279) -/
  | claim (h : Word)
  deriving DecidableEq, Repr

/-- What a home engine or Millrace answers (R54, R56, R275): a result with the message of a MAILBOX
and the obligation acquired; that the wait is queued; or a fault, with the ARRIVE that R54 gives back. -/
inductive HomeAns where
  | done (result : Word) (msg : Option (Word × Word)) (acq : Option (Word × OblKind))
  | queued
  | fault (cause : BitVec 8) (tval : Word) (giveBack : Bool)
  /-- what an S-level OSEIZE took from a context of another core, with multiplicities (R62) -/
  | seized (obls : List (Word × OblKind × Nat))
  deriving DecidableEq, Repr

/-- What kind of access reaches a home (R171, R249, R254, R260). -/
inductive AccKind where
  | load
  | store
  | atom (fn : BitVec 4)
  | llk
  | sul
  | mst
  deriving DecidableEq, Repr

/-- Where a result goes. -/
inductive Dst where
  | none
  | g (r : BitVec 5) (sext : Bool)
  | v (r : BitVec 5)
  deriving DecidableEq, Repr

/-- One thread access on its way to its home (R174, R250). `seq` is its place in the context's program
order; it is performed after every access of the context below `after`. -/
structure Access where
  who : BitVec 36
  seq : Nat
  after : Nat
  kind : AccKind
  ea : Word
  pa : Nat
  size : Nat
  data : VReg
  cmp : Word
  dst : Dst
  layout : BitVec 2
  lease : BitVec 16
  mode : Word
  seed : W32
  deriving DecidableEq, Repr

/-- A result on its way to a register (R129, R131): `cls` is the RCL code of R366 (1 g, 2 v; 3 f, 4 k),
`cause` the error of R173 or 0, `pair` the second register an engine writes with the token. -/
structure Result where
  who : BitVec 36
  cls : BitVec 3
  num : BitVec 5
  value : VReg
  cause : BitVec 8
  ea : Word
  token : Bool
  flags : BitVec 5
  pair : Option (BitVec 5 × Word)
  /-- the device of an access that went outside the core's TCM and its cluster's scratchpad (R129, R360) -/
  far : Option (BitVec 12) := none
  /-- of a token that another engine writes: the job it is for, by the number its core gave it (R39, R131, R292) -/
  job : Option Nat := none
  deriving DecidableEq, Repr

/-- An entry of an item queue (R44, R46, R75). -/
structure Item where
  lref : W32
  wid : Word
  widx : Word
  restb : Word
  xroot : Word
  arg : Word
  rankLo : BitVec 21
  rankHi : BitVec 21
  pc : Word
  compl : Word
  gran : BitVec 2
  slots : Nat
  cluster : BitVec 7
  core : BitVec 3
  deriving DecidableEq, Repr

/-- The item an activity belongs to: launch context and work ID (R80, R83). -/
structure ItemKey where
  lref : W32
  wid : Word
  deriving DecidableEq, Repr

/-- A launch context (R84), under its LREF (R83). -/
structure LaunchCtx where
  lref : W32
  restb : Word
  widxv : Word
  objid : W32
  kidx : BitVec 16
  xroot : Word
  compl : Word
  /-- the launch's header and its kernel's SLOTS, which number its placement units (R76, R317) -/
  hdr : BitVec 512
  kslots : Nat
  deriving DecidableEq, Repr

/-- A host's access to a physical fabric address (R339). -/
structure HostAcc where
  dev : BitVec 12
  pa : Word
  kind : AccKind
  size : Nat
  data : Word
  cmp : Word
  tag : Nat
  deriving DecidableEq, Repr

/-- A flit of a link (R336), or the tag flit of a batch (R361). -/
structure Flit where
  seq : BitVec 16
  vc : BitVec 3
  payload : BitVec 256
  crc : BitVec 24
  tag : Option (BitVec 128)
  deriving DecidableEq, Repr

/-- A word or marker on the exchange network (R346, R347, R353): value, whether a marker, stream
(none for one core), destination core in the layout of SELFID [31:0], slot, send and delivery cycle,
the senders, the group, and the switch outputs it has passed. -/
structure XWord where
  value : Word
  marker : Bool
  stream : Option (BitVec 12)
  dest : W32
  slot : BitVec 4
  sent : Nat
  due : Nat
  from' : List (BitVec 36)
  gid : BitVec 12
  path : List (Word × BitVec 5)
  /-- the FP32 lanes of an ADDBF16 sum not yet rounded (R352) -/
  wide : Option (BitVec 128)
  deriving DecidableEq, Repr

/-- What PBIND has read and checked when it issues (R28, R95, R96, R305): its failure, status and detail, or the
descriptor header, the stage records with the entries they name, the level of the binder, and the cores of the
placement units of its launch from its own onward (R317), each in the layout of SELFID [31:0]. -/
structure PipeSnap where
  fail : Option (Nat × Nat)
  hdr : BitVec 512
  stages : List (BitVec 192)
  entries : List (BitVec 512)
  level : Level
  units : List W32
  deriving DecidableEq, Repr

/-- What Millrace asks of the home of a BINDOBJ or ENDOBJ on another device (R98): whether ENDOBJ is live and of its
kinds, one unit of BINDOBJ with its RELEASE, a SIGNAL on ENDOBJ. -/
inductive PipeAsk | check | take | own
  deriving DecidableEq, Repr

/-- What PBIND, PFREE and PSTAT send to Millrace (R305 to R307); a PFREE brings what its context holds. -/
inductive MillOp where
  | pbind (p : PipeSnap)
  | pfree (h : Word) (held : List (Word × OblKind))
  | pstat (h : Word)
  /-- an image that a BVLD with PIPE of another core stages (R298, R308): its header, its bytes or the status and detail
  of the fault that its engine met, and the copy of FMODE and the seed -/
  | stage (hdr : BitVec 512) (image : Except (Nat × Nat) (List (BitVec 8))) (mode : Word) (seed : BitVec 32)
  deriving DecidableEq, Repr

/-- A job that MXCAP sends to a target engine (R292). -/
structure CapJob where
  who : BitVec 36
  id : Nat
  token : BitVec 5
  desc : BitVec 256
  cap : BitVec 128
  mode : Word
  seed : W32
  /-- the place in its context's program order, and the accesses that its own must follow (R324) -/
  seq : Nat
  after : Nat
  deriving DecidableEq, Repr

/-- A domain whose power the management controller holds within its budget (R16). -/
inductive PowerDomain where
  | die (d : BitVec 3)
  | stack (n : BitVec 4)
  | fabric
  | rest
  deriving DecidableEq, Repr

/-- A unit with a fence doubleword (R392): core n = 1,024d + 8c + k, cluster m = 128d + c, channel
32s + b, port p. -/
inductive FenceUnit where
  | core (n : Nat)
  | cluster (m : Nat)
  | channel (c : Nat)
  | port (p : Nat)
  deriving DecidableEq, Repr


/-- The instructions of Aktik and the events of the machine: one constructor for each row of
spec/opcode_table.json. What an event handles is the message in State.event (Msg). -/
inductive Instr where
  -- SYS, 0x01 (R149 to R153)
  | nop
  | halt
  | idle
  | eret
  | trap (code : BitVec 15)
  | brk (code : BitVec 15)
  | yield
  | fencei
  -- CR, 0x02: `g` names the general register, `n` the control register (R154)
  | mfc (g : BitVec 5) (n : BitVec 12)
  | mtc (g : BitVec 5) (n : BitVec 12)
  | mxc (g : BitVec 5) (n : BitVec 12)
  | mset (g : BitVec 5) (n : BitVec 12)
  | mclr (g : BitVec 5) (n : BitVec 12)
  -- ALU, 0x03 (R156)
  | add (d a b : BitVec 5)
  | sub (d a b : BitVec 5)
  | and (d a b : BitVec 5)
  | or (d a b : BitVec 5)
  | xor (d a b : BitVec 5)
  | andn (d a b : BitVec 5)
  | orn (d a b : BitVec 5)
  | shl (d a b : BitVec 5)
  | shr (d a b : BitVec 5)
  | sar (d a b : BitVec 5)
  | rol (d a b : BitVec 5)
  | min (d a b : BitVec 5)
  | max (d a b : BitVec 5)
  | minw (d a b : BitVec 5)
  | maxw (d a b : BitVec 5)
  | slt (d a b : BitVec 5)
  | sltw (d a b : BitVec 5)
  | seq (d a b : BitVec 5)
  | sne (d a b : BitVec 5)
  | cmov (d a b c : BitVec 5)
  -- MUL, 0x04 (R156)
  | mul (d a b : BitVec 5)
  | mulh (d a b : BitVec 5)
  | mulhw (d a b : BitVec 5)
  | mulw (d a b : BitVec 5)
  | div (d a b : BitVec 5)
  | divw (d a b : BitVec 5)
  | rem (d a b : BitVec 5)
  | remw (d a b : BitVec 5)
  -- BIT, 0x05 (R159); `h` is bit 5 of the width minus 1
  | clz (d a : BitVec 5)
  | ctz (d a : BitVec 5)
  | popc (d a : BitVec 5)
  | brev (d a : BitVec 5)
  | bswap (d a : BitVec 5)
  | sext (d a : BitVec 5) (h : BitVec 1) (n : BitVec 5)
  | zext (d a : BitVec 5) (h : BitVec 1) (n : BitVec 5)
  | bext (d a b : BitVec 5)
  | bins (d a b : BitVec 5)
  -- the I format (R111, R157)
  | addi (d a : BitVec 5) (k : BitVec 16)
  | andi (d a : BitVec 5) (k : BitVec 16)
  | ori (d a : BitVec 5) (k : BitVec 16)
  | xori (d a : BitVec 5) (k : BitVec 16)
  | shli (d a : BitVec 5) (s : BitVec 6)
  | shri (d a : BitVec 5) (s : BitVec 6)
  | sari (d a : BitVec 5) (s : BitVec 6)
  | roli (d a : BitVec 5) (s : BitVec 6)
  | slti (d a : BitVec 5) (k : BitVec 16)
  | sltwi (d a : BitVec 5) (k : BitVec 16)
  -- MOVK, LEA, ADR, RES (R160, R162)
  | movk (d : BitVec 5) (pos : BitVec 2) (keep : BitVec 1) (k : BitVec 16)
  | lea (d a b : BitVec 5) (sc : BitVec 2) (disp : BitVec 9)
  | gcoord (d a : BitVec 5)
  | widf (d f : BitVec 5)
  | self (d : BitVec 5)
  | cload (d : BitVec 5)
  -- transfers of control and RPT (R113, R163, R165); `n`, `count` of RPT are held minus 1
  | beq (a b : BitVec 5) (nul : BitVec 2) (disp : BitVec 11)
  | bne (a b : BitVec 5) (nul : BitVec 2) (disp : BitVec 11)
  | blt (a b : BitVec 5) (nul : BitVec 2) (disp : BitVec 11)
  | bge (a b : BitVec 5) (nul : BitVec 2) (disp : BitVec 11)
  | bltw (a b : BitVec 5) (nul : BitVec 2) (disp : BitVec 11)
  | bgew (a b : BitVec 5) (nul : BitVec 2) (disp : BitVec 11)
  | bbs (a b : BitVec 5) (nul : BitVec 2) (disp : BitVec 11)
  | bbc (a b : BitVec 5) (nul : BitVec 2) (disp : BitVec 11)
  | j (disp : BitVec 26)
  | call (disp : BitVec 26)
  | jr (a : BitVec 5)
  | callr (a : BitVec 5)
  | ret
  | rpt (n : BitVec 4) (count : BitVec 10) (sd sa sb : BitVec 2)
  -- CTX, 0x15 (R166)
  | hstart (d a b c : BitVec 5)
  | hexit
  | cpack (d a b : BitVec 5)
  | cresume (d a : BitVec 5)
  | migrate (d a b : BitVec 5)
  | hstat (d slot : BitVec 5)
  -- OBL, 0x16 (R274)
  | onew (d a b kind : BitVec 5)
  | ofree (a : BitVec 5)
  | oblig (d a : BitVec 5)
  | osig (a : BitVec 5)
  | orel (a : BitVec 5)
  | osend (d a b c : BitVec 5)
  | ofail (a b : BitVec 5)
  | otrn (a b kind : BitVec 5)
  | oseize (d a : BitVec 5)
  | rsplit (a b : BitVec 5)
  -- WT, 0x17 (R274)
  | wait (d a : BitVec 5)
  | barw (d a : BitVec 5)
  | poll (d a : BitVec 5)
  | oqry (d a field : BitVec 5)
  -- LD, ST, MST, VMEM (R114, R171, R260, R261)
  | ld (d a : BitVec 5) (w : BitVec 4) (disp : BitVec 12)
  | st (s a : BitVec 5) (rel : BitVec 1) (z : BitVec 2) (disp : BitVec 12)
  -- ATOM, 0x1A: `ord` is fn[5:4], `z` is c[0] (R249)
  | aadd (d a b : BitVec 5) (ord : BitVec 2) (z : BitVec 1)
  | aand (d a b : BitVec 5) (ord : BitVec 2) (z : BitVec 1)
  | aor (d a b : BitVec 5) (ord : BitVec 2) (z : BitVec 1)
  | axor (d a b : BitVec 5) (ord : BitVec 2) (z : BitVec 1)
  | amin (d a b : BitVec 5) (ord : BitVec 2) (z : BitVec 1)
  | amax (d a b : BitVec 5) (ord : BitVec 2) (z : BitVec 1)
  | aminw (d a b : BitVec 5) (ord : BitVec 2) (z : BitVec 1)
  | amaxw (d a b : BitVec 5) (ord : BitVec 2) (z : BitVec 1)
  | aswp (d a b : BitVec 5) (ord : BitVec 2) (z : BitVec 1)
  | acas (d a b : BitVec 5) (ord : BitVec 2) (z : BitVec 1)
  | afadd (d a b : BitVec 5) (ord : BitVec 2) (z : BitVec 1)
  -- LLK, 0x1B (R254)
  | llk (d a : BitVec 5) (z : BitVec 1)
  | sul (d a b : BitVec 5) (z : BitVec 1)
  | sun (d a : BitVec 5)
  -- FEN, 0x1C (R256)
  | fence (a : BitVec 5)
  | fencea (a : BitVec 5)
  | fencer (a : BitVec 5)
  | bfence
  | qfence
  | efence
  -- LD, ST, MST, VMEM (R114, R171, R260, R261)
  | mst (s a : BitVec 5) (rel : BitVec 1) (z : BitVec 2) (disp : BitVec 12)
  | vld (v a : BitVec 5) (disp : BitVec 11)
  | vst (v a : BitVec 5) (disp : BitVec 11)
  -- QMEM, 0x1F (R262)
  | qld (q a b : BitVec 5) (z : BitVec 2)
  | qst (q a b : BitVec 5) (z : BitVec 2)
  | qgat (q a x : BitVec 5) (z : BitVec 2)
  | qsct (q a x : BitVec 5) (z : BitVec 2)
  -- CPY, 0x20 (R264)
  | cpy (d a b c : BitVec 5)
  | cpy2 (d a b c : BitVec 5)
  | cpy3 (d a b c : BitVec 5)
  | cpyi (d a b c : BitVec 5)
  | cpyr (d a b c : BitVec 5)
  | cpyrs (d a b c : BitVec 5)
  -- STM, 0x21: `s` is the stream register, `cls` its class (R271)
  | sopen (d a s : BitVec 5) (cls : BitVec 1)
  | sclose (d s : BitVec 5) (cls : BitVec 1)
  | sstat (d s : BitVec 5) (cls : BitVec 1)
  -- VI, 0x22 (R202)
  | vadd (d a b : BitVec 5) (m t : BitVec 3)
  | vsub (d a b : BitVec 5) (m t : BitVec 3)
  | vmul (d a b : BitVec 5) (m t : BitVec 3)
  | vmulh (d a b : BitVec 5) (m t : BitVec 3)
  | vmin (d a b : BitVec 5) (m t : BitVec 3)
  | vmax (d a b : BitVec 5) (m t : BitVec 3)
  | vand (d a b : BitVec 5) (m t : BitVec 3)
  | vor (d a b : BitVec 5) (m t : BitVec 3)
  | vxor (d a b : BitVec 5) (m t : BitVec 3)
  | vshl (d a b : BitVec 5) (m t : BitVec 3)
  | vshr (d a b : BitVec 5) (m t : BitVec 3)
  | vsar (d a b : BitVec 5) (m t : BitVec 3)
  | vsel (d a b : BitVec 5) (m t : BitVec 3)
  | vabs (d a : BitVec 5) (m t : BitVec 3)
  | vcmp (d a b : BitVec 5) (m t cond : BitVec 3)
  -- VF, 0x23 (R203)
  | vfadd (d a b : BitVec 5) (m t : BitVec 3)
  | vfsub (d a b : BitVec 5) (m t : BitVec 3)
  | vfmul (d a b : BitVec 5) (m t : BitVec 3)
  | vfma (d a b : BitVec 5) (m t : BitVec 3)
  | vfms (d a b : BitVec 5) (m t : BitVec 3)
  | vfmin (d a b : BitVec 5) (m t : BitVec 3)
  | vfmax (d a b : BitVec 5) (m t : BitVec 3)
  | vfabs (d a : BitVec 5) (m t : BitVec 3)
  | vfneg (d a : BitVec 5) (m t : BitVec 3)
  | vfcmp (d a b : BitVec 5) (m t cond : BitVec 3)
  -- VX, 0x24 (R206)
  | vcvt (d a src : BitVec 5) (m t : BitVec 3)
  | vqnt (d a f : BitVec 5) (t : BitVec 3)
  | vdq (d a f : BitVec 5) (t : BitVec 3)
  | vshuf (d a b : BitVec 5) (m t : BitVec 3)
  | vperm (d a b : BitVec 5) (m t : BitVec 3)
  | vbc (d a : BitVec 5) (m t : BitVec 3)
  | vext (d a lane : BitVec 5) (t : BitVec 3)
  | vins (d a lane : BitVec 5) (t : BitVec 3)
  | vmovk (d a : BitVec 5)
  -- VS, 0x25 (R204)
  | vexp2 (d a : BitVec 5) (m t : BitVec 3)
  | vlog2 (d a : BitVec 5) (m t : BitVec 3)
  | vrcp (d a : BitVec 5) (m t : BitVec 3)
  | vrsq (d a : BitVec 5) (m t : BitVec 3)
  | vsin (d a : BitVec 5) (m t : BitVec 3)
  | vcos (d a : BitVec 5) (m t : BitVec 3)
  | vtanh (d a : BitVec 5) (m t : BitVec 3)
  | vsigm (d a : BitVec 5) (m t : BitVec 3)
  -- VR, 0x26: `int` is fn[3] (R205)
  | vrsum (d a : BitVec 5) (m t : BitVec 3) (int : BitVec 1)
  | vrmax (d a : BitVec 5) (m t : BitVec 3) (int : BitVec 1)
  | vrmin (d a : BitVec 5) (m t : BitVec 3) (int : BitVec 1)
  -- MOVK, LEA, ADR, RES (R160, R162)
  | res (d : BitVec 5) (word : BitVec 3) (k : BitVec 16)
  -- the D format: `p` is the major minus 0x28 (R118, R210, R221, R222, R287, R299)
  | vdot (p : BitVec 3) (d a b : BitVec 5) (c : BitVec 4) (m : BitVec 3)
  | qdot (p : BitVec 3) (d a b : BitVec 5) (c : BitVec 4)
  | mxa (p : BitVec 3) (d a b : BitVec 5) (c : BitVec 4)
  | bmv (p : BitVec 3) (d a b : BitVec 5) (c : BitVec 4)
  | qdop (d a b : BitVec 5)
  -- QM, 0x30 (R218)
  | vlong
  | vshort
  | qmov (d a : BitVec 5)
  | qsplat (d a : BitVec 5) (z : BitVec 2)
  | qxv (d a b : BitVec 5)
  | qxq (d a b : BitVec 5)
  -- QF, 0x31 (R219)
  | qfadd (d a b : BitVec 5) (t : BitVec 3)
  | qfmul (d a b : BitVec 5) (t : BitVec 3)
  | qfma (d a b : BitVec 5) (t : BitVec 3)
  | qfmin (d a b : BitVec 5) (t : BitVec 3)
  | qfmax (d a b : BitVec 5) (t : BitVec 3)
  | qcvt (d a src : BitVec 5) (t : BitVec 3)
  | qsel (d a b : BitVec 5) (t : BitVec 3)
  | qfcmp (d a b : BitVec 5) (t cond : BitVec 3)
  -- QI, 0x32 (R219)
  | qadd (d a b : BitVec 5) (t : BitVec 3)
  | qsub (d a b : BitVec 5) (t : BitVec 3)
  | qmul (d a b : BitVec 5) (t : BitVec 3)
  | qand (d a b : BitVec 5) (t : BitVec 3)
  | qor (d a b : BitVec 5) (t : BitVec 3)
  | qxor (d a b : BitVec 5) (t : BitVec 3)
  | qshl (d a b : BitVec 5) (t : BitVec 3)
  | qshr (d a b : BitVec 5) (t : BitVec 3)
  | qmin (d a b : BitVec 5) (t : BitVec 3)
  | qmax (d a b : BitVec 5) (t : BitVec 3)
  | qcmp (d a b : BitVec 5) (t cond : BitVec 3)
  -- QR, 0x33 (R220)
  | qrsum (d a : BitVec 5) (t : BitVec 3) (int : BitVec 1)
  | qrmax (d a : BitVec 5) (t : BitVec 3) (int : BitVec 1)
  | qrmin (d a : BitVec 5) (t : BitVec 3) (int : BitVec 1)
  -- MX, 0x34 (R286 to R294)
  | mxb (d a b : BitVec 5)
  | mxj (d a : BitVec 5)
  | mxcap (d a b : BitVec 5)
  | mxst (d a : BitVec 5)
  -- BK, 0x35 (R298 to R300)
  | bvld (d a b : BitVec 5)
  | bvrd (d a b : BitVec 5)
  | bcfg (d a : BitVec 5)
  | bstat (d a : BitVec 5)
  -- PL, 0x36 (R305 to R310)
  | pbind (d a : BitVec 5)
  | pfree (d a : BitVec 5)
  | pstat (d a : BitVec 5)
  | enq (d a : BitVec 5)
  | deq (d a : BitVec 5)
  -- XC, 0x37 (R345 to R354)
  | xph (d a b : BitVec 5)
  | xsnd (d a b c : BitVec 5)
  | xrcv (d a b c : BitVec 5)
  | xend (d : BitVec 5)
  | xmrk (a b : BitVec 5)
  | xvs (a b : BitVec 5)
  -- events, in the order of the table
  /-- CODE_OBJECT_LOAD (R21, R36) -/
  | codeObjectLoad
  /-- LAUNCH_MESSAGE (R38 to R42) -/
  | launchMessage
  /-- PLACEMENT_DECISION (R44) -/
  | placementDecision
  /-- ITEM_DELIVERY (R75) -/
  | itemDelivery
  /-- LAUNCH_AGING (R45) -/
  | launchAging
  /-- WAIT_REQUEST (R54) -/
  | waitRequest
  /-- DISCHARGE (R49) -/
  | discharge
  /-- HOME_OPERATION (R275) -/
  | homeOperation
  /-- HOME_ANSWER (R275) -/
  | homeAnswer
  /-- WAKE (R56, R281) -/
  | wake
  /-- CANCEL (R63) -/
  | cancel
  /-- OBLIGATION_TRANSFER (R61) -/
  | obligationTransfer
  /-- HOST_REGISTRATION (R71) -/
  | hostRegistration
  /-- HOST_LOST (R71) -/
  | hostLost
  /-- REFILL (R68) -/
  | refill
  /-- CONTINUATION_MESSAGE (R88) -/
  | continuationMessage
  /-- SPILL_REDELIVERY (R378) -/
  | spillRedelivery
  /-- CLUSTLD_UPDATE (R89) -/
  | clustldUpdate
  /-- GOVERNOR_SAMPLE (R93) -/
  | governorSample
  /-- TAKE_UPCALL (R372) -/
  | takeUpcall
  /-- RESULT_ARRIVAL (R129) -/
  | resultArrival
  /-- STREAM_REFILL (R135) -/
  | streamRefill
  /-- LOCK_RETRY (R252, R253) -/
  | lockRetry
  /-- LLK_LAPSE (R255) -/
  | llkLapse
  /-- PAGE_WALK (R229) -/
  | pageWalk
  /-- TLB_INVALIDATION (R231) -/
  | tlbInvalidation
  /-- COMPLETION_NOTICE (R232) -/
  | completionNotice
  /-- MIGRATION_REQUEST (R233, R235) -/
  | migrationRequest
  /-- PINR_EXPIRY (R234) -/
  | pinrExpiry
  /-- MST_STAMP (R239) -/
  | mstStamp
  /-- MST_APPLY (R239, R331) -/
  | mstApply
  /-- LEASE_SETUP (R240) -/
  | leaseSetup
  /-- RECLAIM (R242) -/
  | reclaim
  /-- DEMOTION_PAGE_COPY (R242, R243) -/
  | demotionPageCopy
  /-- LEASE_ACKNOWLEDGEMENT (R242) -/
  | leaseAcknowledgement
  /-- BOUND_REACHED (R244) -/
  | boundReached
  /-- COPY_START (R290) -/
  | copyStart
  /-- COPY_COMPLETE (R247) -/
  | copyComplete
  /-- CPYR_ACK_TIMEOUT (R269) -/
  | cpyrAckTimeout
  /-- MXB_START (R286, R290) -/
  | mxbStart
  /-- MXB_COMPLETE (R286) -/
  | mxbComplete
  /-- COMPUTE_JOB_START (R290) -/
  | computeJobStart
  /-- COMPUTE_JOB_COMPLETE (R288) -/
  | computeJobComplete
  /-- MXCAP_ARRIVAL (R293) -/
  | mxcapArrival
  /-- MXCAP_TIMEOUT (R293) -/
  | mxcapTimeout
  /-- BANK_JOB_COMPLETE (R299, R301) -/
  | bankJobComplete
  /-- LVU_ENTRY_COMPLETE (R213) -/
  | lvuEntryComplete
  /-- SEGMENT_START (R101) -/
  | segmentStart
  /-- GATE_DEADLINE (R101) -/
  | gateDeadline
  /-- SEGMENT_END (R101) -/
  | segmentEnd
  /-- BANK_STAGE_ENQUEUE (R308) -/
  | bankStageEnqueue
  /-- HOST_ACCESS (R339) -/
  | hostAccess
  /-- FLIT_RECEIVE (R336) -/
  | flitReceive
  /-- REPLAY_REQUEST (R336) -/
  | replayRequest
  /-- FEC_LOCK_LOSS (R360) -/
  | fecLockLoss
  /-- KEY_EXHAUSTION (R361) -/
  | keyExhaustion
  /-- LOCK (R360) -/
  | lock
  /-- START (R360) -/
  | start
  /-- MANAGEMENT_RESET (R360) -/
  | managementReset
  /-- GET_VERSION (R359) -/
  | getVersion
  /-- GET_CAPABILITIES (R359) -/
  | getCapabilities
  /-- NEGOTIATE_ALGORITHMS (R359) -/
  | negotiateAlgorithms
  /-- GET_DIGESTS (R359) -/
  | getDigests
  /-- GET_CERTIFICATE (R359) -/
  | getCertificate
  /-- CHALLENGE (R359) -/
  | challenge
  /-- GET_MEASUREMENTS (R359) -/
  | getMeasurements
  /-- KEY_EXCHANGE (R359) -/
  | keyExchange
  /-- FINISH (R359) -/
  | finish
  /-- KEY_UPDATE (R361) -/
  | keyUpdate
  /-- PHASE_ARRIVAL (R345) -/
  | phaseArrival
  /-- PHASE_RELEASE (R345) -/
  | phaseRelease
  /-- ARRIVAL_TIMEOUT (R345) -/
  | arrivalTimeout
  /-- START_TICK (R343) -/
  | startTick
  /-- PHASE_END (R343) -/
  | phaseEnd
  /-- FAILURE_NOTICE (R344) -/
  | failureNotice
  /-- WORD_DELIVERY (R348) -/
  | wordDelivery
  /-- COMBINE (R352) -/
  | combine
  /-- MARKER_STEP (R353) -/
  | markerStep
  /-- ENTRY_REPLACE (R354) -/
  | entryReplace
  /-- EPOCH_BOUNDARY (R356) -/
  | epochBoundary
  /-- CONTRIBUTION_CUTOFF (R356) -/
  | contributionCutoff
  /-- BELL_RESULT (R356) -/
  | bellResult
  /-- CLOCK_SETTLE (R356) -/
  | clockSettle
  /-- JOIN (R357) -/
  | join
  /-- LEAVE (R357) -/
  | leave
  /-- BREACH (R358) -/
  | breach
  /-- PREEMPT (R376) -/
  | preempt
  /-- RESUME (R377) -/
  | resume
  /-- SRESUME (R377) -/
  | sresume
  /-- HOLD (R63) -/
  | hold
  /-- UNHOLD (R63) -/
  | unhold
  /-- RESTART (R391) -/
  | restart
  /-- UNIT_FENCE (R392) -/
  | unitFence
  /-- UNFENCE (R392) -/
  | unfence
  /-- FENCE_DEADLINE (R393) -/
  | fenceDeadline
  /-- SPARE_ASSIGN (R394) -/
  | spareAssign
  /-- MODULE_LEAVE (R397) -/
  | moduleLeave
  /-- SCRUB (R398) -/
  | scrub
  /-- BOOT (R400) -/
  | boot
  /-- FIRMWARE_UPDATE (R401) -/
  | firmwareUpdate
  /-- RECOVERY (R401) -/
  | recovery
  /-- SECURITY_ALARM (R402) -/
  | securityAlarm
  /-- THERMAL_LIMIT (R403) -/
  | thermalLimit
  /-- POWER_ON (R404) -/
  | powerOn
  /-- ILLEGAL_INSTRUCTION_WORD (R124) -/
  | illegalInstructionWord
  /-- FETCH_CHECK (R104) -/
  | fetchCheck
  /-- ACCESS_AT_HOME (R250) -/
  | accessAtHome
  /-- STORE_ACKNOWLEDGEMENT (R173) -/
  | storeAcknowledgement
  /-- MILLRACE_REQUEST (R98) -/
  | millraceRequest
  /-- LVU_ARBITRATION (R214) -/
  | lvuArbitration
  /-- LINK_TRAINING (R359) -/
  | linkTraining
  /-- PORT_CONFIGURATION_WRITE (R360) -/
  | portConfigurationWrite
  /-- POWER_FAIL (R401) -/
  | powerFail
  /-- CONTROLLER_RESTART (R401) -/
  | controllerRestart
  /-- ROW_REPAIR (R395) -/
  | rowRepair
  /-- CODE_OBJECT_UNLOAD (R37) -/
  | codeObjectUnload
  deriving DecidableEq, Repr

/-- The messages in flight and the notices that bring an event about, each with what it carries. The
event of a message is Msg.event. -/
inductive Msg where
  /-- the image of `len` bytes staged at `addr`, to be kept from the physical address `place` on, which the
  driver maps at the generic address `base` under the XROOT it names (R21, R36) -/
  | codeObjectLoad (addr len xroot place base : BitVec 64) (id : BitVec 32)
  /-- the header, its sender, and a device sender's token and window (R38 to R42) -/
  | launchMessage (hdr : BitVec 512) (src : Agent) (token : BitVec 5) (lo hi : BitVec 21) (job : Option Nat := none)
  /-- the acceptance step that a launch engine asks of COMPL's home: the handle, N, the sender, the engine's
  device and die and its number for the launch, and whether the step is to be taken or only checked (R43) -/
  | launchStep (h : BitVec 64) (n : Nat) (src : Agent) (dev : BitVec 12) (die : BitVec 3) (id : Nat) (take : Bool)
  /-- another die's engine has accepted a launch, or its launch context has ended (R84, R86) -/
  | foreignLaunch (l : LaunchCtx) (live : Bool)
  /-- COMPL's VALUE has reached zero: the engine's launch contexts on it end (R84) -/
  | launchDone (dev : BitVec 12) (die : BitVec 3) (compl : BitVec 64)
  /-- the home's answer to an engine: a code of R41, or 0 (R43) -/
  | launchStepAnswer (dev : BitVec 12) (die : BitVec 3) (id code : Nat)
  /-- R44 -/
  | placementDecision
  /-- R75 -/
  | itemDelivery (item : Item)
  /-- an item has left the item queue of another core of the die (R43, R77) -/
  | itemStarted (cluster core : Nat)
  /-- R45 -/
  | launchAging (launch : Nat)
  /-- R54 -/
  | waitRequest (h : BitVec 64) (op : WaitOp) (who : Agent)
  /-- R49 -/
  | discharge (h : BitVec 64) (kind : OblKind) (how : DisHow) (who : Agent)
  /-- R275 -/
  | homeOperation (op : HomeOp) (who : Agent)
  /-- R275 -/
  | homeAnswer (ans : HomeAns) (who : BitVec 36)
  /-- R56, R281 -/
  | wake (result : BitVec 64) (msg : Option (BitVec 64 × BitVec 64)) (acq : Option (BitVec 64 × OblKind)) (who : BitVec 36)
  /-- R63 -/
  | cancel (h : BitVec 64) (who : BitVec 36) (detail : Nat)
  /-- an S-level OSEIZE of another core, on a context of this one (R62) -/
  | seizure (who target : BitVec 36)
  /-- R61 -/
  | obligationTransfer (h : BitVec 64) (kind : OblKind) (target : BitVec 36) (src : Agent)
  /-- R71 -/
  | hostRegistration (h : BitVec 64) (kind : OblKind) (dev : BitVec 12)
  /-- R71 -/
  | hostLost (dev : BitVec 12)
  /-- R68 -/
  | refill (slot : BitVec 4)
  /-- a record, with its launch context where the sending core knew it (R84, R86, R88) -/
  | continuationMessage (target : BitVec 32) (rec' : BitVec 1536) (lctx : Option LaunchCtx)
  /-- R378 -/
  | spillRedelivery
  /-- R89 -/
  | clustldUpdate
  /-- the loads of the other seven cores as they stand now, and the item that holds the cluster (R80, R89) -/
  | coreLoads (others : BitVec 64) (hold : Option ItemKey)
  /-- a helper of an item has started, or exited, away from the core where the item started (R80, R82) -/
  | helperCount (item : ItemKey) (starts : Bool)
  /-- R93 -/
  | governorSample
  /-- R129 -/
  | resultArrival (r : Result)
  /-- R135 -/
  | streamRefill (slot : BitVec 4) (cls : BitVec 1) (reg : BitVec 5)
  /-- R252, R253 -/
  | lockRetry (acc : Access) (losses : Nat)
  /-- the lock of a context ends: one of this core, or of another core whose lock is here (R255) -/
  | llkLapse (who : BitVec 36)
  /-- R229 -/
  | pageWalk (xroot va : BitVec 64)
  /-- R231 -/
  | tlbInvalidation (domain : BitVec 8) (va scope : BitVec 64)
  /-- R232 -/
  | completionNotice (page : BitVec 64)
  /-- the page, who asks to have it on its side, the physical address of its PTE on the device that maps it, and
  the physical page that the agent has for it on the requester's side (R233, R235) -/
  | migrationRequest (va : BitVec 64) (src : Agent) (pte place : BitVec 64)
  /-- a write of MIGMAX (R234) -/
  | migrationConfig (max : BitVec 8)
  /-- the page, by its address and its PTE (R234) -/
  | pinrExpiry (va pte : BitVec 64)
  /-- R239 -/
  | mstStamp (acc : Access) (mask : BitVec 8)
  /-- R239, R331 -/
  | mstApply (acc : Access) (mask : BitVec 8) (stamp : Nat) (die : BitVec 3)
  /-- the record, and at its lessor the physical address of the bitmap of failed pages (R240, R242) -/
  | leaseSetup (record : BitVec 512) (bitmap : BitVec 64)
  /-- R242 -/
  | reclaim (id : BitVec 12)
  /-- a lessor's tier-demotion event reaches the UPLOC core: start, or completion with the failed pages and where their
  bitmap is (R242) -/
  | demotionEvent (core : BitVec 32) (id : BitVec 12) (done : Bool) (failed bitmap : Nat)
  /-- R242, R243 -/
  | demotionPageCopy (id : BitVec 12) (page : Nat)
  /-- R242 -/
  | leaseAcknowledgement (id : BitVec 12)
  /-- R244 -/
  | boundReached (lessor id : BitVec 12)
  /-- R290 -/
  | copyStart
  /-- R247 -/
  | copyComplete (id : Nat)
  /-- the blocks that are acknowledged, and those that the destination has applied (R269) -/
  | cpyrAckTimeout (id acked : Nat)
  /-- R286, R290 -/
  | mxbStart
  /-- R286 -/
  | mxbComplete
  /-- R290 -/
  | computeJobStart
  /-- R288 -/
  | computeJobComplete
  /-- R293 -/
  | mxcapArrival (job : CapJob)
  /-- a CAPABILITY that core 0 of the cluster is to take (R293) -/
  | capabilityDue (tval : BitVec 64)
  /-- R293 -/
  | mxcapTimeout (id : Nat)
  /-- R299, R301 -/
  | bankJobComplete (id : Nat)
  /-- R213 -/
  | lvuEntryComplete
  /-- R101 -/
  | segmentStart (inst : Nat)
  /-- R101 -/
  | gateDeadline (inst : Nat)
  /-- R101 -/
  | segmentEnd (inst : Nat)
  /-- R308 -/
  | bankStageEnqueue (inst cons : Nat)
  /-- R339 -/
  | hostAccess (acc : HostAcc)
  /-- a flit that the module hands to a port, and whether it closes its batch (R336, R361) -/
  | flitSend (port : BitVec 5) (vc : BitVec 3) (payload : BitVec 256) (last : Bool)
  /-- the receiver acknowledges the flits up to a sequence number (R336) -/
  | flitAck (port : BitVec 5) (seq : BitVec 16)
  /-- R336 -/
  | flitReceive (port : BitVec 5) (flit : Flit)
  /-- R336 -/
  | replayRequest (port : BitVec 5) (seq : BitVec 16)
  /-- R360 -/
  | fecLockLoss (port : BitVec 5)
  /-- R361 -/
  | keyExhaustion (port : BitVec 5) (tx : Bool)
  /-- R360 -/
  | lock (port : BitVec 5)
  /-- R360 -/
  | start (port : BitVec 5)
  /-- R360 -/
  | managementReset (port : BitVec 5)
  /-- `ok` says whether the peer's answer passed the controller's check (R359) -/
  | getVersion (port : BitVec 5) (ok : Bool)
  /-- R359 -/
  | getCapabilities (port : BitVec 5) (ok : Bool)
  /-- R359 -/
  | negotiateAlgorithms (port : BitVec 5) (ok : Bool)
  /-- R359 -/
  | getDigests (port : BitVec 5) (ok : Bool)
  /-- R359 -/
  | getCertificate (port : BitVec 5) (ok : Bool)
  /-- R359 -/
  | challenge (port : BitVec 5) (ok : Bool)
  /-- R359 -/
  | getMeasurements (port : BitVec 5) (ok : Bool)
  /-- R359 -/
  | keyExchange (port : BitVec 5) (ok : Bool)
  /-- R359 -/
  | finish (port : BitVec 5) (ok : Bool)
  /-- R361 -/
  | keyUpdate (port : BitVec 5) (tx : Bool)
  /-- R345 -/
  | phaseArrival (gid dev : BitVec 12) (len : Nat) (sc : Bool) (scope : BitVec 64) (breach : Bool)
  /-- R345 -/
  | phaseRelease (gid : BitVec 12) (tick : Nat) (seq : BitVec 32) (fail : BitVec 28)
  /-- R345 -/
  | arrivalTimeout (gid : BitVec 12) (leader : Bool) (seq : Nat)
  /-- R343 -/
  | startTick (gid : BitVec 12)
  /-- R343 -/
  | phaseEnd (gid : BitVec 12)
  /-- R344 -/
  | failureNotice (gid : BitVec 12) (detail : BitVec 28)
  /-- R348 -/
  | wordDelivery (w : XWord)
  /-- a word that reaches a port of an entry (R352) -/
  | combine (entry : BitVec 64) (port : BitVec 5) (w : XWord)
  /-- R353 -/
  | markerStep (entry : BitVec 64) (port : BitVec 5) (w : XWord)
  /-- R354 -/
  | entryReplace (entry : BitVec 64) (record : BitVec 1024) (who : BitVec 36)
  /-- R356 -/
  | epochBoundary
  /-- the contributions that have arrived (R356) -/
  | contributionCutoff (arrived : List (BitVec 12 × BitVec 6))
  /-- R356 -/
  | bellResult (r : BitVec 6) (boundary : Nat)
  /-- R356 -/
  | clockSettle
  /-- R357 -/
  | join (dev : BitVec 12)
  /-- R357 -/
  | leave (dev : BitVec 12)
  /-- R358 -/
  | breach (limit : BitVec 6)
  /-- R376 -/
  | preempt (src : Agent)
  /-- R377 -/
  | resume (src : Agent)
  /-- R377 -/
  | sresume (src : Agent) (slot : BitVec 4)
  /-- R63 -/
  | hold (src : Agent) (slot : BitVec 4)
  /-- R63 -/
  | unhold (src : Agent) (slot : BitVec 4)
  /-- the system level frees a held slot that holds no obligation (R63) -/
  | freeHeld (src : Agent) (slot : BitVec 4)
  /-- R391 -/
  | restart
  /-- R392 -/
  | unitFence (unit : FenceUnit)
  /-- R392 -/
  | unfence (unit : FenceUnit)
  /-- the controller has cleared the fault of a machine check of this core (R391) -/
  | faultCleared
  /-- a core of another device is fenced, or no longer (R87) -/
  | awayFence (core : BitVec 32) (fenced : Bool)
  /-- R393 -/
  | fenceDeadline (unit : FenceUnit)
  /-- R394 -/
  | spareAssign (m : Nat)
  /-- R397 -/
  | moduleLeave
  /-- R398 -/
  | scrub (pa : BitVec 64)
  /-- a correctable error is found and corrected in place: the unit in the coding of R390, an address or 0 (R398) -/
  | corrected (unit : BitVec 16) (addr : BitVec 64)
  /-- mask ROM checks the image in flash (R400) -/
  | boot
  /-- R401 -/
  | firmwareUpdate (addr len : BitVec 64)
  /-- R401 -/
  | recovery (addr len : BitVec 64)
  /-- R402 -/
  | securityAlarm (level : BitVec 2)
  /-- R403 -/
  | thermalLimit (die : BitVec 3) (temp : Nat)
  /-- the power that a domain draws, in watts (R16) -/
  | powerDraw (domain : PowerDomain) (watts : Nat)
  /-- the management controller sets the module's limit (R15) -/
  | controllerClock (n : BitVec 6)
  /-- R404 -/
  | powerOn
  /-- the step under way fails (R404) -/
  | powerOnFailed
  /-- R250 -/
  | accessAtHome (acc : Access)
  /-- the answer to a store: its error or 0, and whether it went outside the core's TCM and its cluster's
  scratchpad (R129, R173) -/
  | storeAcknowledgement (who : BitVec 36) (cause : BitVec 8) (ea : BitVec 64) (far : Option (BitVec 12))
  /-- R98 -/
  | millraceRequest (op : MillOp) (who : BitVec 36) (token : BitVec 5) (xroot restb : BitVec 64) (lo hi : BitVec 21)
  /-- Millrace of a device asks the home of an object (R98) -/
  | pipeStep (h : BitVec 64) (what : PipeAsk) (dev : BitVec 12)
  /-- its home answers: 0, or the detail of PBIND's failure -/
  | pipeStepAnswer (what : PipeAsk) (dev : BitVec 12) (code : Nat)
  /-- an engine stage's job on another cluster has ended: its token word, and the rows of C it wrote (R302) -/
  | stageAnswer (inst place idx : Nat) (word : BitVec 64) (rows : List (BitVec 64 × List (BitVec 8)))
  /-- REBIND reaches a placement unit of this core (R94, R303): the DATA handle -/
  | rebindIn (h : BitVec 64)
  /-- the demands of the other cores for lane groups and for the array: core, weight, pieces left (R214) -/
  | lvuArbitration (others array : List (BitVec 3 × Nat × Nat))
  /-- R359 -/
  | linkTraining (port : BitVec 5)
  /-- R360 -/
  | portConfigurationWrite (port : BitVec 5) (value : BitVec 64)
  /-- R401 -/
  | powerFail
  /-- R401 -/
  | controllerRestart
  /-- R395 -/
  | rowRepair (pa spare : BitVec 64)
  /-- R37 -/
  | codeObjectUnload (id : BitVec 32)
  deriving DecidableEq, Repr

/-- The event that a message brings about. -/
def Msg.event : Msg → Instr
  | .codeObjectLoad .. => .codeObjectLoad
  | .launchMessage .. => .launchMessage
  | .launchStep .. => .launchMessage
  | .launchStepAnswer .. => .launchMessage
  | .launchDone .. => .launchMessage
  | .foreignLaunch .. => .launchMessage
  | .placementDecision => .placementDecision
  | .itemDelivery .. => .itemDelivery
  | .itemStarted .. => .itemDelivery
  | .launchAging .. => .launchAging
  | .waitRequest .. => .waitRequest
  | .discharge .. => .discharge
  | .homeOperation .. => .homeOperation
  | .homeAnswer .. => .homeAnswer
  | .wake .. => .wake
  | .cancel .. => .cancel
  | .seizure .. => .obligationTransfer
  | .obligationTransfer .. => .obligationTransfer
  | .hostRegistration .. => .hostRegistration
  | .hostLost .. => .hostLost
  | .refill .. => .refill
  | .continuationMessage .. => .continuationMessage
  | .spillRedelivery => .spillRedelivery
  | .clustldUpdate => .clustldUpdate
  | .coreLoads .. => .clustldUpdate
  | .helperCount .. => .itemDelivery
  | .governorSample => .governorSample
  | .resultArrival .. => .resultArrival
  | .streamRefill .. => .streamRefill
  | .lockRetry .. => .lockRetry
  | .llkLapse .. => .llkLapse
  | .pageWalk .. => .pageWalk
  | .tlbInvalidation .. => .tlbInvalidation
  | .completionNotice .. => .completionNotice
  | .migrationRequest .. => .migrationRequest
  | .migrationConfig .. => .migrationRequest
  | .pinrExpiry .. => .pinrExpiry
  | .mstStamp .. => .mstStamp
  | .mstApply .. => .mstApply
  | .leaseSetup .. => .leaseSetup
  | .reclaim .. => .reclaim
  | .demotionEvent .. => .reclaim
  | .demotionPageCopy .. => .demotionPageCopy
  | .leaseAcknowledgement .. => .leaseAcknowledgement
  | .boundReached .. => .boundReached
  | .copyStart => .copyStart
  | .copyComplete .. => .copyComplete
  | .cpyrAckTimeout .. => .cpyrAckTimeout
  | .mxbStart => .mxbStart
  | .mxbComplete => .mxbComplete
  | .computeJobStart => .computeJobStart
  | .computeJobComplete => .computeJobComplete
  | .mxcapArrival .. => .mxcapArrival
  | .capabilityDue .. => .mxcapArrival
  | .mxcapTimeout .. => .mxcapTimeout
  | .bankJobComplete .. => .bankJobComplete
  | .lvuEntryComplete => .lvuEntryComplete
  | .segmentStart .. => .segmentStart
  | .gateDeadline .. => .gateDeadline
  | .segmentEnd .. => .segmentEnd
  | .bankStageEnqueue .. => .bankStageEnqueue
  | .hostAccess .. => .hostAccess
  | .flitReceive .. => .flitReceive
  | .flitSend .. => .flitReceive
  | .flitAck .. => .replayRequest
  | .replayRequest .. => .replayRequest
  | .fecLockLoss .. => .fecLockLoss
  | .keyExhaustion .. => .keyExhaustion
  | .lock .. => .lock
  | .start .. => .start
  | .managementReset .. => .managementReset
  | .getVersion .. => .getVersion
  | .getCapabilities .. => .getCapabilities
  | .negotiateAlgorithms .. => .negotiateAlgorithms
  | .getDigests .. => .getDigests
  | .getCertificate .. => .getCertificate
  | .challenge .. => .challenge
  | .getMeasurements .. => .getMeasurements
  | .keyExchange .. => .keyExchange
  | .finish .. => .finish
  | .keyUpdate .. => .keyUpdate
  | .phaseArrival .. => .phaseArrival
  | .phaseRelease .. => .phaseRelease
  | .arrivalTimeout .. => .arrivalTimeout
  | .startTick .. => .startTick
  | .phaseEnd .. => .phaseEnd
  | .failureNotice .. => .failureNotice
  | .wordDelivery .. => .wordDelivery
  | .combine .. => .combine
  | .markerStep .. => .markerStep
  | .entryReplace .. => .entryReplace
  | .epochBoundary => .epochBoundary
  | .contributionCutoff .. => .contributionCutoff
  | .bellResult .. => .bellResult
  | .clockSettle => .clockSettle
  | .join .. => .join
  | .leave .. => .leave
  | .breach .. => .breach
  | .preempt .. => .preempt
  | .resume .. => .resume
  | .sresume .. => .sresume
  | .hold .. => .hold
  | .unhold .. => .unhold
  | .freeHeld .. => .unhold
  | .restart => .restart
  | .unitFence .. => .unitFence
  | .unfence .. => .unfence
  | .faultCleared => .unfence
  | .awayFence .. => .unitFence
  | .fenceDeadline .. => .fenceDeadline
  | .spareAssign .. => .spareAssign
  | .moduleLeave => .moduleLeave
  | .scrub .. => .scrub
  | .corrected .. => .scrub
  | .boot => .boot
  | .firmwareUpdate .. => .firmwareUpdate
  | .recovery .. => .recovery
  | .securityAlarm .. => .securityAlarm
  | .thermalLimit .. => .thermalLimit
  | .powerDraw .. => .thermalLimit
  | .controllerClock .. => .thermalLimit
  | .powerOn => .powerOn
  | .powerOnFailed => .powerOn
  | .accessAtHome .. => .accessAtHome
  | .storeAcknowledgement .. => .storeAcknowledgement
  | .millraceRequest .. => .millraceRequest
  | .pipeStep .. => .millraceRequest
  | .pipeStepAnswer .. => .millraceRequest
  | .stageAnswer .. => .bankStageEnqueue
  | .rebindIn .. => .governorSample
  | .lvuArbitration .. => .lvuArbitration
  | .linkTraining .. => .linkTraining
  | .portConfigurationWrite .. => .portConfigurationWrite
  | .powerFail => .powerFail
  | .controllerRestart => .controllerRestart
  | .rowRepair .. => .rowRepair
  | .codeObjectUnload .. => .codeObjectUnload

end Sys2Proof
end

