-- ==== Sys2Proof/WellFormed.lean ====
section
/-!
DEFINITION. Which instructions are well formed: register classes (R110), immediates in their ranges and
fields that must be zero (R111 to R122), and control registers that exist (R116, R125). R123's rule on
long mode depends on the context and stands with the decoder.
-/

namespace Sys2Proof

/-- Why a term of Instr is no instruction of the spec. -/
inductive IllFormed where
  /-- a register number outside its class (R110) -/
  | registerClass
  /-- an immediate outside its stated range (R111 to R122) -/
  | range
  /-- a field that must be zero in this form (R118, R166) -/
  | mustBeZero
  /-- no control register has this number (R116, R125) -/
  | noControlRegister
  deriving DecidableEq, Repr

/-- The control registers this spec assigns (R125, R155, R227, R374, R380). -/
def controlRegisters : List Nat :=
  [0x001, 0x002, 0x003, 0x010, 0x011, 0x012, 0x020, 0x021, 0x022, 0x030, 0x031, 0x040, 0x041,
   0x100, 0x101, 0x102, 0x103, 0x104, 0x105, 0x110] ++
  [0x200, 0x201, 0x202, 0x203, 0x204, 0x205, 0x206, 0x207, 0x300, 0x800, 0x810, 0x811, 0x812,
   0x813, 0x814, 0x815, 0x816, 0x817, 0x818, 0x819, 0x820]

/-- A class check: f and q registers are 0 to 15 (R110). -/
def lowHalf (r : BitVec 5) : Bool := r.toNat < 16

/-- A written mask register is k1 to k7 (R110). -/
def maskDest (r : BitVec 5) : Bool := 1 ≤ r.toNat && r.toNat ≤ 7

/-- A token is a g register other than g0 (R110, R121). -/
def isToken (r : BitVec 5) : Bool := r != 0

/-- The source code of VCVT and QCVT: its class bit picks the table (R122). -/
def cvtSource (src : BitVec 5) (e2m1 : Bool) : Bool :=
  if src.getLsbD 3 then true
  else (src.extractLsb' 0 3).toNat < (if e2m1 then 7 else 6)

/-- The destination code of VCVT and QCVT (R122): bit 4 of the b field is its class. -/
def cvtDest (src : BitVec 5) (t : BitVec 3) (e2m1 : Bool) : Bool :=
  if src.getLsbD 4 then true else t.toNat < (if e2m1 then 7 else 6)

/-- The scale field of the format-pair majors: f[c] and f[c+1] for majors 0x28 to 0x2B, else zero
(R118). -/
def scaleField (p : BitVec 3) (c : BitVec 4) : Option IllFormed :=
  if p.toNat < 4 then (if c = 15 then some .registerClass else none)
  else if c = 0 then none else some .mustBeZero

/-- First failure of a list of checks. -/
def firstIll : List (Bool × IllFormed) → Option IllFormed
  | [] => none
  | (ok, e) :: rest => if ok then firstIll rest else some e

/-- The checks of one instruction, in field order. Events carry no encoding and have none. -/
def Instr.ill : Instr → Option IllFormed

  | .nop => none
  | .halt => none
  | .idle => none
  | .eret => none
  | .trap _ => none
  | .brk _ => none
  | .yield => none
  | .fencei => none
  | .mfc _ n => firstIll [(controlRegisters.contains n.toNat, .noControlRegister)]
  | .mtc _ n => firstIll [(controlRegisters.contains n.toNat, .noControlRegister)]
  | .mxc _ n => firstIll [(controlRegisters.contains n.toNat, .noControlRegister)]
  | .mset _ n => firstIll [(controlRegisters.contains n.toNat, .noControlRegister)]
  | .mclr _ n => firstIll [(controlRegisters.contains n.toNat, .noControlRegister)]
  | .add _ _ _ => none
  | .sub _ _ _ => none
  | .and _ _ _ => none
  | .or _ _ _ => none
  | .xor _ _ _ => none
  | .andn _ _ _ => none
  | .orn _ _ _ => none
  | .shl _ _ _ => none
  | .shr _ _ _ => none
  | .sar _ _ _ => none
  | .rol _ _ _ => none
  | .min _ _ _ => none
  | .max _ _ _ => none
  | .minw _ _ _ => none
  | .maxw _ _ _ => none
  | .slt _ _ _ => none
  | .sltw _ _ _ => none
  | .seq _ _ _ => none
  | .sne _ _ _ => none
  | .cmov _ _ _ _ => none
  | .mul _ _ _ => none
  | .mulh _ _ _ => none
  | .mulhw _ _ _ => none
  | .mulw _ _ _ => none
  | .div _ _ _ => none
  | .divw _ _ _ => none
  | .rem _ _ _ => none
  | .remw _ _ _ => none
  | .clz _ _ => none
  | .ctz _ _ => none
  | .popc _ _ => none
  | .brev _ _ => none
  | .bswap _ _ => none
  | .sext _ _ _ _ => none
  | .zext _ _ _ _ => none
  | .bext _ _ _ => none
  | .bins _ _ _ => none
  | .addi _ _ _ => none
  | .andi _ _ _ => none
  | .ori _ _ _ => none
  | .xori _ _ _ => none
  | .shli _ _ _ => none
  | .shri _ _ _ => none
  | .sari _ _ _ => none
  | .roli _ _ _ => none
  | .slti _ _ _ => none
  | .sltwi _ _ _ => none
  | .movk _ _ _ _ => none
  | .lea _ _ _ _ _ => none
  | .gcoord _ _ => none
  | .widf _ f => firstIll [(f.toNat < 6, .range)]
  | .self _ => none
  | .cload _ => none
  | .beq _ _ nul _ => firstIll [(nul != 3, .range)]
  | .bne _ _ nul _ => firstIll [(nul != 3, .range)]
  | .blt _ _ nul _ => firstIll [(nul != 3, .range)]
  | .bge _ _ nul _ => firstIll [(nul != 3, .range)]
  | .bltw _ _ nul _ => firstIll [(nul != 3, .range)]
  | .bgew _ _ nul _ => firstIll [(nul != 3, .range)]
  | .bbs _ _ nul _ => firstIll [(nul != 3, .range)]
  | .bbc _ _ nul _ => firstIll [(nul != 3, .range)]
  | .j _ => none
  | .call _ => none
  | .jr _ => none
  | .callr _ => none
  | .ret => none
  | .rpt _ _ _ _ _ => none
  | .hstart _ a b c =>
    firstIll [(c.toNat ≤ 10, .range), (c != 0 || (a == 0 && b == 0), .mustBeZero)]
  | .hexit => none
  | .cpack _ _ _ => none
  | .cresume _ _ => none
  | .migrate _ _ _ => none
  | .hstat _ slot => firstIll [(1 ≤ slot.toNat && slot.toNat ≤ 10, .range)]
  | .onew _ _ _ kind => firstIll [(1 ≤ kind.toNat && kind.toNat ≤ 6, .range)]
  | .ofree _ => none
  | .oblig _ _ => none
  | .osig _ => none
  | .orel _ => none
  | .osend _ _ _ _ => none
  | .ofail _ _ => none
  | .otrn _ _ kind => firstIll [(kind.toNat < 4, .range)]
  | .oseize _ _ => none
  | .rsplit _ _ => none
  | .wait _ _ => none
  | .barw _ _ => none
  | .poll _ _ => none
  | .oqry _ _ field => firstIll [(field.toNat < 8, .range)]
  | .ld _ _ w _ => firstIll [(!(w.getLsbD 2 && w.extractLsb' 0 2 == 3), .range)]
  | .st _ _ _ _ _ => none
  | .aadd _ _ _ _ _ => none
  | .aand _ _ _ _ _ => none
  | .aor _ _ _ _ _ => none
  | .axor _ _ _ _ _ => none
  | .amin _ _ _ _ _ => none
  | .amax _ _ _ _ _ => none
  | .aminw _ _ _ _ _ => none
  | .amaxw _ _ _ _ _ => none
  | .aswp _ _ _ _ _ => none
  | .acas _ _ _ _ _ => none
  | .afadd _ _ _ _ _ => none
  | .llk _ _ _ => none
  | .sul _ _ _ _ => none
  | .sun _ _ => none
  | .fence _ => none
  | .fencea _ => none
  | .fencer _ => none
  | .bfence => none
  | .qfence => none
  | .efence => none
  | .mst _ _ _ _ _ => none
  | .vld _ _ _ => none
  | .vst _ _ _ => none
  | .qld q _ _ _ => firstIll [(lowHalf q, .registerClass)]
  | .qst q _ _ _ => firstIll [(lowHalf q, .registerClass)]
  | .qgat q _ x _ => firstIll [(lowHalf q, .registerClass), (lowHalf x, .registerClass)]
  | .qsct q _ x _ => firstIll [(lowHalf q, .registerClass), (lowHalf x, .registerClass)]
  | .cpy d _ _ _ => firstIll [(isToken d, .registerClass)]
  | .cpy2 d _ _ _ => firstIll [(isToken d, .registerClass)]
  | .cpy3 d _ _ _ => firstIll [(isToken d, .registerClass)]
  | .cpyi d _ _ _ => firstIll [(isToken d, .registerClass)]
  | .cpyr d _ _ _ => firstIll [(isToken d, .registerClass)]
  | .cpyrs d _ _ _ => firstIll [(isToken d, .registerClass)]
  | .sopen d _ s cls =>
    firstIll [(isToken d, .registerClass), (cls != 0 || s != 0, .registerClass)]
  | .sclose d s cls =>
    firstIll [(isToken d, .registerClass), (cls != 0 || s != 0, .registerClass)]
  | .sstat _ s cls => firstIll [(cls != 0 || s != 0, .registerClass)]
  | .vadd _ _ _ _ _ => none
  | .vsub _ _ _ _ _ => none
  | .vmul _ _ _ _ _ => none
  | .vmulh _ _ _ _ _ => none
  | .vmin _ _ _ _ _ => none
  | .vmax _ _ _ _ _ => none
  | .vand _ _ _ _ _ => none
  | .vor _ _ _ _ _ => none
  | .vxor _ _ _ _ _ => none
  | .vshl _ _ _ _ _ => none
  | .vshr _ _ _ _ _ => none
  | .vsar _ _ _ _ _ => none
  | .vsel _ _ _ _ _ => none
  | .vabs _ _ _ t => firstIll [(t.toNat < 4, .range)]
  | .vcmp d _ _ _ _ cond => firstIll [(maskDest d, .registerClass), (cond.toNat < 6, .range)]
  | .vfadd _ _ _ _ t => firstIll [(t.toNat < 6, .range)]
  | .vfsub _ _ _ _ t => firstIll [(t.toNat < 6, .range)]
  | .vfmul _ _ _ _ t => firstIll [(t.toNat < 6, .range)]
  | .vfma _ _ _ _ t => firstIll [(t.toNat < 6, .range)]
  | .vfms _ _ _ _ t => firstIll [(t.toNat < 6, .range)]
  | .vfmin _ _ _ _ t => firstIll [(t.toNat < 6, .range)]
  | .vfmax _ _ _ _ t => firstIll [(t.toNat < 6, .range)]
  | .vfabs _ _ _ t => firstIll [(t.toNat < 6, .range)]
  | .vfneg _ _ _ t => firstIll [(t.toNat < 6, .range)]
  | .vfcmp d _ _ _ t _ => firstIll [(maskDest d, .registerClass), (t.toNat < 6, .range)]
  | .vcvt _ _ src _ t => firstIll [(cvtSource src true, .range), (cvtDest src t true, .range)]
  | .vqnt _ _ f t =>
    firstIll [(lowHalf f, .registerClass), (4 ≤ t.toNat && t.toNat ≤ 6, .range)]
  | .vdq _ _ f t =>
    firstIll [(lowHalf f, .registerClass), (4 ≤ t.toNat && t.toNat ≤ 6, .range)]
  | .vshuf _ _ _ _ t => firstIll [(t.toNat < 4, .range)]
  | .vperm _ _ _ _ t => firstIll [(t.toNat < 4, .range)]
  | .vbc _ _ _ t => firstIll [(t.toNat < 4, .range)]
  | .vext _ _ lane t =>
    firstIll [(t.toNat < 4, .range), (lane.toNat < 32 / 2 ^ t.toNat, .range)]
  | .vins _ _ lane t =>
    firstIll [(t.toNat < 4, .range), (lane.toNat < 32 / 2 ^ t.toNat, .range)]
  | .vmovk d _ => firstIll [(maskDest d, .registerClass)]
  | .vexp2 _ _ _ t => firstIll [(1 ≤ t.toNat && t.toNat ≤ 3, .range)]
  | .vlog2 _ _ _ t => firstIll [(1 ≤ t.toNat && t.toNat ≤ 3, .range)]
  | .vrcp _ _ _ t => firstIll [(1 ≤ t.toNat && t.toNat ≤ 3, .range)]
  | .vrsq _ _ _ t => firstIll [(1 ≤ t.toNat && t.toNat ≤ 3, .range)]
  | .vsin _ _ _ t => firstIll [(1 ≤ t.toNat && t.toNat ≤ 3, .range)]
  | .vcos _ _ _ t => firstIll [(1 ≤ t.toNat && t.toNat ≤ 3, .range)]
  | .vtanh _ _ _ t => firstIll [(1 ≤ t.toNat && t.toNat ≤ 3, .range)]
  | .vsigm _ _ _ t => firstIll [(1 ≤ t.toNat && t.toNat ≤ 3, .range)]
  | .vrsum _ _ _ t int => firstIll [(int == 1 || t.toNat < 6, .range)]
  | .vrmax _ _ _ t int => firstIll [(int == 1 || t.toNat < 6, .range)]
  | .vrmin _ _ _ t int => firstIll [(int == 1 || t.toNat < 6, .range)]
  | .res _ _ _ => none
  | .vdot p _ _ _ c _ => scaleField p c
  | .qdot p d a b c =>
    (scaleField p c).or (firstIll [(lowHalf d, .registerClass), (lowHalf a, .registerClass), (lowHalf b, .registerClass)])
  | .mxa p d _ _ c =>
    (scaleField p c).or (firstIll [(isToken d, .registerClass), (p.toNat ≤ 5, .range)])
  | .bmv p d _ _ c =>
    (scaleField p c).or (firstIll [(isToken d, .registerClass), (p.toNat ≤ 4, .range)])
  | .qdop d a b =>
    firstIll [(lowHalf d, .registerClass), (lowHalf a, .registerClass), (lowHalf b, .registerClass)]
  | .vlong => none
  | .vshort => none
  | .qmov d a => firstIll [(lowHalf d, .registerClass), (lowHalf a, .registerClass)]
  | .qsplat d _ _ => firstIll [(lowHalf d, .registerClass)]
  | .qxv _ a _ => firstIll [(lowHalf a, .registerClass)]
  | .qxq d _ _ => firstIll [(lowHalf d, .registerClass)]
  | .qfadd d a b t =>
    firstIll [(lowHalf d, .registerClass), (lowHalf a, .registerClass), (lowHalf b, .registerClass), (t.toNat < 6, .range)]
  | .qfmul d a b t =>
    firstIll [(lowHalf d, .registerClass), (lowHalf a, .registerClass), (lowHalf b, .registerClass), (t.toNat < 6, .range)]
  | .qfma d a b t =>
    firstIll [(lowHalf d, .registerClass), (lowHalf a, .registerClass), (lowHalf b, .registerClass), (t.toNat < 6, .range)]
  | .qfmin d a b t =>
    firstIll [(lowHalf d, .registerClass), (lowHalf a, .registerClass), (lowHalf b, .registerClass), (t.toNat < 6, .range)]
  | .qfmax d a b t =>
    firstIll [(lowHalf d, .registerClass), (lowHalf a, .registerClass), (lowHalf b, .registerClass), (t.toNat < 6, .range)]
  | .qcvt d a src t =>
    firstIll [(lowHalf d, .registerClass), (lowHalf a, .registerClass), (cvtSource src false, .range), (cvtDest src t false, .range)]
  | .qsel d a b t =>
    firstIll [(lowHalf d, .registerClass), (lowHalf a, .registerClass), (lowHalf b, .registerClass), (t.toNat < 6, .range)]
  | .qfcmp d a b t _ =>
    firstIll [(lowHalf d, .registerClass), (lowHalf a, .registerClass), (lowHalf b, .registerClass), (t.toNat < 6, .range)]
  | .qadd d a b _ =>
    firstIll [(lowHalf d, .registerClass), (lowHalf a, .registerClass), (lowHalf b, .registerClass)]
  | .qsub d a b _ =>
    firstIll [(lowHalf d, .registerClass), (lowHalf a, .registerClass), (lowHalf b, .registerClass)]
  | .qmul d a b _ =>
    firstIll [(lowHalf d, .registerClass), (lowHalf a, .registerClass), (lowHalf b, .registerClass)]
  | .qand d a b _ =>
    firstIll [(lowHalf d, .registerClass), (lowHalf a, .registerClass), (lowHalf b, .registerClass)]
  | .qor d a b _ =>
    firstIll [(lowHalf d, .registerClass), (lowHalf a, .registerClass), (lowHalf b, .registerClass)]
  | .qxor d a b _ =>
    firstIll [(lowHalf d, .registerClass), (lowHalf a, .registerClass), (lowHalf b, .registerClass)]
  | .qshl d a b _ =>
    firstIll [(lowHalf d, .registerClass), (lowHalf a, .registerClass), (lowHalf b, .registerClass)]
  | .qshr d a b _ =>
    firstIll [(lowHalf d, .registerClass), (lowHalf a, .registerClass), (lowHalf b, .registerClass)]
  | .qmin d a b _ =>
    firstIll [(lowHalf d, .registerClass), (lowHalf a, .registerClass), (lowHalf b, .registerClass)]
  | .qmax d a b _ =>
    firstIll [(lowHalf d, .registerClass), (lowHalf a, .registerClass), (lowHalf b, .registerClass)]
  | .qcmp d a b _ cond =>
    firstIll [(lowHalf d, .registerClass), (lowHalf a, .registerClass), (lowHalf b, .registerClass), (cond.toNat < 6, .range)]
  | .qrsum _ a t int =>
    firstIll [(lowHalf a, .registerClass), (int == 1 || t.toNat < 6, .range)]
  | .qrmax _ a t int =>
    firstIll [(lowHalf a, .registerClass), (int == 1 || t.toNat < 6, .range)]
  | .qrmin _ a t int =>
    firstIll [(lowHalf a, .registerClass), (int == 1 || t.toNat < 6, .range)]
  | .mxb d _ _ => firstIll [(isToken d, .registerClass)]
  | .mxj d _ => firstIll [(isToken d, .registerClass)]
  | .mxcap d _ _ => firstIll [(isToken d, .registerClass)]
  | .mxst _ _ => none
  | .bvld d _ _ => firstIll [(isToken d, .registerClass)]
  | .bvrd d _ _ => firstIll [(isToken d, .registerClass)]
  | .bcfg d _ => firstIll [(isToken d, .registerClass)]
  | .bstat _ _ => none
  | .pbind d _ => firstIll [(isToken d, .registerClass)]
  | .pfree d _ => firstIll [(isToken d, .registerClass)]
  | .pstat d _ => firstIll [(isToken d, .registerClass)]
  | .enq _ _ => none
  | .deq _ _ => none
  | .xph _ _ _ => none
  | .xsnd _ _ _ _ => none
  | .xrcv _ _ _ _ => none
  | .xend _ => none
  | .xmrk _ _ => none
  | .xvs _ _ => none
  | .codeObjectLoad => none
  | .launchMessage => none
  | .placementDecision => none
  | .itemDelivery => none
  | .launchAging => none
  | .waitRequest => none
  | .discharge => none
  | .homeOperation => none
  | .homeAnswer => none
  | .wake => none
  | .cancel => none
  | .obligationTransfer => none
  | .hostRegistration => none
  | .hostLost => none
  | .refill => none
  | .continuationMessage => none
  | .spillRedelivery => none
  | .clustldUpdate => none
  | .governorSample => none
  | .takeUpcall => none
  | .resultArrival => none
  | .streamRefill => none
  | .lockRetry => none
  | .llkLapse => none
  | .pageWalk => none
  | .tlbInvalidation => none
  | .completionNotice => none
  | .migrationRequest => none
  | .pinrExpiry => none
  | .mstStamp => none
  | .mstApply => none
  | .leaseSetup => none
  | .reclaim => none
  | .demotionPageCopy => none
  | .leaseAcknowledgement => none
  | .boundReached => none
  | .copyStart => none
  | .copyComplete => none
  | .cpyrAckTimeout => none
  | .mxbStart => none
  | .mxbComplete => none
  | .computeJobStart => none
  | .computeJobComplete => none
  | .mxcapArrival => none
  | .mxcapTimeout => none
  | .bankJobComplete => none
  | .lvuEntryComplete => none
  | .segmentStart => none
  | .gateDeadline => none
  | .segmentEnd => none
  | .bankStageEnqueue => none
  | .hostAccess => none
  | .flitReceive => none
  | .replayRequest => none
  | .fecLockLoss => none
  | .keyExhaustion => none
  | .lock => none
  | .start => none
  | .managementReset => none
  | .getVersion => none
  | .getCapabilities => none
  | .negotiateAlgorithms => none
  | .getDigests => none
  | .getCertificate => none
  | .challenge => none
  | .getMeasurements => none
  | .keyExchange => none
  | .finish => none
  | .keyUpdate => none
  | .phaseArrival => none
  | .phaseRelease => none
  | .arrivalTimeout => none
  | .startTick => none
  | .phaseEnd => none
  | .failureNotice => none
  | .wordDelivery => none
  | .combine => none
  | .markerStep => none
  | .entryReplace => none
  | .epochBoundary => none
  | .contributionCutoff => none
  | .bellResult => none
  | .clockSettle => none
  | .join => none
  | .leave => none
  | .breach => none
  | .preempt => none
  | .resume => none
  | .sresume => none
  | .hold => none
  | .unhold => none
  | .restart => none
  | .unitFence => none
  | .unfence => none
  | .fenceDeadline => none
  | .spareAssign => none
  | .moduleLeave => none
  | .scrub => none
  | .boot => none
  | .firmwareUpdate => none
  | .recovery => none
  | .securityAlarm => none
  | .thermalLimit => none
  | .powerOn => none
  | .illegalInstructionWord => none
  | .fetchCheck => none
  | .accessAtHome => none
  | .storeAcknowledgement => none
  | .millraceRequest => none
  | .lvuArbitration => none
  | .linkTraining => none
  | .portConfigurationWrite => none
  | .powerFail => none
  | .controllerRestart => none
  | .rowRepair => none
  | .codeObjectUnload => none

/-- The instruction is one of the spec's (R110 to R122). -/
def Instr.wellFormed (i : Instr) : Bool := i.ill.isNone

end Sys2Proof
end

