-- ==== Sys2Proof/Decode.lean ====
section
/-!
DEFINITION. Decoding (R109 to R125) and the encoder beside it. A word that is no instruction is refused
by name; the machine traps ILL on it (R124). decodeWord takes every word of the spec's tables whatever
the mode; decode adds R123's rule on long mode.
-/

namespace Sys2Proof

/-- Why a word, or a list of bytes, is no instruction (R124). -/
inductive DecodeError where
  /-- fewer than four bytes -/
  | truncated
  /-- major 0x00, or 0x38 and above (R119) -/
  | reservedMajor
  /-- a function number the major does not list (R120 to R122) -/
  | function
  /-- a nonzero must-be-zero field (R5, R109) -/
  | mustBeZero
  /-- a field outside its class or range -/
  | illFormed (why : IllFormed)
  /-- a q form in short mode, or VLONG in long mode (R123) -/
  | longMode
  deriving DecidableEq, Repr

/-- Accept an instruction whose must-be-zero fields are zero. -/
def mbz (zero : Bool) (i : Instr) : Except DecodeError Instr :=
  if zero then .ok i else .error .mustBeZero

/-! The layouts of R109, most significant field first. -/

/-- R layout, and A, E and X. -/
def packR (op : BitVec 6) (d a b : BitVec 5) (fn : BitVec 6) (c : BitVec 5) : W32 :=
  op ++ d ++ a ++ b ++ fn ++ c

/-- I layout; K has pos, keep and two zeros in the place of a. -/
def packI (op : BitVec 6) (d a : BitVec 5) (k : BitVec 16) : W32 := op ++ d ++ a ++ k

/-- L layout. -/
def packL (op : BitVec 6) (d a b : BitVec 5) (sc : BitVec 2) (disp : BitVec 9) : W32 :=
  op ++ d ++ a ++ b ++ sc ++ disp

/-- B layout. -/
def packB (op : BitVec 6) (a b : BitVec 5) (cc : BitVec 3) (nul : BitVec 2) (disp : BitVec 11) : W32 :=
  op ++ a ++ b ++ cc ++ nul ++ disp

/-- J layout. -/
def packJ (op : BitVec 6) (disp : BitVec 26) : W32 := op ++ disp

/-- M layout. -/
def packM (op : BitVec 6) (d a : BitVec 5) (w : BitVec 4) (disp : BitVec 12) : W32 :=
  op ++ d ++ a ++ w ++ disp

/-- F layout. -/
def packF (op : BitVec 6) (n : BitVec 4) (count : BitVec 10) (sd sa sb : BitVec 2) : W32 :=
  op ++ n ++ count ++ sd ++ sa ++ sb ++ 0#6

/-- C layout. -/
def packC (op : BitVec 6) (g : BitVec 5) (n : BitVec 12) (fn : BitVec 3) : W32 :=
  op ++ g ++ n ++ fn ++ 0#6

/-- V layout. -/
def packV (op : BitVec 6) (d a b : BitVec 5) (k t : BitVec 3) (fn : BitVec 5) : W32 :=
  op ++ d ++ a ++ b ++ k ++ t ++ fn

/-- D layout. -/
def packD (op : BitVec 6) (d a b : BitVec 5) (c : BitVec 4) (k : BitVec 3) (fn : BitVec 4) : W32 :=
  op ++ d ++ a ++ b ++ c ++ k ++ fn


/-- Functions of major 0x01 (R120, R121). -/
def decodeSys (d a b : BitVec 5) (fn : BitVec 6) (c : BitVec 5) : Except DecodeError Instr :=
  match fn.toNat with
  | 0 => mbz (d == 0 && a == 0 && b == 0 && c == 0) (.nop)
  | 1 => mbz (d == 0 && a == 0 && b == 0 && c == 0) (.halt)
  | 2 => mbz (d == 0 && a == 0 && b == 0 && c == 0) (.idle)
  | 3 => mbz (d == 0 && a == 0 && b == 0 && c == 0) (.eret)
  | 4 => mbz (c == 0) (.trap (d ++ a ++ b))
  | 5 => mbz (c == 0) (.brk (d ++ a ++ b))
  | 6 => mbz (d == 0 && a == 0 && b == 0 && c == 0) (.yield)
  | 7 => mbz (d == 0 && a == 0 && b == 0 && c == 0) (.fencei)
  | _ => .error .function

/-- Functions of major 0x03 (R120, R121). -/
def decodeAlu (d a b : BitVec 5) (fn : BitVec 6) (c : BitVec 5) : Except DecodeError Instr :=
  match fn.toNat with
  | 0 => mbz (c == 0) (.add d a b)
  | 1 => mbz (c == 0) (.sub d a b)
  | 2 => mbz (c == 0) (.and d a b)
  | 3 => mbz (c == 0) (.or d a b)
  | 4 => mbz (c == 0) (.xor d a b)
  | 5 => mbz (c == 0) (.andn d a b)
  | 6 => mbz (c == 0) (.orn d a b)
  | 7 => mbz (c == 0) (.shl d a b)
  | 8 => mbz (c == 0) (.shr d a b)
  | 9 => mbz (c == 0) (.sar d a b)
  | 10 => mbz (c == 0) (.rol d a b)
  | 11 => mbz (c == 0) (.min d a b)
  | 12 => mbz (c == 0) (.max d a b)
  | 13 => mbz (c == 0) (.minw d a b)
  | 14 => mbz (c == 0) (.maxw d a b)
  | 15 => mbz (c == 0) (.slt d a b)
  | 16 => mbz (c == 0) (.sltw d a b)
  | 17 => mbz (c == 0) (.seq d a b)
  | 18 => mbz (c == 0) (.sne d a b)
  | 19 => .ok (.cmov d a b c)
  | _ => .error .function

/-- Functions of major 0x04 (R120, R121). -/
def decodeMul (d a b : BitVec 5) (fn : BitVec 6) (c : BitVec 5) : Except DecodeError Instr :=
  match fn.toNat with
  | 0 => mbz (c == 0) (.mul d a b)
  | 1 => mbz (c == 0) (.mulh d a b)
  | 2 => mbz (c == 0) (.mulhw d a b)
  | 3 => mbz (c == 0) (.mulw d a b)
  | 4 => mbz (c == 0) (.div d a b)
  | 5 => mbz (c == 0) (.divw d a b)
  | 6 => mbz (c == 0) (.rem d a b)
  | 7 => mbz (c == 0) (.remw d a b)
  | _ => .error .function

/-- Functions of major 0x05 (R120, R121). -/
def decodeBit (d a b : BitVec 5) (fn : BitVec 6) (c : BitVec 5) : Except DecodeError Instr :=
  match fn.toNat with
  | 0 => mbz (b == 0 && c == 0) (.clz d a)
  | 1 => mbz (b == 0 && c == 0) (.ctz d a)
  | 2 => mbz (b == 0 && c == 0) (.popc d a)
  | 3 => mbz (b == 0 && c == 0) (.brev d a)
  | 4 => mbz (b == 0 && c == 0) (.bswap d a)
  | 5 => mbz (b.extractLsb' 1 4 == 0) (.sext d a (b.extractLsb' 0 1) c)
  | 6 => mbz (b.extractLsb' 1 4 == 0) (.zext d a (b.extractLsb' 0 1) c)
  | 7 => mbz (c == 0) (.bext d a b)
  | 8 => mbz (c == 0) (.bins d a b)
  | _ => .error .function

/-- Functions of major 0x0F (R120, R121). -/
def decodeAdr (d a b : BitVec 5) (fn : BitVec 6) (c : BitVec 5) : Except DecodeError Instr :=
  match fn.toNat with
  | 0 => mbz (b == 0 && c == 0) (.gcoord d a)
  | 1 => mbz (a == 0 && b == 0) (.widf d c)
  | 2 => mbz (a == 0 && b == 0 && c == 0) (.self d)
  | 3 => mbz (a == 0 && b == 0 && c == 0) (.cload d)
  | _ => .error .function

/-- Functions of major 0x13 (R120, R121). -/
def decodeJr (d a b : BitVec 5) (fn : BitVec 6) (c : BitVec 5) : Except DecodeError Instr :=
  match fn.toNat with
  | 0 => mbz (d == 0 && b == 0 && c == 0) (.jr a)
  | 1 => mbz (d == 0 && b == 0 && c == 0) (.callr a)
  | 2 => mbz (d == 0 && a == 0 && b == 0 && c == 0) (.ret)
  | _ => .error .function

/-- Functions of major 0x15 (R120, R121). -/
def decodeCtx (d a b : BitVec 5) (fn : BitVec 6) (c : BitVec 5) : Except DecodeError Instr :=
  match fn.toNat with
  | 0 => .ok (.hstart d a b c)
  | 1 => mbz (d == 0 && a == 0 && b == 0 && c == 0) (.hexit)
  | 2 => mbz (c == 0) (.cpack d a b)
  | 3 => mbz (b == 0 && c == 0) (.cresume d a)
  | 4 => mbz (c == 0) (.migrate d a b)
  | 5 => mbz (a == 0 && b == 0) (.hstat d c)
  | _ => .error .function

/-- Functions of major 0x16 (R120, R121). -/
def decodeObl (d a b : BitVec 5) (fn : BitVec 6) (c : BitVec 5) : Except DecodeError Instr :=
  match fn.toNat with
  | 0 => .ok (.onew d a b c)
  | 1 => mbz (d == 0 && b == 0 && c == 0) (.ofree a)
  | 2 => mbz (b == 0 && c == 0) (.oblig d a)
  | 3 => mbz (d == 0 && b == 0 && c == 0) (.osig a)
  | 4 => mbz (d == 0 && b == 0 && c == 0) (.orel a)
  | 5 => .ok (.osend d a b c)
  | 6 => mbz (d == 0 && c == 0) (.ofail a b)
  | 7 => mbz (d == 0) (.otrn a b c)
  | 8 => mbz (b == 0 && c == 0) (.oseize d a)
  | 9 => mbz (d == 0 && c == 0) (.rsplit a b)
  | _ => .error .function

/-- Functions of major 0x17 (R120, R121). -/
def decodeWt (d a b : BitVec 5) (fn : BitVec 6) (c : BitVec 5) : Except DecodeError Instr :=
  match fn.toNat with
  | 0 => mbz (b == 0 && c == 0) (.wait d a)
  | 1 => mbz (b == 0 && c == 0) (.barw d a)
  | 2 => mbz (b == 0 && c == 0) (.poll d a)
  | 3 => mbz (b == 0) (.oqry d a c)
  | _ => .error .function

/-- Functions of major 0x1B (R120, R121). -/
def decodeLlk (d a b : BitVec 5) (fn : BitVec 6) (c : BitVec 5) : Except DecodeError Instr :=
  match fn.toNat with
  | 0 => mbz (c.extractLsb' 1 4 == 0 && b == 0) (.llk d a (c.extractLsb' 0 1))
  | 1 => mbz (c.extractLsb' 1 4 == 0) (.sul d a b (c.extractLsb' 0 1))
  | 2 => mbz (b == 0 && c == 0) (.sun d a)
  | _ => .error .function

/-- Functions of major 0x1C (R120, R121). -/
def decodeFen (d a b : BitVec 5) (fn : BitVec 6) (c : BitVec 5) : Except DecodeError Instr :=
  match fn.toNat with
  | 0 => mbz (d == 0 && b == 0 && c == 0) (.fence a)
  | 1 => mbz (d == 0 && b == 0 && c == 0) (.fencea a)
  | 2 => mbz (d == 0 && b == 0 && c == 0) (.fencer a)
  | 3 => mbz (d == 0 && a == 0 && b == 0 && c == 0) (.bfence)
  | 4 => mbz (d == 0 && a == 0 && b == 0 && c == 0) (.qfence)
  | 5 => mbz (d == 0 && a == 0 && b == 0 && c == 0) (.efence)
  | _ => .error .function

/-- Functions of major 0x1F (R120, R121). -/
def decodeQmem (d a b : BitVec 5) (fn : BitVec 6) (c : BitVec 5) : Except DecodeError Instr :=
  match fn.toNat with
  | 0 => mbz (c.extractLsb' 2 3 == 0) (.qld d a b (c.extractLsb' 0 2))
  | 1 => mbz (c.extractLsb' 2 3 == 0) (.qst d a b (c.extractLsb' 0 2))
  | 2 => mbz (c.extractLsb' 2 3 == 0) (.qgat d a b (c.extractLsb' 0 2))
  | 3 => mbz (c.extractLsb' 2 3 == 0) (.qsct d a b (c.extractLsb' 0 2))
  | _ => .error .function

/-- Functions of major 0x20 (R120, R121). -/
def decodeCpy (d a b : BitVec 5) (fn : BitVec 6) (c : BitVec 5) : Except DecodeError Instr :=
  match fn.toNat with
  | 0 => .ok (.cpy d a b c)
  | 1 => .ok (.cpy2 d a b c)
  | 2 => .ok (.cpy3 d a b c)
  | 3 => .ok (.cpyi d a b c)
  | 4 => .ok (.cpyr d a b c)
  | 5 => .ok (.cpyrs d a b c)
  | _ => .error .function

/-- Functions of major 0x21 (R120, R121). -/
def decodeStm (d a b : BitVec 5) (fn : BitVec 6) (c : BitVec 5) : Except DecodeError Instr :=
  match fn.toNat with
  | 0 => mbz (c.extractLsb' 1 4 == 0) (.sopen d a b (c.extractLsb' 0 1))
  | 1 => mbz (c.extractLsb' 1 4 == 0 && a == 0) (.sclose d b (c.extractLsb' 0 1))
  | 2 => mbz (c.extractLsb' 1 4 == 0 && a == 0) (.sstat d b (c.extractLsb' 0 1))
  | _ => .error .function

/-- Functions of major 0x30 (R120, R121). -/
def decodeQm (d a b : BitVec 5) (fn : BitVec 6) (c : BitVec 5) : Except DecodeError Instr :=
  match fn.toNat with
  | 0 => mbz (d == 0 && a == 0 && b == 0 && c == 0) (.vlong)
  | 1 => mbz (d == 0 && a == 0 && b == 0 && c == 0) (.vshort)
  | 2 => mbz (b == 0 && c == 0) (.qmov d a)
  | 3 => mbz (c.extractLsb' 2 3 == 0 && b == 0) (.qsplat d a (c.extractLsb' 0 2))
  | 4 => mbz (c == 0) (.qxv d a b)
  | 5 => mbz (c == 0) (.qxq d a b)
  | _ => .error .function

/-- Functions of major 0x34 (R120, R121). -/
def decodeMx (d a b : BitVec 5) (fn : BitVec 6) (c : BitVec 5) : Except DecodeError Instr :=
  match fn.toNat with
  | 0 => mbz (c == 0) (.mxb d a b)
  | 1 => mbz (b == 0 && c == 0) (.mxj d a)
  | 2 => mbz (c == 0) (.mxcap d a b)
  | 3 => mbz (b == 0 && c == 0) (.mxst d a)
  | _ => .error .function

/-- Functions of major 0x35 (R120, R121). -/
def decodeBk (d a b : BitVec 5) (fn : BitVec 6) (c : BitVec 5) : Except DecodeError Instr :=
  match fn.toNat with
  | 0 => mbz (c == 0) (.bvld d a b)
  | 1 => mbz (c == 0) (.bvrd d a b)
  | 2 => mbz (b == 0 && c == 0) (.bcfg d a)
  | 3 => mbz (b == 0 && c == 0) (.bstat d a)
  | _ => .error .function

/-- Functions of major 0x36 (R120, R121). -/
def decodePl (d a b : BitVec 5) (fn : BitVec 6) (c : BitVec 5) : Except DecodeError Instr :=
  match fn.toNat with
  | 0 => mbz (b == 0 && c == 0) (.pbind d a)
  | 1 => mbz (b == 0 && c == 0) (.pfree d a)
  | 2 => mbz (b == 0 && c == 0) (.pstat d a)
  | 3 => mbz (b == 0 && c == 0) (.enq d a)
  | 4 => mbz (b == 0 && c == 0) (.deq d a)
  | _ => .error .function

/-- Functions of major 0x37 (R120, R121). -/
def decodeXc (d a b : BitVec 5) (fn : BitVec 6) (c : BitVec 5) : Except DecodeError Instr :=
  match fn.toNat with
  | 0 => mbz (c == 0) (.xph d a b)
  | 1 => .ok (.xsnd d a b c)
  | 2 => .ok (.xrcv d a b c)
  | 3 => mbz (a == 0 && b == 0 && c == 0) (.xend d)
  | 4 => mbz (d == 0 && c == 0) (.xmrk a b)
  | 5 => mbz (d == 0 && c == 0) (.xvs a b)
  | _ => .error .function

/-- Functions of ATOM: fn[5:4] is the ordering (R249). -/
def decodeAtom (d a b : BitVec 5) (fn : BitVec 6) (c : BitVec 5) : Except DecodeError Instr :=
  if c.extractLsb' 1 4 != 0 then .error .mustBeZero else
  match (fn.extractLsb' 0 4).toNat with
  | 0 => .ok (.aadd d a b (fn.extractLsb' 4 2) (c.extractLsb' 0 1))
  | 1 => .ok (.aand d a b (fn.extractLsb' 4 2) (c.extractLsb' 0 1))
  | 2 => .ok (.aor d a b (fn.extractLsb' 4 2) (c.extractLsb' 0 1))
  | 3 => .ok (.axor d a b (fn.extractLsb' 4 2) (c.extractLsb' 0 1))
  | 4 => .ok (.amin d a b (fn.extractLsb' 4 2) (c.extractLsb' 0 1))
  | 5 => .ok (.amax d a b (fn.extractLsb' 4 2) (c.extractLsb' 0 1))
  | 6 => .ok (.aminw d a b (fn.extractLsb' 4 2) (c.extractLsb' 0 1))
  | 7 => .ok (.amaxw d a b (fn.extractLsb' 4 2) (c.extractLsb' 0 1))
  | 8 => .ok (.aswp d a b (fn.extractLsb' 4 2) (c.extractLsb' 0 1))
  | 9 => .ok (.acas d a b (fn.extractLsb' 4 2) (c.extractLsb' 0 1))
  | 10 => .ok (.afadd d a b (fn.extractLsb' 4 2) (c.extractLsb' 0 1))
  | _ => .error .function

/-- Functions of major 0x22 (R122). -/
def decodeVi (d a b : BitVec 5) (k t : BitVec 3) (fn : BitVec 5) : Except DecodeError Instr :=
  match fn.toNat with
  | 0 => .ok (.vadd d a b k t)
  | 1 => .ok (.vsub d a b k t)
  | 2 => .ok (.vmul d a b k t)
  | 3 => .ok (.vmulh d a b k t)
  | 4 => .ok (.vmin d a b k t)
  | 5 => .ok (.vmax d a b k t)
  | 6 => .ok (.vand d a b k t)
  | 7 => .ok (.vor d a b k t)
  | 8 => .ok (.vxor d a b k t)
  | 9 => .ok (.vshl d a b k t)
  | 10 => .ok (.vshr d a b k t)
  | 11 => .ok (.vsar d a b k t)
  | 12 => .ok (.vsel d a b k t)
  | 13 => mbz (b == 0) (.vabs d a k t)
  | 16 | 17 | 18 | 19 | 20 | 21 | 22 | 23 => .ok (.vcmp d a b k t (fn.extractLsb' 0 3))
  | _ => .error .function

/-- Functions of major 0x23 (R122). -/
def decodeVf (d a b : BitVec 5) (k t : BitVec 3) (fn : BitVec 5) : Except DecodeError Instr :=
  match fn.toNat with
  | 0 => .ok (.vfadd d a b k t)
  | 1 => .ok (.vfsub d a b k t)
  | 2 => .ok (.vfmul d a b k t)
  | 3 => .ok (.vfma d a b k t)
  | 4 => .ok (.vfms d a b k t)
  | 5 => .ok (.vfmin d a b k t)
  | 6 => .ok (.vfmax d a b k t)
  | 7 => mbz (b == 0) (.vfabs d a k t)
  | 8 => mbz (b == 0) (.vfneg d a k t)
  | 16 | 17 | 18 | 19 | 20 | 21 | 22 | 23 => .ok (.vfcmp d a b k t (fn.extractLsb' 0 3))
  | _ => .error .function

/-- Functions of major 0x24 (R122). -/
def decodeVx (d a b : BitVec 5) (k t : BitVec 3) (fn : BitVec 5) : Except DecodeError Instr :=
  match fn.toNat with
  | 0 => .ok (.vcvt d a b k t)
  | 1 => mbz (k == 0) (.vqnt d a b t)
  | 2 => mbz (k == 0) (.vdq d a b t)
  | 3 => .ok (.vshuf d a b k t)
  | 4 => .ok (.vperm d a b k t)
  | 5 => mbz (b == 0) (.vbc d a k t)
  | 6 => mbz (k == 0) (.vext d a b t)
  | 7 => mbz (k == 0) (.vins d a b t)
  | 8 => mbz (b == 0 && k == 0 && t == 0) (.vmovk d a)
  | _ => .error .function

/-- Functions of major 0x25 (R122). -/
def decodeVs (d a b : BitVec 5) (k t : BitVec 3) (fn : BitVec 5) : Except DecodeError Instr :=
  match fn.toNat with
  | 0 => mbz (b == 0) (.vexp2 d a k t)
  | 1 => mbz (b == 0) (.vlog2 d a k t)
  | 2 => mbz (b == 0) (.vrcp d a k t)
  | 3 => mbz (b == 0) (.vrsq d a k t)
  | 4 => mbz (b == 0) (.vsin d a k t)
  | 5 => mbz (b == 0) (.vcos d a k t)
  | 6 => mbz (b == 0) (.vtanh d a k t)
  | 7 => mbz (b == 0) (.vsigm d a k t)
  | _ => .error .function

/-- Functions of major 0x26 (R122). -/
def decodeVr (d a b : BitVec 5) (k t : BitVec 3) (fn : BitVec 5) : Except DecodeError Instr :=
  match fn.toNat with
  | 0 | 8 => mbz (b == 0) (.vrsum d a k t (fn.extractLsb' 3 1))
  | 1 | 9 => mbz (b == 0) (.vrmax d a k t (fn.extractLsb' 3 1))
  | 2 | 10 => mbz (b == 0) (.vrmin d a k t (fn.extractLsb' 3 1))
  | _ => .error .function

/-- Functions of major 0x31 (R122). -/
def decodeQf (d a b : BitVec 5) (k t : BitVec 3) (fn : BitVec 5) : Except DecodeError Instr :=
  match fn.toNat with
  | 0 => mbz (k == 0) (.qfadd d a b t)
  | 1 => mbz (k == 0) (.qfmul d a b t)
  | 2 => mbz (k == 0) (.qfma d a b t)
  | 3 => mbz (k == 0) (.qfmin d a b t)
  | 4 => mbz (k == 0) (.qfmax d a b t)
  | 5 => mbz (k == 0) (.qcvt d a b t)
  | 6 => mbz (k == 0) (.qsel d a b t)
  | 16 | 17 | 18 | 19 | 20 | 21 | 22 | 23 => mbz (k == 0) (.qfcmp d a b t (fn.extractLsb' 0 3))
  | _ => .error .function

/-- Functions of major 0x32 (R122). -/
def decodeQi (d a b : BitVec 5) (k t : BitVec 3) (fn : BitVec 5) : Except DecodeError Instr :=
  match fn.toNat with
  | 0 => mbz (k == 0) (.qadd d a b t)
  | 1 => mbz (k == 0) (.qsub d a b t)
  | 2 => mbz (k == 0) (.qmul d a b t)
  | 3 => mbz (k == 0) (.qand d a b t)
  | 4 => mbz (k == 0) (.qor d a b t)
  | 5 => mbz (k == 0) (.qxor d a b t)
  | 6 => mbz (k == 0) (.qshl d a b t)
  | 7 => mbz (k == 0) (.qshr d a b t)
  | 8 => mbz (k == 0) (.qmin d a b t)
  | 9 => mbz (k == 0) (.qmax d a b t)
  | 16 | 17 | 18 | 19 | 20 | 21 | 22 | 23 => mbz (k == 0) (.qcmp d a b t (fn.extractLsb' 0 3))
  | _ => .error .function

/-- Functions of major 0x33 (R122). -/
def decodeQr (d a b : BitVec 5) (k t : BitVec 3) (fn : BitVec 5) : Except DecodeError Instr :=
  match fn.toNat with
  | 0 | 8 => mbz (b == 0 && k == 0) (.qrsum d a t (fn.extractLsb' 3 1))
  | 1 | 9 => mbz (b == 0 && k == 0) (.qrmax d a t (fn.extractLsb' 3 1))
  | 2 | 10 => mbz (b == 0 && k == 0) (.qrmin d a t (fn.extractLsb' 3 1))
  | _ => .error .function

/-- The C format (R116, R154). -/
def decodeCr (g : BitVec 5) (n : BitVec 12) (fn : BitVec 3) (z : BitVec 6) : Except DecodeError Instr :=
  if z != 0 then .error .mustBeZero else
  match fn.toNat with
  | 0 => .ok (.mfc g n)
  | 1 => .ok (.mtc g n)
  | 2 => .ok (.mxc g n)
  | 3 => .ok (.mset g n)
  | 4 => .ok (.mclr g n)
  | _ => .error .function

/-- SHI: k[15:8] zero, k[7:6] the kind (R111). -/
def decodeShi (d a : BitVec 5) (k : BitVec 16) : Except DecodeError Instr :=
  if k.extractLsb' 8 8 != 0 then .error .mustBeZero else
  match (k.extractLsb' 6 2).toNat with
  | 0 => .ok (.shli d a (k.extractLsb' 0 6))
  | 1 => .ok (.shri d a (k.extractLsb' 0 6))
  | 2 => .ok (.sari d a (k.extractLsb' 0 6))
  | _ => .ok (.roli d a (k.extractLsb' 0 6))

/-- The B format (R113); nul = 11 is refused by WellFormed. -/
def decodeBc (a b : BitVec 5) (cc : BitVec 3) (nul : BitVec 2) (disp : BitVec 11) : Instr :=
  match cc.toNat with
  | 0 => .beq a b nul disp
  | 1 => .bne a b nul disp
  | 2 => .blt a b nul disp
  | 3 => .bge a b nul disp
  | 4 => .bltw a b nul disp
  | 5 => .bgew a b nul disp
  | 6 => .bbs a b nul disp
  | _ => .bbc a b nul disp

/-- The format-pair majors (R118): p is the major minus 0x28. -/
def decodeDot (p : BitVec 3) (d a b : BitVec 5) (c : BitVec 4) (k : BitVec 3) (fn : BitVec 4) :
    Except DecodeError Instr :=
  match fn.toNat with
  | 0 => .ok (.vdot p d a b c k)
  | 1 => mbz (k == 0) (.qdot p d a b c)
  | 2 => mbz (k == 0) (.mxa p d a b c)
  | 3 => mbz (k == 0) (.bmv p d a b c)
  | 4 => if p != 7 then .error .function else mbz (k == 0 && c == 0) (.qdop d a b)
  | _ => .error .function

/-- ST and MST: w[2] must be 0 (R114). -/
def storeSize (w : BitVec 4) (i : Instr) : Except DecodeError Instr := mbz (!w.getLsbD 2) i

/-- A word by its major opcode and function (R119), before the checks of WellFormed. -/
def decodeRaw (w : W32) : Except DecodeError Instr :=
  let d := w.extractLsb' 21 5
  let a := w.extractLsb' 16 5
  let b := w.extractLsb' 11 5
  let fn := w.extractLsb' 5 6
  let c := w.extractLsb' 0 5
  let k3 := w.extractLsb' 8 3
  let t := w.extractLsb' 5 3
  let k := w.extractLsb' 0 16
  let w4 := w.extractLsb' 12 4
  let disp := w.extractLsb' 0 12
  match (w.extractLsb' 26 6).toNat with
  | 0x01 => decodeSys d a b fn c
  | 0x02 => decodeCr d (w.extractLsb' 9 12) (w.extractLsb' 6 3) (w.extractLsb' 0 6)
  | 0x03 => decodeAlu d a b fn c
  | 0x04 => decodeMul d a b fn c
  | 0x05 => decodeBit d a b fn c
  | 0x06 => .ok (.addi d a k)
  | 0x07 => .ok (.andi d a k)
  | 0x08 => .ok (.ori d a k)
  | 0x09 => .ok (.xori d a k)
  | 0x0A => decodeShi d a k
  | 0x0B => .ok (.slti d a k)
  | 0x0C => .ok (.sltwi d a k)
  | 0x0D => mbz (w.extractLsb' 16 2 == 0) (.movk d (w.extractLsb' 19 2) (w.extractLsb' 18 1) k)
  | 0x0E => .ok (.lea d a b (w.extractLsb' 9 2) (w.extractLsb' 0 9))
  | 0x0F => decodeAdr d a b fn c
  | 0x10 => .ok (decodeBc d a (w.extractLsb' 13 3) (w.extractLsb' 11 2) (w.extractLsb' 0 11))
  | 0x11 => .ok (.j (w.extractLsb' 0 26))
  | 0x12 => .ok (.call (w.extractLsb' 0 26))
  | 0x13 => decodeJr d a b fn c
  | 0x14 => mbz (w.extractLsb' 0 6 == 0) (.rpt (w.extractLsb' 22 4) (w.extractLsb' 12 10)
      (w.extractLsb' 10 2) (w.extractLsb' 8 2) (w.extractLsb' 6 2))
  | 0x15 => decodeCtx d a b fn c
  | 0x16 => decodeObl d a b fn c
  | 0x17 => decodeWt d a b fn c
  | 0x18 => .ok (.ld d a w4 disp)
  | 0x19 => storeSize w4 (.st d a (w.extractLsb' 15 1) (w.extractLsb' 12 2) disp)
  | 0x1A => decodeAtom d a b fn c
  | 0x1B => decodeLlk d a b fn c
  | 0x1C => decodeFen d a b fn c
  | 0x1D => storeSize w4 (.mst d a (w.extractLsb' 15 1) (w.extractLsb' 12 2) disp)
  | 0x1E => mbz (w4 == 0) (if w.getLsbD 11 then .vst d a (w.extractLsb' 0 11)
      else .vld d a (w.extractLsb' 0 11))
  | 0x1F => decodeQmem d a b fn c
  | 0x20 => decodeCpy d a b fn c
  | 0x21 => decodeStm d a b fn c
  | 0x22 => decodeVi d a b k3 t c
  | 0x23 => decodeVf d a b k3 t c
  | 0x24 => decodeVx d a b k3 t c
  | 0x25 => decodeVs d a b k3 t c
  | 0x26 => decodeVr d a b k3 t c
  | 0x27 => mbz (w.extractLsb' 19 2 == 0) (.res d (w.extractLsb' 16 3) k)
  | 0x28 | 0x29 | 0x2A | 0x2B | 0x2C | 0x2D | 0x2E | 0x2F =>
    decodeDot (w.extractLsb' 26 3) d a b (w.extractLsb' 7 4) (w.extractLsb' 4 3) (w.extractLsb' 0 4)
  | 0x30 => decodeQm d a b fn c
  | 0x31 => decodeQf d a b k3 t c
  | 0x32 => decodeQi d a b k3 t c
  | 0x33 => decodeQr d a b k3 t c
  | 0x34 => decodeMx d a b fn c
  | 0x35 => decodeBk d a b fn c
  | 0x36 => decodePl d a b fn c
  | 0x37 => decodeXc d a b fn c
  | _ => .error .reservedMajor

/-- Decode of R124 but for the check of R123. -/
def decodeWord (w : W32) : Except DecodeError Instr :=
  match decodeRaw w with
  | .error e => .error e
  | .ok i =>
    match i.ill with
    | some e => .error (.illFormed e)
    | none => .ok i

/-- The forms that exist in long mode only (R123, R211). -/
def needsLong : Instr → Bool
  | .qld .. | .qst .. | .qgat .. | .qsct .. | .qmov .. | .qsplat .. | .qxv .. | .qxq .. | .vshort
  | .qdot .. | .qdop .. | .qfadd .. | .qfmul .. | .qfma .. | .qfmin .. | .qfmax .. | .qcvt ..
  | .qsel .. | .qfcmp .. | .qadd .. | .qsub .. | .qmul .. | .qand .. | .qor .. | .qxor ..
  | .qshl .. | .qshr .. | .qmin .. | .qmax .. | .qcmp .. | .qrsum .. | .qrmax .. | .qrmin .. => true
  | _ => false

/-- R123. -/
def longModeAllows (long : Bool) (i : Instr) : Bool :=
  if needsLong i then long
  else match i with
    | .vlong => !long
    | _ => true

/-- Decode of R124 in a context in long or short mode. -/
def decode (long : Bool) (w : W32) : Except DecodeError Instr :=
  match decodeWord w with
  | .error e => .error e
  | .ok i => if longModeAllows long i then .ok i else .error .longMode

/-- The word four bytes hold, little-endian (R4, R103). -/
def wordOfBytes (b0 b1 b2 b3 : Byte) : W32 := b3 ++ b2 ++ b1 ++ b0

/-- Decode the first word of a list of bytes, and give the rest of the list. -/
def decodeBytes : List Byte → Except DecodeError (Instr × List Byte)
  | b0 :: b1 :: b2 :: b3 :: rest =>
    match decodeWord (wordOfBytes b0 b1 b2 b3) with
    | .error e => .error e
    | .ok i => .ok (i, rest)
  | _ => .error .truncated

/-- The little-endian bytes of a number. -/
def bytesOfNat : Nat → Nat → List Byte
  | 0, _ => []
  | n + 1, w => BitVec.ofNat 8 w :: bytesOfNat n (w / 256)

/-- The instruction the decoder reads from the bits of spec/opcode_table.json. -/
def decodeTableWord (nbits w : Nat) : Option Instr :=
  match decodeBytes (bytesOfNat 4 (w % 2 ^ nbits)) with
  | .ok (i, _) => some i
  | .error _ => none


/-- The word of an instruction, written from the encoding tables of R109 and R119 to R122; events have
none. -/
def encode : Instr → Option W32
  | .nop => some (packR 0x01 0 0 0 0 0)
  | .halt => some (packR 0x01 0 0 0 1 0)
  | .idle => some (packR 0x01 0 0 0 2 0)
  | .eret => some (packR 0x01 0 0 0 3 0)
  | .trap code => some (packR 0x01 (code.extractLsb' 10 5) (code.extractLsb' 5 5) (code.extractLsb' 0 5) 4 0)
  | .brk code => some (packR 0x01 (code.extractLsb' 10 5) (code.extractLsb' 5 5) (code.extractLsb' 0 5) 5 0)
  | .yield => some (packR 0x01 0 0 0 6 0)
  | .fencei => some (packR 0x01 0 0 0 7 0)
  | .mfc g n => some (packC 0x02 g n 0)
  | .mtc g n => some (packC 0x02 g n 1)
  | .mxc g n => some (packC 0x02 g n 2)
  | .mset g n => some (packC 0x02 g n 3)
  | .mclr g n => some (packC 0x02 g n 4)
  | .add d a b => some (packR 0x03 d a b 0 0)
  | .sub d a b => some (packR 0x03 d a b 1 0)
  | .and d a b => some (packR 0x03 d a b 2 0)
  | .or d a b => some (packR 0x03 d a b 3 0)
  | .xor d a b => some (packR 0x03 d a b 4 0)
  | .andn d a b => some (packR 0x03 d a b 5 0)
  | .orn d a b => some (packR 0x03 d a b 6 0)
  | .shl d a b => some (packR 0x03 d a b 7 0)
  | .shr d a b => some (packR 0x03 d a b 8 0)
  | .sar d a b => some (packR 0x03 d a b 9 0)
  | .rol d a b => some (packR 0x03 d a b 10 0)
  | .min d a b => some (packR 0x03 d a b 11 0)
  | .max d a b => some (packR 0x03 d a b 12 0)
  | .minw d a b => some (packR 0x03 d a b 13 0)
  | .maxw d a b => some (packR 0x03 d a b 14 0)
  | .slt d a b => some (packR 0x03 d a b 15 0)
  | .sltw d a b => some (packR 0x03 d a b 16 0)
  | .seq d a b => some (packR 0x03 d a b 17 0)
  | .sne d a b => some (packR 0x03 d a b 18 0)
  | .cmov d a b c => some (packR 0x03 d a b 19 c)
  | .mul d a b => some (packR 0x04 d a b 0 0)
  | .mulh d a b => some (packR 0x04 d a b 1 0)
  | .mulhw d a b => some (packR 0x04 d a b 2 0)
  | .mulw d a b => some (packR 0x04 d a b 3 0)
  | .div d a b => some (packR 0x04 d a b 4 0)
  | .divw d a b => some (packR 0x04 d a b 5 0)
  | .rem d a b => some (packR 0x04 d a b 6 0)
  | .remw d a b => some (packR 0x04 d a b 7 0)
  | .clz d a => some (packR 0x05 d a 0 0 0)
  | .ctz d a => some (packR 0x05 d a 0 1 0)
  | .popc d a => some (packR 0x05 d a 0 2 0)
  | .brev d a => some (packR 0x05 d a 0 3 0)
  | .bswap d a => some (packR 0x05 d a 0 4 0)
  | .sext d a h n => some (packR 0x05 d a (0#4 ++ h) 5 n)
  | .zext d a h n => some (packR 0x05 d a (0#4 ++ h) 6 n)
  | .bext d a b => some (packR 0x05 d a b 7 0)
  | .bins d a b => some (packR 0x05 d a b 8 0)
  | .addi d a k => some (packI 0x06 d a k)
  | .andi d a k => some (packI 0x07 d a k)
  | .ori d a k => some (packI 0x08 d a k)
  | .xori d a k => some (packI 0x09 d a k)
  | .shli d a s => some (packI 0x0A d a (0#8 ++ 0#2 ++ s))
  | .shri d a s => some (packI 0x0A d a (0#8 ++ 1#2 ++ s))
  | .sari d a s => some (packI 0x0A d a (0#8 ++ 2#2 ++ s))
  | .roli d a s => some (packI 0x0A d a (0#8 ++ 3#2 ++ s))
  | .slti d a k => some (packI 0x0B d a k)
  | .sltwi d a k => some (packI 0x0C d a k)
  | .movk d pos keep k => some (packI 0x0D d (pos ++ keep ++ 0#2) k)
  | .lea d a b sc disp => some (packL 0x0E d a b sc disp)
  | .gcoord d a => some (packR 0x0F d a 0 0 0)
  | .widf d f => some (packR 0x0F d 0 0 1 f)
  | .self d => some (packR 0x0F d 0 0 2 0)
  | .cload d => some (packR 0x0F d 0 0 3 0)
  | .beq a b nul disp => some (packB 0x10 a b 0 nul disp)
  | .bne a b nul disp => some (packB 0x10 a b 1 nul disp)
  | .blt a b nul disp => some (packB 0x10 a b 2 nul disp)
  | .bge a b nul disp => some (packB 0x10 a b 3 nul disp)
  | .bltw a b nul disp => some (packB 0x10 a b 4 nul disp)
  | .bgew a b nul disp => some (packB 0x10 a b 5 nul disp)
  | .bbs a b nul disp => some (packB 0x10 a b 6 nul disp)
  | .bbc a b nul disp => some (packB 0x10 a b 7 nul disp)
  | .j disp => some (packJ 0x11 disp)
  | .call disp => some (packJ 0x12 disp)
  | .jr a => some (packR 0x13 0 a 0 0 0)
  | .callr a => some (packR 0x13 0 a 0 1 0)
  | .ret => some (packR 0x13 0 0 0 2 0)
  | .rpt n count sd sa sb => some (packF 0x14 n count sd sa sb)
  | .hstart d a b c => some (packR 0x15 d a b 0 c)
  | .hexit => some (packR 0x15 0 0 0 1 0)
  | .cpack d a b => some (packR 0x15 d a b 2 0)
  | .cresume d a => some (packR 0x15 d a 0 3 0)
  | .migrate d a b => some (packR 0x15 d a b 4 0)
  | .hstat d slot => some (packR 0x15 d 0 0 5 slot)
  | .onew d a b kind => some (packR 0x16 d a b 0 kind)
  | .ofree a => some (packR 0x16 0 a 0 1 0)
  | .oblig d a => some (packR 0x16 d a 0 2 0)
  | .osig a => some (packR 0x16 0 a 0 3 0)
  | .orel a => some (packR 0x16 0 a 0 4 0)
  | .osend d a b c => some (packR 0x16 d a b 5 c)
  | .ofail a b => some (packR 0x16 0 a b 6 0)
  | .otrn a b kind => some (packR 0x16 0 a b 7 kind)
  | .oseize d a => some (packR 0x16 d a 0 8 0)
  | .rsplit a b => some (packR 0x16 0 a b 9 0)
  | .wait d a => some (packR 0x17 d a 0 0 0)
  | .barw d a => some (packR 0x17 d a 0 1 0)
  | .poll d a => some (packR 0x17 d a 0 2 0)
  | .oqry d a field => some (packR 0x17 d a 0 3 field)
  | .ld d a w disp => some (packM 0x18 d a w disp)
  | .st s a rel z disp => some (packM 0x19 s a (rel ++ 0#1 ++ z) disp)
  | .aadd d a b ord z => some (packR 0x1A d a b (ord ++ 0#4) (0#4 ++ z))
  | .aand d a b ord z => some (packR 0x1A d a b (ord ++ 1#4) (0#4 ++ z))
  | .aor d a b ord z => some (packR 0x1A d a b (ord ++ 2#4) (0#4 ++ z))
  | .axor d a b ord z => some (packR 0x1A d a b (ord ++ 3#4) (0#4 ++ z))
  | .amin d a b ord z => some (packR 0x1A d a b (ord ++ 4#4) (0#4 ++ z))
  | .amax d a b ord z => some (packR 0x1A d a b (ord ++ 5#4) (0#4 ++ z))
  | .aminw d a b ord z => some (packR 0x1A d a b (ord ++ 6#4) (0#4 ++ z))
  | .amaxw d a b ord z => some (packR 0x1A d a b (ord ++ 7#4) (0#4 ++ z))
  | .aswp d a b ord z => some (packR 0x1A d a b (ord ++ 8#4) (0#4 ++ z))
  | .acas d a b ord z => some (packR 0x1A d a b (ord ++ 9#4) (0#4 ++ z))
  | .afadd d a b ord z => some (packR 0x1A d a b (ord ++ 10#4) (0#4 ++ z))
  | .llk d a z => some (packR 0x1B d a 0 0 (0#4 ++ z))
  | .sul d a b z => some (packR 0x1B d a b 1 (0#4 ++ z))
  | .sun d a => some (packR 0x1B d a 0 2 0)
  | .fence a => some (packR 0x1C 0 a 0 0 0)
  | .fencea a => some (packR 0x1C 0 a 0 1 0)
  | .fencer a => some (packR 0x1C 0 a 0 2 0)
  | .bfence => some (packR 0x1C 0 0 0 3 0)
  | .qfence => some (packR 0x1C 0 0 0 4 0)
  | .efence => some (packR 0x1C 0 0 0 5 0)
  | .mst s a rel z disp => some (packM 0x1D s a (rel ++ 0#1 ++ z) disp)
  | .vld v a disp => some (packM 0x1E v a 0 (0#1 ++ disp))
  | .vst v a disp => some (packM 0x1E v a 0 (1#1 ++ disp))
  | .qld q a b z => some (packR 0x1F q a b 0 (0#3 ++ z))
  | .qst q a b z => some (packR 0x1F q a b 1 (0#3 ++ z))
  | .qgat q a x z => some (packR 0x1F q a x 2 (0#3 ++ z))
  | .qsct q a x z => some (packR 0x1F q a x 3 (0#3 ++ z))
  | .cpy d a b c => some (packR 0x20 d a b 0 c)
  | .cpy2 d a b c => some (packR 0x20 d a b 1 c)
  | .cpy3 d a b c => some (packR 0x20 d a b 2 c)
  | .cpyi d a b c => some (packR 0x20 d a b 3 c)
  | .cpyr d a b c => some (packR 0x20 d a b 4 c)
  | .cpyrs d a b c => some (packR 0x20 d a b 5 c)
  | .sopen d a s cls => some (packR 0x21 d a s 0 (0#4 ++ cls))
  | .sclose d s cls => some (packR 0x21 d 0 s 1 (0#4 ++ cls))
  | .sstat d s cls => some (packR 0x21 d 0 s 2 (0#4 ++ cls))
  | .vadd d a b m t => some (packV 0x22 d a b m t 0)
  | .vsub d a b m t => some (packV 0x22 d a b m t 1)
  | .vmul d a b m t => some (packV 0x22 d a b m t 2)
  | .vmulh d a b m t => some (packV 0x22 d a b m t 3)
  | .vmin d a b m t => some (packV 0x22 d a b m t 4)
  | .vmax d a b m t => some (packV 0x22 d a b m t 5)
  | .vand d a b m t => some (packV 0x22 d a b m t 6)
  | .vor d a b m t => some (packV 0x22 d a b m t 7)
  | .vxor d a b m t => some (packV 0x22 d a b m t 8)
  | .vshl d a b m t => some (packV 0x22 d a b m t 9)
  | .vshr d a b m t => some (packV 0x22 d a b m t 10)
  | .vsar d a b m t => some (packV 0x22 d a b m t 11)
  | .vsel d a b m t => some (packV 0x22 d a b m t 12)
  | .vabs d a m t => some (packV 0x22 d a 0 m t 13)
  | .vcmp d a b m t cond => some (packV 0x22 d a b m t (2#2 ++ cond))
  | .vfadd d a b m t => some (packV 0x23 d a b m t 0)
  | .vfsub d a b m t => some (packV 0x23 d a b m t 1)
  | .vfmul d a b m t => some (packV 0x23 d a b m t 2)
  | .vfma d a b m t => some (packV 0x23 d a b m t 3)
  | .vfms d a b m t => some (packV 0x23 d a b m t 4)
  | .vfmin d a b m t => some (packV 0x23 d a b m t 5)
  | .vfmax d a b m t => some (packV 0x23 d a b m t 6)
  | .vfabs d a m t => some (packV 0x23 d a 0 m t 7)
  | .vfneg d a m t => some (packV 0x23 d a 0 m t 8)
  | .vfcmp d a b m t cond => some (packV 0x23 d a b m t (2#2 ++ cond))
  | .vcvt d a src m t => some (packV 0x24 d a src m t 0)
  | .vqnt d a f t => some (packV 0x24 d a f 0 t 1)
  | .vdq d a f t => some (packV 0x24 d a f 0 t 2)
  | .vshuf d a b m t => some (packV 0x24 d a b m t 3)
  | .vperm d a b m t => some (packV 0x24 d a b m t 4)
  | .vbc d a m t => some (packV 0x24 d a 0 m t 5)
  | .vext d a lane t => some (packV 0x24 d a lane 0 t 6)
  | .vins d a lane t => some (packV 0x24 d a lane 0 t 7)
  | .vmovk d a => some (packV 0x24 d a 0 0 0 8)
  | .vexp2 d a m t => some (packV 0x25 d a 0 m t 0)
  | .vlog2 d a m t => some (packV 0x25 d a 0 m t 1)
  | .vrcp d a m t => some (packV 0x25 d a 0 m t 2)
  | .vrsq d a m t => some (packV 0x25 d a 0 m t 3)
  | .vsin d a m t => some (packV 0x25 d a 0 m t 4)
  | .vcos d a m t => some (packV 0x25 d a 0 m t 5)
  | .vtanh d a m t => some (packV 0x25 d a 0 m t 6)
  | .vsigm d a m t => some (packV 0x25 d a 0 m t 7)
  | .vrsum d a m t int => some (packV 0x26 d a 0 m t (0#1 ++ int ++ 0#3))
  | .vrmax d a m t int => some (packV 0x26 d a 0 m t (0#1 ++ int ++ 1#3))
  | .vrmin d a m t int => some (packV 0x26 d a 0 m t (0#1 ++ int ++ 2#3))
  | .res d word k => some (packI 0x27 d (0#2 ++ word) k)
  | .vdot p d a b c m => some (packD (5#3 ++ p) d a b c m 0)
  | .qdot p d a b c => some (packD (5#3 ++ p) d a b c 0 1)
  | .mxa p d a b c => some (packD (5#3 ++ p) d a b c 0 2)
  | .bmv p d a b c => some (packD (5#3 ++ p) d a b c 0 3)
  | .qdop d a b => some (packD 0x2F d a b 0 0 4)
  | .vlong => some (packR 0x30 0 0 0 0 0)
  | .vshort => some (packR 0x30 0 0 0 1 0)
  | .qmov d a => some (packR 0x30 d a 0 2 0)
  | .qsplat d a z => some (packR 0x30 d a 0 3 (0#3 ++ z))
  | .qxv d a b => some (packR 0x30 d a b 4 0)
  | .qxq d a b => some (packR 0x30 d a b 5 0)
  | .qfadd d a b t => some (packV 0x31 d a b 0 t 0)
  | .qfmul d a b t => some (packV 0x31 d a b 0 t 1)
  | .qfma d a b t => some (packV 0x31 d a b 0 t 2)
  | .qfmin d a b t => some (packV 0x31 d a b 0 t 3)
  | .qfmax d a b t => some (packV 0x31 d a b 0 t 4)
  | .qcvt d a src t => some (packV 0x31 d a src 0 t 5)
  | .qsel d a b t => some (packV 0x31 d a b 0 t 6)
  | .qfcmp d a b t cond => some (packV 0x31 d a b 0 t (2#2 ++ cond))
  | .qadd d a b t => some (packV 0x32 d a b 0 t 0)
  | .qsub d a b t => some (packV 0x32 d a b 0 t 1)
  | .qmul d a b t => some (packV 0x32 d a b 0 t 2)
  | .qand d a b t => some (packV 0x32 d a b 0 t 3)
  | .qor d a b t => some (packV 0x32 d a b 0 t 4)
  | .qxor d a b t => some (packV 0x32 d a b 0 t 5)
  | .qshl d a b t => some (packV 0x32 d a b 0 t 6)
  | .qshr d a b t => some (packV 0x32 d a b 0 t 7)
  | .qmin d a b t => some (packV 0x32 d a b 0 t 8)
  | .qmax d a b t => some (packV 0x32 d a b 0 t 9)
  | .qcmp d a b t cond => some (packV 0x32 d a b 0 t (2#2 ++ cond))
  | .qrsum d a t int => some (packV 0x33 d a 0 0 t (0#1 ++ int ++ 0#3))
  | .qrmax d a t int => some (packV 0x33 d a 0 0 t (0#1 ++ int ++ 1#3))
  | .qrmin d a t int => some (packV 0x33 d a 0 0 t (0#1 ++ int ++ 2#3))
  | .mxb d a b => some (packR 0x34 d a b 0 0)
  | .mxj d a => some (packR 0x34 d a 0 1 0)
  | .mxcap d a b => some (packR 0x34 d a b 2 0)
  | .mxst d a => some (packR 0x34 d a 0 3 0)
  | .bvld d a b => some (packR 0x35 d a b 0 0)
  | .bvrd d a b => some (packR 0x35 d a b 1 0)
  | .bcfg d a => some (packR 0x35 d a 0 2 0)
  | .bstat d a => some (packR 0x35 d a 0 3 0)
  | .pbind d a => some (packR 0x36 d a 0 0 0)
  | .pfree d a => some (packR 0x36 d a 0 1 0)
  | .pstat d a => some (packR 0x36 d a 0 2 0)
  | .enq d a => some (packR 0x36 d a 0 3 0)
  | .deq d a => some (packR 0x36 d a 0 4 0)
  | .xph d a b => some (packR 0x37 d a b 0 0)
  | .xsnd d a b c => some (packR 0x37 d a b 1 c)
  | .xrcv d a b c => some (packR 0x37 d a b 2 c)
  | .xend d => some (packR 0x37 d 0 0 3 0)
  | .xmrk a b => some (packR 0x37 0 a b 4 0)
  | .xvs a b => some (packR 0x37 0 a b 5 0)
  | .codeObjectLoad => none
  | .launchMessage => none
  | .placementDecision => none
  | .itemDelivery => none
  | .launchAging => none
  | .waitRequest => none
  | .discharge => none
  | .homeOperation => none
  | .homeAnswer => none
  | .wake => none
  | .cancel => none
  | .obligationTransfer => none
  | .hostRegistration => none
  | .hostLost => none
  | .refill => none
  | .continuationMessage => none
  | .spillRedelivery => none
  | .clustldUpdate => none
  | .governorSample => none
  | .takeUpcall => none
  | .resultArrival => none
  | .streamRefill => none
  | .lockRetry => none
  | .llkLapse => none
  | .pageWalk => none
  | .tlbInvalidation => none
  | .completionNotice => none
  | .migrationRequest => none
  | .pinrExpiry => none
  | .mstStamp => none
  | .mstApply => none
  | .leaseSetup => none
  | .reclaim => none
  | .demotionPageCopy => none
  | .leaseAcknowledgement => none
  | .boundReached => none
  | .copyStart => none
  | .copyComplete => none
  | .cpyrAckTimeout => none
  | .mxbStart => none
  | .mxbComplete => none
  | .computeJobStart => none
  | .computeJobComplete => none
  | .mxcapArrival => none
  | .mxcapTimeout => none
  | .bankJobComplete => none
  | .lvuEntryComplete => none
  | .segmentStart => none
  | .gateDeadline => none
  | .segmentEnd => none
  | .bankStageEnqueue => none
  | .hostAccess => none
  | .flitReceive => none
  | .replayRequest => none
  | .fecLockLoss => none
  | .keyExhaustion => none
  | .lock => none
  | .start => none
  | .managementReset => none
  | .getVersion => none
  | .getCapabilities => none
  | .negotiateAlgorithms => none
  | .getDigests => none
  | .getCertificate => none
  | .challenge => none
  | .getMeasurements => none
  | .keyExchange => none
  | .finish => none
  | .keyUpdate => none
  | .phaseArrival => none
  | .phaseRelease => none
  | .arrivalTimeout => none
  | .startTick => none
  | .phaseEnd => none
  | .failureNotice => none
  | .wordDelivery => none
  | .combine => none
  | .markerStep => none
  | .entryReplace => none
  | .epochBoundary => none
  | .contributionCutoff => none
  | .bellResult => none
  | .clockSettle => none
  | .join => none
  | .leave => none
  | .breach => none
  | .preempt => none
  | .resume => none
  | .sresume => none
  | .hold => none
  | .unhold => none
  | .restart => none
  | .unitFence => none
  | .unfence => none
  | .fenceDeadline => none
  | .spareAssign => none
  | .moduleLeave => none
  | .scrub => none
  | .boot => none
  | .firmwareUpdate => none
  | .recovery => none
  | .securityAlarm => none
  | .thermalLimit => none
  | .powerOn => none
  | .illegalInstructionWord => none
  | .fetchCheck => none
  | .accessAtHome => none
  | .storeAcknowledgement => none
  | .millraceRequest => none
  | .lvuArbitration => none
  | .linkTraining => none
  | .portConfigurationWrite => none
  | .powerFail => none
  | .controllerRestart => none
  | .rowRepair => none
  | .codeObjectUnload => none

end Sys2Proof
end

