-- ==== Sys2Proof/Machine/Bits.lean ====
section
/-!
DEFINITION. Bit-field, extension, count and byte-order helpers (R4, R10, R148, R159).
-/

namespace Sys2Proof.Machine

/-- The field of `n` bits from bit `lo`, zero-extended. -/
def fld (x : Word) (lo n : Nat) : Nat := (x.toNat >>> lo) % 2 ^ n

/-- The field of a number. -/
def nfld (x lo n : Nat) : Nat := (x >>> lo) % 2 ^ n

/-- SExt(x, n) of R148: sign-extend the low n bits. -/
def sextN (x : Word) (n : Nat) : Word :=
  if n = 0 then 0
  else if n ≥ 64 then x
  else
    let v := x.toNat % 2 ^ n
    if v < 2 ^ (n - 1) then BitVec.ofNat 64 v else BitVec.ofNat 64 (v + (2 ^ 64 - 2 ^ n))

/-- ZExt(x, n) of R148: keep the low n bits. -/
def zextN (x : Word) (n : Nat) : Word := BitVec.ofNat 64 (x.toNat % 2 ^ n)

/-- A number as a signed one of `n` bits. -/
def signedN (x n : Nat) : Int :=
  let v := x % 2 ^ n
  if 2 * v < 2 ^ n then (v : Int) else (v : Int) - (2 ^ n : Nat)

/-- An integer wrapped to n bits. -/
def wrapN (x : Int) (n : Nat) : Nat := (x % ((2 ^ n : Nat) : Int)).toNat

/-- 1 for true and 0 for false (R156). -/
def boolWord (b : Bool) : Word := if b then 1 else 0

/-- Set bits among the low `n` of a number. -/
def popN : Nat → Nat → Nat
  | 0, _ => 0
  | n + 1, x => x % 2 + popN n (x / 2)

/-- Trailing zeros among the low `n` bits; `n` when there is no set bit. -/
def ctzN : Nat → Nat → Nat
  | 0, _ => 0
  | n + 1, x => if x % 2 = 1 then 0 else 1 + ctzN n (x / 2)

/-- Leading zeros of an `n`-bit number. -/
def clzN : Nat → Nat → Nat
  | 0, _ => 0
  | n + 1, x => if x.testBit n then 0 else 1 + clzN n x

/-- The low `n` bits in reverse order. -/
def brevN : Nat → Nat → Nat
  | 0, _ => 0
  | n + 1, x => (x % 2) * 2 ^ n + brevN n (x / 2)

/-- Little-endian bytes of a number (R4). -/
def bytesLE : Nat → Nat → List Byte
  | 0, _ => []
  | n + 1, x => BitVec.ofNat 8 x :: bytesLE n (x / 256)

/-- The number little-endian bytes make (R4). -/
def natLE : List Byte → Nat
  | [] => 0
  | b :: bs => b.toNat + 256 * natLE bs

/-- Replace the bits [lo + n - 1 : lo] of x by those of v. -/
def setFld (x : Nat) (lo n v : Nat) : Nat :=
  x - ((x >>> lo) % 2 ^ n) * 2 ^ lo + (v % 2 ^ n) * 2 ^ lo

/-- The list without its element at a place. -/
def dropAt {α : Type} : Nat → List α → List α
  | _, [] => []
  | 0, _ :: xs => xs
  | n + 1, x :: xs => x :: dropAt n xs

/-- The list with its element at a place replaced. -/
def setAt {α : Type} : Nat → α → List α → List α
  | _, _, [] => []
  | 0, y, _ :: xs => y :: xs
  | n + 1, y, x :: xs => x :: setAt n y xs

/-- Module-wide core coordinates (R10). -/
def coords (die cluster core : Nat) : Nat × Nat :=
  (16 * (die % 4) + 4 * (cluster % 4) + core % 4, 64 * (die / 4) + 2 * (cluster / 4) + core / 4)

/-- The element of a list of pairs under a key. -/
def assoc {α β : Type} [DecidableEq α] (k : α) : List (α × β) → Option β
  | [] => none
  | (a, b) :: rest => if a = k then some b else assoc k rest

/-- Set the element under a key, at the end when it is new. -/
def setAssoc {α β : Type} [DecidableEq α] (k : α) (v : β) : List (α × β) → List (α × β)
  | [] => [(k, v)]
  | (a, b) :: rest => if a = k then (k, v) :: rest else (a, b) :: setAssoc k v rest

/-- The number of a level (R366). -/
def levelCode : Level → Nat
  | .h => 0
  | .c => 1
  | .s => 2

/-- The level of a number; 3 is illegal and reads as S. -/
def levelOf : Nat → Level
  | 0 => .h
  | 1 => .c
  | _ => .s

/-- The kind code of R83. -/
def oblCode : OblKind → Nat
  | .signal => 0
  | .release => 1
  | .send => 2
  | .arrive => 3

/-- The kind of a code (R83). -/
def oblOfCode (n : Nat) : OblKind :=
  match n % 4 with
  | 0 => .signal
  | 1 => .release
  | 2 => .send
  | _ => .arrive

end Sys2Proof.Machine
end

