-- ==== Sys2Proof/Machine/State.lean ====
section
/-!
DEFINITION. The state of the machine: one core of 11 contexts, the units of its cluster, die and
module, the domain's objects, and one memory. Everything is plain data. INVENTORY.md lists each field
with the rule that names it and its reset value.
-/

namespace Sys2Proof.Machine

/-- Why a step stops with a fault. -/
inductive Fault where
  /-- Raised by no meaning and by no step of this model: every fault of the spec is a trap or a machine
  check, which are next states (R367). Safe: the type only needs a constructor. -/
  | unused
  deriving DecidableEq, Repr

/-- Why an instruction has no meaning. -/
inductive Refusal where
  /-- Raised by exec's arm for an instruction that has no meaning yet, by its mnemonic. Safe: the model
  stops where the machine goes on. -/
  | notModelled (mnemonic : String)
  deriving DecidableEq, Repr

/-- The two grades (R8). -/
inductive Grade | fv8 | fv8s
  deriving DecidableEq, Repr

/-- Slot states, in the coding of R73: 0 FREE to 5 HELD. -/
inductive SlotState | free | ready | waiting | trapped | unsettled | held
  deriving DecidableEq, Repr

/-- Where the core stands (R10, R161). -/
structure Loc where
  dev : BitVec 12
  die : BitVec 3
  cluster : BitVec 7
  core : BitVec 3
  deriving DecidableEq, Repr

/-- The register file of a context (R110, R200, R201, R212). -/
structure Regs where
  g : Vector Word 32
  f : Vector Word 16
  v : Vector VReg 32
  k : Vector W32 8
  q : Vector QReg 16
  deriving DecidableEq, Repr

/-- An error of R173 not yet taken: register class (1 g, 2 v), number, cause and address. -/
structure ErrMark where
  cls : BitVec 3
  num : BitVec 5
  cause : BitVec 8
  ea : Word
  deriving DecidableEq, Repr

/-- Pending bits (R129, R369) and error marks (R173). -/
structure Pend where
  g : BitVec 32
  f : BitVec 16
  v : BitVec 32
  k : BitVec 8
  marks : List ErrMark
  storeErr : List ErrMark
  deriving DecidableEq, Repr

/-- The PC queue with its nullify and delay-slot flags (R136). -/
structure Queue where
  q0 : Word
  q1 : Word
  q2 : Word
  n0 : Bool
  n1 : Bool
  n2 : Bool
  d0 : Bool
  d1 : Bool
  d2 : Bool
  deriving DecidableEq, Repr

/-- A repeat frame in progress (R139, R140). A frame that a return or a reload captured again has `again` set
until it next issues, and `bad` where a fetch check failed then (R140, R165). -/
structure RepFrame where
  words : List W32
  base : Word
  nm1 : BitVec 4
  cm1 : BitVec 10
  sd : BitVec 2
  sa : BitVec 2
  sb : BitVec 2
  iter : BitVec 10
  slot : BitVec 4
  again : Bool
  bad : Option (BitVec 8 × Word)
  deriving DecidableEq, Repr

/-- The user control registers of a context (R32, R52, R155, R182 to R184, R227, R320). -/
structure User where
  fmode : Word
  fflags : Word
  lfsr : W32
  wid : Word
  widx : Word
  rankLo : BitVec 21
  rankHi : BitVec 21
  scope : Word
  restb : Word
  xroot : Word
  deriving DecidableEq, Repr

/-- The trap registers of a context (R141, R366). -/
structure TrapRegs where
  epc0 : Word
  epc1 : Word
  epc2 : Word
  cause : Word
  tval : Word
  rptst : Word
  deriving DecidableEq, Repr

/-- UPCALL but for EVT, which the held events give (R371). -/
structure Upcall where
  free : BitVec 10
  resume : BitVec 10
  pend : BitVec 10
  inHandler : Bool
  vec : BitVec 15
  deriving DecidableEq, Repr

/-- A context's part in timed phases (R342, R349); `ended` once CYC has reached L, until XEND clears INPH. -/
structure Xch where
  inph : Bool
  ended : Bool
  len : Nat
  startCycle : Nat
  held : Nat
  gid : BitVec 12
  words : Nat
  status : Word
  collided : Option Word
  breached : Bool
  deriving DecidableEq, Repr

/-- An open stream (R133 to R135, R369): the pattern, its register, and the elements buffered; `born` is the core's count
of operations at its SOPEN, and `seq` the context's place in program order: what came before is performed before an
element is read (R324). -/
structure Stream where
  pat : BitVec 256
  cls : BitVec 1
  reg : BitVec 5
  popped : Nat
  buf : List VReg
  fault : Option (BitVec 8 × Word)
  ending : Bool
  level : Level
  born : Nat
  seq : Nat
  deriving DecidableEq, Repr

/-- The LLK lock of a context (R255). -/
structure Llk where
  ea : Word
  pa : Nat
  size : Nat
  issued : Nat
  stalled : Nat
  /-- an SUL for it has issued -/
  closing : Bool
  deriving DecidableEq, Repr

/-- A request the context stays at, or a queued wait (R54, R275, R281, R306): the handle, the destination,
the waiting instruction, what the answer discharges (OSEND, R279), and whether an owed-area place is
reserved (R53). -/
structure Asked where
  h : Word
  d : Option (BitVec 5)
  op : Option WaitOp
  kind : Option OblKind
  reserved : Bool
  deriving DecidableEq, Repr

/-- What runs in a slot beside its registers. -/
structure Activity where
  lref : W32
  compl : Word
  item : Option ItemKey
  reservedFor : Option ItemKey
  window : Option (BitVec 21 × BitVec 21)
  blocked : Option Asked
  wait : Option Asked
  reserved : Nat
  seq : Nat
  after : Nat
  /-- writes are performed after every access below this place: the latest FENCER's (R256) -/
  afterWr : Nat
  tokens : List (BitVec 5)
  /-- the latest matrix job of each token: token, job, rows or blocks done (R294) -/
  mxJobs : List (BitVec 5 × Nat × Nat)
  /-- errors of long accesses of the context whose traps it has still to take: level of the access, cause, mask (R237) -/
  longErr : List (Level × BitVec 8 × Word)
  deriving DecidableEq, Repr

/-- One context slot (R73). -/
structure Ctx where
  regs : Regs
  pend : Pend
  queue : Queue
  frame : Option RepFrame
  user : User
  trap : TrapRegs
  upcall : Upcall
  xch : Xch
  streams : List Stream
  llk : Option Llk
  act : Activity
  level : Level
  slotState : SlotState
  heldFrom : Option SlotState
  longMode : Bool
  skip : Bool
  idle : Bool
  yielded : Bool
  framed : Bool
  debugged : Bool
  deriving DecidableEq, Repr

/-- A Reeve entry (R66, R67); `order` is its place in the order of installation. -/
structure Obl where
  h : Word
  kind : OblKind
  owner : BitVec 4
  mult : Nat
  order : Nat
  deriving DecidableEq, Repr

/-- A held event (R372): the CAUSE word and TVAL. -/
structure Event where
  cause : Word
  tval : Word
  deriving DecidableEq, Repr

/-- A message in the spill ring (R378); what lies behind its 256th place is held in the fabric. -/
inductive Spilled where
  | msg (m : Msg)
  | event (e : Event)
  deriving DecidableEq, Repr

/-- A translated address: where it lies, its LAYOUT, its lease and the PTE (0 where untranslated) (R228, R238). -/
structure Place where
  pa : Nat
  layout : BitVec 2
  lease : BitVec 16
  pte : Word
  deriving DecidableEq, Repr

/-- An entry of the LVU queue (R213): its operands as taken at issue, the places of its elements (R237),
and its pieces (R217). -/
structure LvuEntry where
  id : Nat
  slot : BitVec 4
  instr : Instr
  ga : Word
  gb : Word
  va : VReg
  fa : Word
  fb : Word
  mode : Word
  seed : W32
  level : Level
  /-- the context's place in program order at issue: earlier accesses are performed first (R263) -/
  seq : Nat
  places : List Place
  pieces : Nat
  left : Nat
  deriving DecidableEq, Repr

/-- A TLB entry (R230). -/
structure TlbEntry where
  domain : BitVec 8
  vpage : Nat
  large : Bool
  pte : Word
  deriving DecidableEq, Repr

/-- The system registers of the core (R67, R105, R215, R368, R374, R380). -/
structure SysRegs where
  xbound : Word
  qwgt : BitVec 4
  bpa : Vector Word 4
  owedb : Word
  saveb : Word
  svec : Word
  kepc0 : Word
  kepc1 : Word
  kepc2 : Word
  kcause : Word
  ktval : Word
  krptst : Word
  dbghost : Word
  deriving DecidableEq, Repr

/-- A range lock (R246): the operation that holds it, and its generic span. -/
structure RangeLock where
  owner : Nat
  lo : Word
  hi : Word
  write : Bool
  deriving DecidableEq, Repr

/-- What the issue of one instruction changes before its meaning runs (stream pops, R134), as it stood, so
that a trap or a stall leaves no effect. -/
structure Undo where
  regs : Regs
  streams : List Stream
  agenda : List Msg
  ranges : List RangeLock
  deriving DecidableEq, Repr

/-- The core (R126, R127, R66, R75, R213, R342, R372, R378). -/
structure Core where
  ctxs : Vector Ctx 11
  cur : Fin 11
  undo : Option Undo
  ptr : Fin 11
  credit : Bool
  sys : SysRegs
  reeve : List Obl
  spilled : List Obl
  sysOwed : List Obl
  installs : Nat
  itemQ : List Item
  contQ : List (BitVec 1536)
  /-- the items started here, with the helpers of each that have not exited, wherever they are (R80, R82) -/
  live : List (ItemKey × Nat)
  spill : List Spilled
  spillHead : BitVec 32
  spillTail : BitVec 32
  events : List Event
  lvu : List LvuEntry
  recv : Vector (Option (Word × Bool)) 16
  tlb1 : List TlbEntry
  resident : List (W32 × BitVec 16)
  stopped : Bool
  preempted : Bool
  machineCheck : Bool
  settle : Nat
  sysMsg : Bool
  /-- an upcall was taken in this cycle: slot 0 issues first (R372) -/
  upcallNow : Bool
  /-- the instruction that was to issue stalled (R129) -/
  stalled : Bool
  ids : Nat
  deriving DecidableEq, Repr

/-- What a job of the cluster job queue does (R264, R286, R287). -/
inductive JobOp where
  | copy (fn : BitVec 3) (dst src ctl : Word) (desc : BitVec 512) (start : Nat)
  | mxb (src shape : Word)
  | compute (major : BitVec 6) (aaddr jw : Word) (sa sb : BitVec 8)
  | launch (hdr src : Word)
  deriving DecidableEq, Repr

/-- A job (R290). -/
structure Job where
  id : Nat
  who : BitVec 36
  token : BitVec 5
  op : JobOp
  mode : Word
  seed : W32
  level : Level
  started : Bool
  startRef : Nat
  rows : Nat
  xroot : Word
  /-- the context's place in program order at issue: its earlier stores are performed first (R265) -/
  seq : Nat
  /-- every access below this place is performed first: the latest acquire or fence before it (R324) -/
  after : Nat
  /-- flags raised so far: they reach FFLAGS when the job completes (R192) -/
  flags : BitVec 5
  deriving DecidableEq, Repr

/-- A B tile (R285): format, KB, N, and each column's bytes with its scale records. -/
structure Tile where
  fmt : BitVec 8
  kb : Nat
  n : Nat
  cols : List (List Byte)
  /-- columns whose store holds an uncorrectable error (R288, R398) -/
  bad : List Nat
  deriving DecidableEq, Repr

/-- The cluster's units (R89, R214, R246, R252, R285, R290). `others` is the load bytes of the other cores as
they stand, `hold` the item that holds the cluster or heads core 0's queue (R80), `loadFrom` the cycle of the last
reset or repair. -/
structure Cluster where
  locks : List (Nat × BitVec 36)
  raised : List (BitVec 36)
  /-- bank ports of engines that were refused: port, losses in a row, lock bits wanted (R253) -/
  lost : List (Nat × Nat × List Nat)
  /-- LLK locks of contexts of other cores: context, address, size (R255) -/
  farLlk : List (BitVec 36 × Word × Nat)
  ranges : List RangeLock
  jobs : List Job
  remote : List (Nat × BitVec 36 × BitVec 5 × Bool)
  /-- who waits for a place of the full job queue, longest first: a context, and the id of a remote job (R290) -/
  waiting : List (BitVec 36 × Option Nat)
  cur : Option Tile
  next : Option Tile
  /-- errors of the array that the job meets: row, column, block, and the change of its block sum (R399) -/
  sumErr : List (Nat × Nat × Nat × Int)
  swapDue : Bool
  clustld : Word
  others : Word
  loadFrom : Nat
  hold : Option ItemKey
  credits : List (BitVec 3 × Int)
  arrayCredits : List (BitVec 3 × Int)
  tlb2 : List TlbEntry
  ke : BitVec 256
  deriving DecidableEq, Repr

/-- A queued waiter at a home (R47, R49). -/
structure Waiter where
  who : Agent
  op : WaitOp
  deriving DecidableEq, Repr

/-- A mailbox entry (R49): message, reply, and whether it is a failure entry. -/
structure Mail where
  msg : Word
  reply : Word
  failed : Bool
  deriving DecidableEq, Repr

/-- A ring entry of a stage queue (R309): who reserved or dequeued it, FILLED, FREE, and a code. -/
structure RingEntry where
  count : Nat
  holder : Option Agent
  consumer : Option Agent
  filled : Bool
  free : Bool
  code : Option (BitVec 28)
  deriving DecidableEq, Repr

/-- A stage queue (R90, R309). -/
structure StageQueue where
  id : Nat
  data : Word
  space : Word
  depth : Nat
  t : Nat
  h : Nat
  ring : List RingEntry
  base : Word
  stage : Nat
  deriving DecidableEq, Repr

/-- An object at its home engine (R47), with the rounds of R56 and the mailbox ring of R49. -/
structure Obj where
  dev : BitVec 12
  index : BitVec 24
  gen : BitVec 8
  rank : BitVec 20
  kind : BitVec 4
  state : BitVec 8
  param : BitVec 24
  value : Word
  owed : BitVec 32
  scope : Word
  waiters : List Waiter
  rounds : BitVec 32
  mail : List Mail
  queue : Option (Nat × Bool)
  deriving DecidableEq, Repr

/-- A host's obligation (R71). -/
structure HostObl where
  dev : BitVec 12
  h : Word
  kind : OblKind
  mult : Nat
  deriving DecidableEq, Repr

/-- The signal engines (R47 to R59, R71, R309). `away` holds the launch engines of other dies and devices that keep a
launch context on a COMPL homed here (R43, R84). -/
structure Signals where
  objects : List Obj
  gens : List (BitVec 12 × BitVec 24 × BitVec 8)
  hosts : List HostObl
  queues : List StageQueue
  away : List (Word × BitVec 12 × BitVec 3)
  deriving DecidableEq, Repr

/-- An accepted launch with items left to start (R44, R45). -/
structure Launch where
  id : Nat
  hdr : BitVec 512
  lref : W32
  kslots : Nat
  prio : Nat
  accepted : Nat
  order : Nat
  next : Nat
  total : Nat
  xroot : Word
  entry : Word
  deriving DecidableEq, Repr

/-- A loaded code object (R21, R36, R37): its kernel records, its text (section, type, bytes) and TCM data (offset in
TCM, type, bytes), the XROOT of its load, its
resource-table template, the generic address of the first kernel's resource table (kernel k's lies k templates
above it), and the physical places it occupies, from `lo` up to `hi`. -/
structure CodeObj where
  id : W32
  kernels : List (BitVec 512)
  text : List (Nat × Nat × List Byte)
  xroot : Word
  template : List (BitVec 512)
  restab : Word
  lo : Nat
  hi : Nat
  unloading : Bool
  deriving DecidableEq, Repr

/-- A launch whose COMPL is homed on another device, while that home answers (R43): the place it keeps in the
queue where `place` is set, and what its acceptance needs. -/
structure Asking where
  id : Nat
  hdr : BitVec 512
  src : Agent
  token : BitVec 5
  xroot : Word
  slots : Nat
  entry : Word
  place : Bool
  job : Option Nat := none
  deriving DecidableEq, Repr

/-- The launch engine and the loader (R21, R44, R84, R397): `asking` holds launches waiting for another
device's home, `sent` the items sent to each other core that have not started there, by cluster and core
(R75, R77), `foreign` the launch contexts of other dies that came with a continuation record (R83, R86). -/
structure Engine where
  launches : List Launch
  ctxs : List LaunchCtx
  order : Nat
  refusing : Bool
  code : List CodeObj
  asking : List Asking
  sent : List (Nat × Nat)
  foreign : List LaunchCtx
  deriving DecidableEq, Repr

/-- Consumer states of R100. -/
inductive ConsState | joining | gated | active | idle
  deriving DecidableEq, Repr

/-- A consumer place of an instance (R100, R308, R316). -/
structure Consumer where
  place : Nat
  bind : Nat
  state : ConsState
  seg : Nat
  image : Option (List Byte)
  imageSeg : Nat
  mode : Word
  seed : W32
  /-- what the last gate placed: the image, its FMODE and its seed (R308, R316) -/
  cur : Option (List Byte × Word × W32)
  /-- no image has been staged since then -/
  curStaged : Bool
  waitEntry : Option (List Byte)
  flags : BitVec 5
  failCode : Option (BitVec 28)
  misses : Nat
  missLap : Nat
  missSeg : Nat
  got : Nat
  first : Option Nat
  laps : Nat
  lapsDue : Nat
  /-- failed entries that its output queue has still to take (R387, R395) -/
  owing : Nat
  deriving DecidableEq, Repr

/-- An instance of a weight stream (R98 to R102, R305). -/
structure Instance' where
  id : Nat
  stages : List (BitVec 192)
  entries : List (BitVec 512)
  domain : BitVec 8
  xroot : Word
  units : List Nat
  segs : Nat
  rows : Nat
  lap : Nat
  seg : Nat
  gateOpen : Bool
  gateAt : Nat
  deadline : Nat
  reading : Bool
  stopped : Bool
  owner : Nat
  /-- the pages translated at PBIND: generic page, and where its offset 0 lies (R305) -/
  pages : List (Nat × Place)
  consumers : List Consumer
  deriving DecidableEq, Repr

/-- A placement unit bound to a core stage (R303, R317): the stage it serves, its core in the layout of SELFID [31:0],
whether it is the binder's own, and the sample of its last move (R93). -/
structure BoundUnit where
  stage : Nat
  core : W32
  own : Bool
  moved : Option Nat
  deriving DecidableEq, Repr

/-- What an engine stage has in hand: a job on another cluster, with its token word when it has ended, or one of this
machine's that has got some way (R302). -/
inductive StageJob where
  | away (word : Option Word)
  | here (j : Job)
  deriving DecidableEq, Repr

/-- A binding (R98, R304 to R306). -/
structure Binding where
  id : Nat
  gen : BitVec 8
  inst : Nat
  place : Nat
  pos : Nat
  binder : BitVec 36
  bindObj : Word
  endObj : Word
  hasEnd : Bool
  queues : List (Nat × Nat)
  fresh : List Nat
  desc : List (BitVec 192)
  units : List BoundUnit
  /-- what the engine stages have in hand, by stage -/
  jobs : List (Nat × StageJob)
  /-- the pages of the bank stage's results, translated at PBIND, and their base (R305, R308) -/
  pages : List (Nat × Place)
  base : Nat
  deriving DecidableEq, Repr

/-- The PBIND that Millrace has in hand (R98): its message, and what the homes on other devices have answered. -/
structure PipeAsking where
  msg : Msg
  checked : Option Nat
  taken : Option Nat
  deriving DecidableEq, Repr

/-- Millrace (R97 to R102) and the governor (R93). `asking` is the PBIND in hand, `last` the cycle and the die of the
request it took last. -/
structure Mill where
  asking : Option PipeAsking
  last : Nat × Nat
  insts : List Instance'
  binds : List Binding
  gens : List (Nat × BitVec 8)
  ids : Nat
  samples : Nat
  deriving DecidableEq, Repr

/-- A slot of a bank unit that is LOADED, or has VALID bits (R296). Key: stack, unit, slot. -/
structure BankSlot where
  stack : Nat
  unit : Nat
  slot : Nat
  loaded : Option (BitVec 8 × Nat)
  valid : BitVec 16384
  deriving DecidableEq, Repr

/-- A bank job (R298 to R301). -/
structure BankJob where
  id : Nat
  who : BitVec 36
  token : BitVec 5
  instr : Instr
  ga : Word
  gb : Word
  desc : BitVec 512
  sa : BitVec 8
  sb : BitVec 8
  mode : Word
  seed : W32
  level : Level
  xroot : Word
  /-- every access below this place is performed first: the latest acquire or fence before it (R324) -/
  after : Nat
  /-- the context's place in program order at issue -/
  seq : Nat
  /-- 64-byte blocks that a BVRD has written (R247, R300) -/
  done : Nat
  deriving DecidableEq, Repr

/-- The bank units (R296, R300). -/
structure Banks where
  slots : List BankSlot
  jobs : List BankJob
  corrected : List (Nat × Nat)
  deriving DecidableEq, Repr

/-- What a group gathers for its next phase (R345): this core's participant, the module's count, what the
first XPH named (L, SC, scope), whether the module's arrival has gone, the arrivals at LEADER (device, L, SC,
scope, breach flag), the number of phases gathered, and the phase number that LEADER keeps. -/
structure Phase where
  gid : BitVec 12
  who : Option (BitVec 36 × BitVec 5)
  counted : Nat
  first : Option (Nat × Bool × Word)
  mismatch : Bool
  sent : Bool
  arrivals : List (BitVec 12 × Nat × Bool × Word × Bool)
  round : Nat
  seq : BitVec 32
  deriving DecidableEq, Repr

/-- A released phase (R343, R344): this core's participant, L, the start tick, and its failure or 0. -/
structure Run where
  gid : BitVec 12
  who : Option (BitVec 36 × BitVec 5)
  len : Nat
  tick : Nat
  seq : BitVec 32
  started : Bool
  failure : BitVec 28
  breached : Bool
  deriving DecidableEq, Repr

/-- A virtual-stream entry (R350, R351), by its entry number (R354). -/
structure Entry where
  num : Word
  record : BitVec 1024
  /-- the send cycle of the marker that stepped CUR last: the new set governs later send cycles (R353) -/
  stepped : Option Nat
  deriving DecidableEq, Repr

/-- The exchange (R341, R344, R350). -/
structure Exchange where
  groups : Vector (BitVec 128) 64
  phases : List Phase
  runs : List Run
  entries : List Entry
  outputs : List (Word × BitVec 5 × Nat × XWord)
  deriving DecidableEq, Repr

/-- Bell (R355 to R358): the changes due, the ANN sent at the last boundary, the members with the epochs
each has been silent, the devices joining and leaving with the boundary at which they do, and the devices declared silent,
each with the barrier streams that dropped it. -/
structure Bell where
  ann : BitVec 6
  next : BitVec 6
  ceil : BitVec 6
  state : BitVec 3
  due : List (BitVec 6 × Nat)
  carried : BitVec 6
  members : List (BitVec 12 × Nat)
  joining : List (BitVec 12 × Nat)
  leaving : List (BitVec 12 × Nat)
  silent : List (BitVec 12 × List Nat)
  breached : Bool
  deriving DecidableEq, Repr

/-- Lock states of a port (R360). -/
inductive PortState | unlocked | locked | run | error
  deriving DecidableEq, Repr

/-- A fabric port (R336, R359 to R361). -/
structure Port where
  state : PortState
  trained : Bool
  spdm : Nat
  session : Nat
  txSeq : BitVec 16
  rxSeq : BitVec 16
  /-- flits sent and not yet acknowledged, at most 1,024 (R336) -/
  replay : List Flit
  replays : Nat
  replaySeq : BitVec 16
  txFlits : Nat
  rxFlits : Nat
  txKey : Nat
  rxKey : Nat
  /-- the peer has announced a new key from the end of the batch under way (R361) -/
  rxDue : Bool
  rxCounter : Nat
  /-- the direction's counter, and the payloads of the batch that has no tag flit yet (R361) -/
  txCounter : Nat
  txBatch : List (BitVec 256)
  batch : List Flit
  config : Word
  deriving DecidableEq, Repr

/-- A MIG page at its home translation agent (R233 to R235). -/
structure MigPage where
  va : Word
  /-- physical addresses: its PTE, and its page on the device and on the host (R233) -/
  pte : Word
  dev : Word
  host : Word
  onDevice : Bool
  remote : Bool
  pinned : Bool
  moves : List Nat
  deriving DecidableEq, Repr

/-- Replica groups (R239, R331): device, mask and sequencer give the key; the next stamp, and what each
member has applied. -/
structure Replica where
  mask : BitVec 8
  seqDie : BitVec 3
  stamp : Nat
  applied : List (BitVec 3 × Nat)
  deriving DecidableEq, Repr

/-- A lease (R240 to R244). -/
structure Lease where
  record : BitVec 512
  copied : Nat
  failed : List Nat
  reached : Bool
  /-- physical address of the bitmap of failed pages, at the lessor (R242) -/
  bitmap : Nat
  deriving DecidableEq, Repr

/-- Fence doublewords that differ from their reset value (R392). -/
structure Fence where
  unit : FenceUnit
  state : BitVec 2
  deadline : BitVec 32
  deriving DecidableEq, Repr

/-- The controller and its firmware (R400 to R404). -/
structure Control where
  version : BitVec 32
  svn : BitVec 32
  minSvn : BitVec 32
  running : Bool
  recovery : Bool
  /-- the image held in flash, and the staged one that is being written over it (R400, R401) -/
  flash : List Byte
  staged : Option (List Byte)
  writing : Bool
  step : Nat
  seedErased : Bool
  keysErased : Bool
  lastAlarm : Option Nat
  temps : List (BitVec 3 × Nat)
  /-- the n that each domain's budget allows, with the epoch of its last step (R16, R403) -/
  budget : List (PowerDomain × Nat × Nat)
  leaving : Nat
  migmax : BitVec 8
  /-- spares used, by die (R9, R394) -/
  spares : List (BitVec 3 × Nat)
  reduced : Bool
  deriving DecidableEq, Repr

/-- An error record (R390). -/
structure ErrRecord where
  time : Nat
  addr : Word
  epc : Word
  unit : BitVec 16
  cls : BitVec 8
  code : BitVec 8
  deriving DecidableEq, Repr

/-- The rest of the module. -/
structure Module where
  ports : Vector Port 32
  mig : List MigPage
  replicas : List Replica
  leases : List Lease
  fences : List Fence
  control : Control
  log : List ErrRecord
  logHead : Word
  absent : List Nat
  /-- corrected errors of each unit of this die, in the coding of R390 (R398) -/
  corrected : List (BitVec 16 × Nat)
  /-- fenced cores of other devices, in the layout of SELFID [31:0] (R87) -/
  fencedAway : List W32
  deriving DecidableEq, Repr

/-- What leaves for agents outside the model: a message of the opcode table, or a notice the spec
names. -/
inductive OutMsg where
  /-- a message for a place the model does not hold -/
  | event (m : Msg)
  /-- a launch response to a host (R39) -/
  | launchResponse (dev : BitVec 12) (status : Word)
  /-- the answer to a host's wait or registration (R54, R71) -/
  | hostAnswer (dev : BitVec 12) (ans : HomeAns)
  /-- the response to a host access: tag, value, cause or 0 (R339) -/
  | hostResponse (dev : BitVec 12) (tag : Nat) (value : Word) (cause : BitVec 8)
  /-- a debug stop (R382): host, context, frame address -/
  | debugStop (host : BitVec 12) (who : BitVec 36) (frame : Word)
  /-- PREEMPT's acknowledgement (R376) -/
  | preempted
  /-- a message discarded because of its sender, reported by the controller (R376) -/
  | badSender (src : Agent)
  /-- the completion event of a demotion (R242): lease, failed pages, where their bitmap is -/
  | demotion (id : BitVec 12) (failed bitmap : Nat)
  /-- the loader's refusal or acceptance of an object: code, or 0 with the first kernel's resource table
  (R21, R37) -/
  | loader (id : W32) (code : Nat) (tables : Word)
  /-- an acknowledged invalidation (R231) -/
  | invalidated (va : Word)
  /-- the host's mapping of a page: where the page lies, whether that is the device, whether the other side has a remote
  mapping, and its PINR (R233 to R235) -/
  | moved (va loc : Word) (onDevice remote pinned : Bool)
  /-- the notice of a host's migration request (R235) -/
  | notice (dev : BitVec 12) (va : Word)
  | report (code : Nat)
  /-- the runtime of a unit that is being fenced is told, in its OS-agent mailbox (R393) -/
  | fenceNotice (unit : FenceUnit)
  /-- the cluster count that a die reports to the OS agent when no spare is left (R394) -/
  | clusterCount (die : BitVec 3) (present : Nat)
  /-- every other core of the module stops, as by HALT (R402) -/
  | stopCores
  /-- where the controller has put SAVEB and OWEDB of the core (R404) -/
  | savePlaces (saveb owedb : Word)
  /-- REBIND for a placement unit of another core (R94, R303): the core in the layout of SELFID [31:0], the DATA
  handle -/
  | rebind (core : W32) (h : Word)
  /-- an engine stage's job for another cluster m (R302): m, the MXJ descriptor, XROOT, instance, place, stage -/
  | stageJob (m : Nat) (ea xroot : Word) (inst place idx : Nat)
  /-- an exchange word that leaves for another module at a switch: level, index, port (R350) -/
  | word (level index port : Nat) (w : XWord)
  /-- this module's contribution to Bell (R356) -/
  | contribution (ann : BitVec 6)
  /-- a flit that a port sends, or sends again (R336) -/
  | flit (port : BitVec 5) (f : Flit)
  /-- a flit delivered to its class (R336, R361) -/
  | delivered (port : BitVec 5) (f : Flit)
  /-- CAPABILITY for core 0 of this cluster (R367): its TVAL -/
  | capability (tval : Word)
  /-- a store to a place of the system window that the model does not hold (R389) -/
  | windowStore (pa size value : Nat)
  deriving DecidableEq, Repr

/-- Clocks (R15, R356); `locked` is reference lock (R357). -/
structure Clock where
  n : Nat
  cycle : Nat
  ref : Nat
  refFrac : Nat
  locked : Bool
  deriving DecidableEq, Repr

/-- The machine. `agenda` holds messages in flight and events due, `timers` events that fall due at a
reference count, `event` the message an event step handles, `outbox` what has left for agents outside
the model. -/
structure State where
  loc : Loc
  grade : Grade
  board : Nat
  rack : Nat
  l5Port : Nat
  clock : Clock
  core : Core
  cluster : Cluster
  signals : Signals
  engine : Engine
  mill : Mill
  banks : Banks
  exchange : Exchange
  bell : Bell
  hw : Module
  mem : List (Nat × BitVec 8)
  badEcc : List Nat
  agenda : List Msg
  timers : List (Nat × Msg)
  event : Option Msg
  outbox : List OutMsg
  tick : Nat
  fresh : Nat
  deriving DecidableEq, Repr

/-! Reset. -/

/-- Registers at reset (log 2). -/
def Regs.reset : Regs :=
  { g := Vector.replicate 32 0, f := Vector.replicate 16 0, v := Vector.replicate 32 0
    k := Vector.replicate 8 0, q := Vector.replicate 16 0 }

/-- Nothing pending. -/
def Pend.reset : Pend := { g := 0, f := 0, v := 0, k := 0, marks := [], storeErr := [] }

/-- A PC queue at three consecutive addresses with every flag clear. -/
def Queue.at (pc : Word) : Queue :=
  { q0 := pc, q1 := pc + 4, q2 := pc + 8, n0 := false, n1 := false, n2 := false
    d0 := false, d1 := false, d2 := false }

/-- User control registers at reset (R32, R52, R182 to R184, R227, R320). -/
def User.reset : User :=
  { fmode := 0, fflags := 0, lfsr := 0, wid := 0, widx := 0, rankLo := 0, rankHi := 0
    scope := 0, restb := 0, xroot := 0 }

/-- Trap registers at reset (R141, R366). -/
def TrapRegs.reset : TrapRegs :=
  { epc0 := 0, epc1 := 0, epc2 := 0, cause := 0, tval := 0, rptst := 0 }

/-- No phase yet (R342). -/
def Xch.reset : Xch :=
  { inph := false, ended := false, len := 0, startCycle := 0, held := 0, gid := 0, words := 0, status := 0
    collided := none, breached := false }

/-- No activity. -/
def Activity.reset : Activity :=
  { lref := 0, compl := 0, item := none, reservedFor := none, window := none, blocked := none
    wait := none, reserved := 0, seq := 0, after := 0, afterWr := 0, tokens := [], mxJobs := [], longErr := [] }

/-- A slot at reset, at a level and in a state (R73). -/
def Ctx.reset (level : Level) (st : SlotState) : Ctx :=
  { regs := .reset, pend := .reset, queue := .at 0, frame := none, user := .reset, trap := .reset
    upcall := { free := 0, resume := 0, pend := 0, inHandler := false, vec := 0 }
    xch := .reset, streams := [], llk := none, act := .reset, level := level, slotState := st
    heldFrom := none, longMode := false, skip := false, idle := false, yielded := false
    framed := false, debugged := false }

/-- The system registers at reset (R67, R105, R215, R368, R380). -/
def SysRegs.reset : SysRegs :=
  { xbound := 0, qwgt := 1, bpa := Vector.replicate 4 0, owedb := 0, saveb := 0, svec := 0
    kepc0 := 0, kepc1 := 0, kepc2 := 0, kcause := 0, ktval := 0, krptst := 0, dbghost := 0 }

/-- The core at reset: stopped (R404, step 4), slot 0 READY, helpers FREE. -/
def Core.reset : Core :=
  { ctxs := (Vector.replicate 11 (Ctx.reset .h .free)).set 0 (Ctx.reset .c .ready)
    cur := 0, undo := none, ptr := 0, credit := true, sys := .reset, reeve := [], spilled := []
    sysOwed := [], installs := 0, itemQ := [], contQ := [], live := [], spill := [], spillHead := 0
    spillTail := 0, events := [], lvu := [], recv := Vector.replicate 16 none, tlb1 := []
    resident := [], stopped := true, preempted := false, machineCheck := false, settle := 0
    sysMsg := false, upcallNow := false, stalled := false, ids := 0 }

/-- The cluster at reset. -/
def Cluster.reset : Cluster :=
  { locks := [], raised := [], lost := [], farLlk := [], ranges := [], jobs := [], remote := [], waiting := []
    cur := none, next := none, sumErr := []
    swapDue := false, clustld := 0, others := 0, loadFrom := 0, hold := none, credits := [], arrayCredits := []
    tlb2 := [], ke := 0 }

/-- A port at reset: UNLOCKED (R360). -/
def Port.reset : Port :=
  { state := .unlocked, trained := false, spdm := 0, session := 0, txSeq := 0
    rxSeq := 0, replay := [], replays := 0, replaySeq := 0, txFlits := 0, rxFlits := 0, txKey := 0
    rxKey := 0, rxDue := false, rxCounter := 0, txCounter := 0, txBatch := [], batch := [], config := 0 }

/-- Bell at reset (R355): ANN, NEXT and CEIL are 40, STATE is NONE. -/
def Bell.reset : Bell :=
  { ann := 40, next := 40, ceil := 40, state := 0, due := [], carried := 40
    members := [], joining := [], leaving := [], silent := [], breached := false }

/-- The rest of the module at reset; MIGMAX is 4 (R234). -/
def Module.reset : Module :=
  { ports := Vector.replicate 32 .reset, mig := [], replicas := [], leases := [], fences := []
    control :=
      { version := 0, svn := 0, minSvn := 0, running := false, recovery := false, flash := [], staged := none
        writing := false, step := 0, seedErased := false, keysErased := false, lastAlarm := none
        temps := [], budget := [], leaving := 0, migmax := 4, spares := [], reduced := false }
    log := [], logHead := 0, absent := [], corrected := [], fencedAway := [] }

/-- The machine right after reset. -/
def State.reset : State :=
  { loc := { dev := 0, die := 0, cluster := 0, core := 0 }, grade := .fv8, board := 0, rack := 0
    l5Port := 0, clock := { n := 40, cycle := 0, ref := 0, refFrac := 0, locked := true }
    core := .reset, cluster := .reset
    signals := { objects := [], gens := [], hosts := [], queues := [], away := [] }
    engine := { launches := [], ctxs := [], order := 0, refusing := true, code := [], asking := [], sent := [], foreign := [] }
    mill := { asking := none, last := (0, 0), insts := [], binds := [], gens := [], ids := 0, samples := 0 }
    banks := { slots := [], jobs := [], corrected := [] }
    exchange :=
      { groups := Vector.replicate 64 0, phases := [], runs := [], entries := [], outputs := [] }
    bell := .reset, hw := .reset, mem := [], badEcc := [], agenda := [], timers := []
    event := none, outbox := [], tick := 0, fresh := 0 }

end Sys2Proof.Machine
end

