-- ==== Sys2Proof/Machine/Ops.lean ====
section
/-!
DEFINITION. The named operations over memory, registers, the Reeve, translation and frames, and taking
an exception and returning from one (R66 to R69, R136 to R141, R224 to R231, R365 to R378).
-/

namespace Sys2Proof.Machine

/-! Memory: a list of (address, byte), addresses rising, no zero byte listed. -/

/-- What an unlisted address reads as (log 3). -/
def emptyByte : Byte := 0

/-- The byte at an address. -/
def Memory.get : List (Nat × BitVec 8) → Nat → Byte
  | [], _ => emptyByte
  | (k, v) :: rest, a => if a < k then emptyByte else if a = k then v else Memory.get rest a

/-- Put a cell at the head, unless it is what an unlisted address reads as. -/
def Memory.cons (a : Nat) (b : Byte) (m : List (Nat × BitVec 8)) : List (Nat × BitVec 8) :=
  if b = emptyByte then m else (a, b) :: m

/-- Set the byte at an address. -/
def Memory.put : List (Nat × BitVec 8) → Nat → Byte → List (Nat × BitVec 8)
  | [], a, b => Memory.cons a b []
  | (k, v) :: rest, a, b =>
    if a < k then Memory.cons a b ((k, v) :: rest)
    else if a = k then Memory.cons a b rest
    else (k, v) :: Memory.put rest a b

/-- Consecutive bytes. -/
def Memory.bytes (m : List (Nat × BitVec 8)) (a : Nat) : Nat → List Byte
  | 0 => []
  | n + 1 => Memory.get m a :: Memory.bytes m (a + 1) n

/-- Set consecutive bytes. -/
def Memory.putBytes (m : List (Nat × BitVec 8)) (a : Nat) : List Byte → List (Nat × BitVec 8)
  | [] => m
  | b :: bs => Memory.putBytes (Memory.put m a b) (a + 1) bs

/-- The canonical form: addresses strictly rising from a bound, no byte as an unlisted one reads. -/
def Memory.wfFrom : Nat → List (Nat × BitVec 8) → Bool
  | _, [] => true
  | lo, (k, v) :: rest => decide (lo ≤ k) && v != emptyByte && Memory.wfFrom (k + 1) rest

/-- The canonical form of a memory. -/
def Memory.wf (m : List (Nat × BitVec 8)) : Bool := Memory.wfFrom 0 m

/-- Read n bytes as a little-endian number. -/
def readNat (s : State) (pa n : Nat) : Nat := natLE (Memory.bytes s.mem pa n)

/-- Write n bytes of a number, little-endian. -/
def writeNat (s : State) (pa n v : Nat) : State :=
  { s with mem := Memory.putBytes s.mem pa (bytesLE n v) }

/-- Write bytes. -/
def writeBytes (s : State) (pa : Nat) (bs : List Byte) : State :=
  { s with mem := Memory.putBytes s.mem pa bs }

/-- The bytes that one code protects about a 4-byte word: the word in a scratchpad, else its 8 bytes (R398). -/
def eccGranule (g : Nat) : Nat × Nat := if nfld (4 * g) 40 12 = 2 then (4 * g, 4) else (g / 2 * 8, 8)

/-- Does an access touch a granule with an uncorrectable error (R398)? -/
def eccBad (s : State) (pa n : Nat) : Bool :=
  s.badEcc.any fun g => decide ((eccGranule g).1 < pa + n) && decide (pa < (eccGranule g).1 + (eccGranule g).2)

/-! Contexts and registers. -/

/-- The slots in increasing order. -/
def slots : List (Fin 11) := [0, 1, 2, 3, 4, 5, 6, 7, 8, 9, 10]

/-- The helper slots. -/
def helperSlots : List (Fin 11) := [1, 2, 3, 4, 5, 6, 7, 8, 9, 10]

/-- A slot number from bits; above 10 it names none (R73). -/
def slotOf (n : Nat) : Option (Fin 11) := if h : n < 11 then some ⟨n, h⟩ else none

/-- The context in a slot. -/
def State.at (s : State) (i : Fin 11) : Ctx := s.core.ctxs[i.val]'i.isLt

/-- Replace the context in a slot. -/
def State.setAt (s : State) (i : Fin 11) (c : Ctx) : State :=
  { s with core := { s.core with ctxs := s.core.ctxs.set i.val c i.isLt } }

/-- The context that issues. -/
def State.ctx (s : State) : Ctx := s.at s.core.cur

/-- Change the context that issues. -/
def State.mod (s : State) (f : Ctx → Ctx) : State := s.setAt s.core.cur (f s.ctx)

/-- Change the core. -/
def State.modCore (s : State) (f : Core → Core) : State := { s with core := f s.core }

/-- Change the cluster. -/
def State.modCluster (s : State) (f : Cluster → Cluster) : State := { s with cluster := f s.cluster }

/-- Change the activity of a slot. -/
def State.modAct (s : State) (i : Fin 11) (f : Activity → Activity) : State :=
  s.setAt i { s.at i with act := f (s.at i).act }

/-- g[r]; g0 reads zero (R110). -/
def Ctx.g (c : Ctx) (r : BitVec 5) : Word := if r = 0 then 0 else c.regs.g[r.toNat]'r.isLt

/-- f[r]. -/
def Ctx.f (c : Ctx) (r : BitVec 5) : Word := c.regs.f[r.toNat % 16]'(Nat.mod_lt _ (by decide))

/-- v[r]. -/
def Ctx.v (c : Ctx) (r : BitVec 5) : VReg := c.regs.v[r.toNat]'r.isLt

/-- k[r]; k0 reads all ones (R201). -/
def Ctx.k (c : Ctx) (r : BitVec 3) : W32 := if r = 0 then BitVec.allOnes 32 else c.regs.k[r.toNat]'r.isLt

/-- q[r]. -/
def Ctx.q (c : Ctx) (r : BitVec 5) : QReg := c.regs.q[r.toNat % 16]'(Nat.mod_lt _ (by decide))

/-- Write(d, v) of R148: a write of g0 is discarded. -/
def Ctx.setG (c : Ctx) (r : BitVec 5) (x : Word) : Ctx :=
  if r = 0 then c else { c with regs := { c.regs with g := c.regs.g.set r.toNat x r.isLt } }

/-- Write f[r]. -/
def Ctx.setF (c : Ctx) (r : BitVec 5) (x : Word) : Ctx :=
  { c with regs := { c.regs with f := c.regs.f.set (r.toNat % 16) x (Nat.mod_lt _ (by decide)) } }

/-- Write v[r]. -/
def Ctx.setV (c : Ctx) (r : BitVec 5) (x : VReg) : Ctx :=
  { c with regs := { c.regs with v := c.regs.v.set r.toNat x r.isLt } }

/-- Write k[r]; k0 is not written (R110). -/
def Ctx.setK (c : Ctx) (r : BitVec 3) (x : W32) : Ctx :=
  if r = 0 then c else { c with regs := { c.regs with k := c.regs.k.set r.toNat x r.isLt } }

/-- Write q[r]. -/
def Ctx.setQ (c : Ctx) (r : BitVec 5) (x : QReg) : Ctx :=
  { c with regs := { c.regs with q := c.regs.q.set (r.toNat % 16) x (Nat.mod_lt _ (by decide)) } }

/-- g[r] of the issuing context. -/
def gv (s : State) (r : BitVec 5) : Word := s.ctx.g r

/-- Write g[r] of the issuing context. -/
def wg (s : State) (r : BitVec 5) (x : Word) : State := s.mod (·.setG r x)

/-- Set or clear a pending bit of g; g0 is never pending (R172). -/
def Ctx.pendG (c : Ctx) (r : BitVec 5) (b : Bool) : Ctx :=
  if r = 0 then c
  else { c with pend := { c.pend with g :=
    if b then c.pend.g ||| BitVec.twoPow 32 r.toNat else c.pend.g &&& ~~~ BitVec.twoPow 32 r.toNat } }

/-- Set or clear a pending bit of v. -/
def Ctx.pendV (c : Ctx) (r : BitVec 5) (b : Bool) : Ctx :=
  { c with pend := { c.pend with v :=
    if b then c.pend.v ||| BitVec.twoPow 32 r.toNat else c.pend.v &&& ~~~ BitVec.twoPow 32 r.toNat } }

/-- Set or clear a pending bit of f. -/
def Ctx.pendF (c : Ctx) (r : BitVec 5) (b : Bool) : Ctx :=
  { c with pend := { c.pend with f :=
    if b then c.pend.f ||| BitVec.twoPow 16 (r.toNat % 16)
    else c.pend.f &&& ~~~ BitVec.twoPow 16 (r.toNat % 16) } }

/-- OR flags into FFLAGS: NV, DZ, OF, UF, NX from bit 4 down (R183). -/
def Ctx.orFlags (c : Ctx) (fl : BitVec 5) : Ctx :=
  { c with user := { c.user with fflags := c.user.fflags ||| fl.zeroExtend 64 } }

/-- SELFID [35:0] of a slot (R161). -/
def selfId (s : State) (i : Fin 11) : BitVec 36 :=
  BitVec.ofNat 4 i.val ++ s.loc.dev ++ s.loc.die ++ s.loc.cluster ++ s.loc.core ++ 0#7

/-- SELFID of the issuing context. -/
def me (s : State) : BitVec 36 := selfId s s.core.cur

/-- The slot of this core that a context id names. -/
def localSlot (s : State) (sel : BitVec 36) : Option (Fin 11) :=
  if sel.extractLsb' 0 32 = (selfId s 0).extractLsb' 0 32 then slotOf (sel.extractLsb' 32 4).toNat
  else none

/-- Send a message: it joins those in flight. -/
def send (s : State) (i : Msg) : State := { s with agenda := s.agenda ++ [i] }

/-- Is a message of a kind in flight? -/
def inAgenda (s : State) (p : Msg → Bool) : Bool := s.agenda.any p

/-- Let an event fall due at a reference count. -/
def after (s : State) (due : Nat) (i : Msg) : State := { s with timers := s.timers ++ [(due, i)] }

/-- A message for an agent outside the model. -/
def out (s : State) (m : OutMsg) : State := { s with outbox := s.outbox ++ [m] }

/-- The next value the spec leaves undefined (log 5). -/
def takeFree (s : State) : Word × State := (Config.freeValue s.fresh, { s with fresh := s.fresh + 1 })

/-! The PC queue and retirement (R136, R140). -/

/-- Shift of R136. -/
def Queue.shift (q : Queue) (next : Word) : Queue :=
  { q0 := q.q1, n0 := q.n1, d0 := q.d1, q1 := q.q2, n1 := q.n2, d1 := q.d2
    q2 := next, n2 := false, d2 := false }

/-- One issue of a repeat frame is done: the next slot, the next replay, or the end of the frame (R140). -/
def Ctx.frameNext (c : Ctx) (f : RepFrame) : Ctx :=
  if f.slot.toNat < f.nm1.toNat then { c with frame := some { f with slot := f.slot + 1, again := false } }
  else if f.iter.toNat < f.cm1.toNat then
    { c with frame := some { f with slot := 0, iter := f.iter + 1, again := false } }
  else { c with frame := none, queue := Queue.at (f.base + BitVec.ofNat 64 (4 * (f.nm1.toNat + 1))) }

/-- The address of the instruction that issues (R136, R140). -/
def Ctx.pc (c : Ctx) : Word :=
  match c.frame with
  | none => c.queue.q0
  | some f => f.base + BitVec.ofNat 64 (4 * f.slot.toNat)

/-- An instruction that is no transfer has issued: Shift(Q2 + 4), or the frame's next issue. -/
def Ctx.advance (c : Ctx) : Ctx :=
  match c.frame with
  | none => { c with queue := c.queue.shift (c.queue.q2 + 4) }
  | some f => c.frameNext f

/-- The issuing instruction is done. -/
def retire (s : State) : State := (s.mod Ctx.advance).modCore fun c => { c with undo := none }

/-- RPTST with the flags of the queue, or with an interrupted frame (R140, R141). -/
def Ctx.rptstNow (c : Ctx) : Word :=
  match c.frame with
  | none =>
    BitVec.ofNat 64 ((c.queue.n2.toNat * 2 ^ 62) + (c.queue.n1.toNat * 2 ^ 61) + (c.queue.n0.toNat * 2 ^ 60)
      + (c.queue.d2.toNat * 2 ^ 59) + (c.queue.d1.toNat * 2 ^ 58) + (c.queue.d0.toNat * 2 ^ 57))
  | some f =>
    BitVec.ofNat 64 (2 ^ 63 + fld f.base 2 13 * 2 ^ 34 + f.nm1.toNat * 2 ^ 30 + f.cm1.toNat * 2 ^ 20
      + f.sd.toNat * 2 ^ 18 + f.sa.toNat * 2 ^ 16 + f.sb.toNat * 2 ^ 14 + f.iter.toNat * 2 ^ 4
      + f.slot.toNat)

/-- The queue as an interruption saves it: EPC0 to EPC2 (R138, R140). -/
def Ctx.epcNow (c : Ctx) : Word × Word × Word :=
  match c.frame with
  | none => (c.queue.q0, c.queue.q1, c.queue.q2)
  | some _ => (c.pc, c.pc + 4, c.pc + 8)

/-- Resume from saved addresses and an RPTST: the queue with its flags, or the frame, to be captured again
(R140, R152). -/
def Ctx.resumeAt (c : Ctx) (e0 e1 e2 rp : Word) : Ctx :=
  if rp.getLsbD 63 then
    { c with
      frame := some
        { words := [], base := BitVec.ofNat 64 (fld rp 34 13 * 4), nm1 := BitVec.ofNat 4 (fld rp 30 4)
          cm1 := BitVec.ofNat 10 (fld rp 20 10), sd := BitVec.ofNat 2 (fld rp 18 2)
          sa := BitVec.ofNat 2 (fld rp 16 2), sb := BitVec.ofNat 2 (fld rp 14 2)
          iter := BitVec.ofNat 10 (fld rp 4 10), slot := BitVec.ofNat 4 (fld rp 0 4), again := false
          bad := none }
      queue := Queue.at e0 }
  else
    { c with
      frame := none
      queue :=
        { q0 := e0, q1 := e1, q2 := e2, n0 := rp.getLsbD 60, n1 := rp.getLsbD 61, n2 := rp.getLsbD 62
          d0 := rp.getLsbD 57, d1 := rp.getLsbD 58, d2 := rp.getLsbD 59 } }

/-! Physical addresses (R225) and apertures (R224). -/

/-- The cause codes of R365. -/
abbrev Cause := BitVec 8

/-- Physical fabric address of an offset in the issuing core's TCM. -/
def tcmBase (s : State) : Nat :=
  s.loc.dev.toNat * 2 ^ 52 + 0x030000000000
    + (1024 * s.loc.die.toNat + 8 * s.loc.cluster.toNat + s.loc.core.toNat) * 2 ^ 15

/-- Physical fabric address of cluster m's scratchpad on the issuing device. -/
def scratchBase (s : State) (m : Nat) : Nat :=
  s.loc.dev.toNat * 2 ^ 52 + 0x020000000000 + m * 2 ^ 21

/-- The module-wide number of the issuing cluster. -/
def myCluster (s : State) : Nat := 128 * s.loc.die.toNat + s.loc.cluster.toNat

/-- Clusters present on each die of a grade (R8). -/
def presentClusters : Grade → Nat
  | .fv8 => 128
  | .fv8s => 112

/-- Is a stack present (R8)? -/
def stackPresent (g : Grade) (st : Nat) : Bool :=
  decide (st < 16) && (match g with | .fv8 => true | .fv8s => !(st % 4 == 3))

/-- Does a cluster number name a present cluster (R8)? -/
def clusterPresent (g : Grade) (m : Nat) : Bool :=
  decide (m < 1024) && decide (m % 128 < presentClusters g)

/-- Is a device there? 0xFFF is never assigned (R11); while the port of the path to another device is in ERROR,
nothing of it can be reached (R360). -/
def deviceThere (s : State) (dev : BitVec 12) : Bool :=
  dev == s.loc.dev
    || (dev != 0xFFF && Config.assigned dev && s.hw.ports[(Config.pathPort dev).toNat].state != .error)

/-- The grade of a device (R8). -/
def gradeOf (s : State) (dev : BitVec 12) : Grade :=
  if dev = s.loc.dev then s.grade else if Config.isFv8s dev then .fv8s else .fv8

/-- Is an offset of the bank window inside its slot's limits (R224, R297)? -/
def bankOffset (off : Nat) : Bool :=
  if off.testBit 18 then decide (off % 2 ^ 18 < 0x10000) else decide (off % 2 ^ 18 < 0x8400)

/-- Does a physical fabric address name memory, under the LAYOUT of its page (R225, R226)? The channel of a stack
address is a[13:9], and a[20:16] in bank-row data. -/
def physExists (s : State) (pa : Nat) (lay : BitVec 2 := 0) : Bool :=
  let dev := BitVec.ofNat 12 (pa / 2 ^ 52)
  let a := pa % 2 ^ 52
  let g := gradeOf s dev
  if !deviceThere s dev then false
  else if a < 2 ^ 40 then
    stackPresent g (a / 2 ^ 36)
      && !(s.hw.absent.contains (pa / 2 ^ 36 * 32 + (if lay = 1 then nfld a 16 5 else nfld a 9 5)))
  else if a < 2 ^ 41 then decide (nfld a 26 14 < 8) && decide (nfld a 0 26 < 0x3000000)
  else if a < 3 * 2 ^ 40 then clusterPresent g (nfld a 21 19) && decide (nfld a 0 21 < 0x180000)
  else if a < 2 ^ 42 then
    decide (nfld a 15 25 < 8192) && clusterPresent g (nfld a 15 25 / 8)
  else if a < 2 ^ 42 + 2 ^ 32 then stackPresent g (nfld a 28 4) && bankOffset a
  else false

/-- What an untranslated address resolves to: an address, or a cause (R224). System-window addresses
resolve into system space (log 9). -/
def resolve (s : State) (ea : Word) : Except Cause Nat :=
  let off := fld ea 0 56
  let dev := s.loc.dev.toNat * 2 ^ 52
  match fld ea 56 8 with
  | 0x00 => if off < 2 ^ 15 then .ok (tcmBase s + off) else .error 4
  | 0x01 => if off < 0x180000 then .ok (scratchBase s (myCluster s) + off) else .error 4
  | 0x02 =>
    if off < 2 ^ 31 ∧ clusterPresent s.grade (off / 2 ^ 21) ∧ off % 2 ^ 21 < 0x180000 then
      .ok (scratchBase s (off / 2 ^ 21) + off % 2 ^ 21)
    else .error 4
  | 0x03 =>
    if off < 2 ^ 29 ∧ off % 2 ^ 26 < 0x3000000 then .ok (dev + 0x010000000000 + off) else .error 4
  | 0x04 =>
    if off < 2 ^ 32 ∧ stackPresent s.grade (off / 2 ^ 28) ∧ bankOffset off then
      .ok (dev + 0x040000000000 + off)
    else .error 4
  | b =>
    if 0xF0 ≤ b ∧ b ≤ 0xF6 then .ok (fld ea 44 12 * 2 ^ 52 + 2 ^ 51 + (b - 0xF0) * 2 ^ 44 + fld ea 0 44)
    else .error 4

/-- The access types of R229. -/
inductive AccType | read | write | atomic | engineRead | engineWrite | mst
  deriving DecidableEq, Repr

/-- Does an access write? -/
def AccType.writes : AccType → Bool
  | .read | .engineRead => false
  | _ => true

/-- Is the PTE invalid at a level (R228, R229, R238)? -/
def pteInvalid (e : Word) (lv : Nat) : Bool :=
  let leaf := decide (lv = 3) || (decide (lv = 2) && e.getLsbD 12)
  !e.getLsbD 0 || fld e 1 2 != 0 || fld e 13 2 == 3 || fld e 3 2 == 3
    || (e.getLsbD 12 && (lv != 2 || fld e 16 13 != 0))
    || (leaf && e.getLsbD 5 && fld e 13 2 != 2)
    || (leaf && fld e 13 2 == 2 &&
        (decide (popN 8 (fld e 44 8) < 2) || !(fld e 44 8).testBit (fld e 41 3) || e.getLsbD 40))

/-- Allows of R229. -/
def pteAllows (e : Word) : AccType → Bool
  | .read => e.getLsbD 9
  | .write => e.getLsbD 8
  | .atomic => e.getLsbD 7 && e.getLsbD 8 && e.getLsbD 9
  | .engineRead => e.getLsbD 6
  | .engineWrite => e.getLsbD 6
  | .mst => e.getLsbD 5

/-- The walk of R229 from a table, at level lv: the leaf and whether it is large. -/
def walk (s : State) (va : Nat) : Nat → Nat → Nat → Option (Word × Bool)
  | 0, _, _ => none
  | fuel + 1, lv, t =>
    let idx := if lv = 1 then nfld va 42 13 else if lv = 2 then nfld va 29 13 else nfld va 16 13
    let e := BitVec.ofNat 64 (readNat s (t + 8 * idx) 8)
    if pteInvalid e lv then none
    else if lv = 3 then some (e, false)
    else if lv = 2 ∧ e.getLsbD 12 then some (e, true)
    else walk s va fuel (lv + 1) (fld e 52 12 * 2 ^ 52 + fld e 16 36 * 2 ^ 16)

/-- The root table of an XROOT (R227). -/
def rootOf (xroot : Word) : Nat := fld xroot 52 12 * 2 ^ 52 + fld xroot 16 36 * 2 ^ 16

/-- The TLB entry for a page of a domain (R230). -/
def tlbFind (domain : BitVec 8) (va : Nat) : List TlbEntry → Option (Word × Bool)
  | [] => none
  | t :: rest =>
    if t.domain = domain ∧ t.vpage = (if t.large then va / 2 ^ 29 else va / 2 ^ 16) then some (t.pte, t.large)
    else tlbFind domain va rest

/-- Fill both TLBs, dropping the oldest entry of a full one (R230; log 10). -/
def tlbFill (s : State) (domain : BitVec 8) (va : Nat) (e : Word) (large : Bool) : State :=
  let t : TlbEntry :=
    { domain := domain, vpage := if large then va / 2 ^ 29 else va / 2 ^ 16, large := large, pte := e }
  (s.modCore fun c => { c with tlb1 := (c.tlb1 ++ [t]).drop (c.tlb1.length - 63) }).modCluster fun c =>
    { c with tlb2 := (c.tlb2 ++ [t]).drop (c.tlb2.length - 2047) }

/-- Find the leaf for a page: the TLBs, then a walk that fills them (R230). -/
def findLeaf (s : State) (xroot : Word) (va : Nat) : State × Option (Word × Bool) :=
  let domain := BitVec.ofNat 8 (fld xroot 8 8)
  match tlbFind domain va s.core.tlb1, tlbFind domain va s.cluster.tlb2 with
  | some r, _ => (s, some r)
  | none, some r => (s, some r)
  | none, none =>
    match walk s va 3 1 (rootOf xroot) with
    | none => (s, none)
    | some (e, large) => (tlbFill s domain va e large, some (e, large))

/-- The replica that serves a read from this core's die (R238). -/
def replicaDie (s : State) (e : Word) : Nat :=
  if (fld e 44 8).testBit s.loc.die.toNat ∧ fld e 52 12 = s.loc.dev.toNat then s.loc.die.toNat
  else fld e 41 3

/-- Where a leaf puts an offset (R228, R238). -/
def leafPlace (s : State) (e : Word) (off : Nat) : Place :=
  let dev := fld e 52 12 * 2 ^ 52
  if fld e 13 2 = 2 then
    { pa := dev + 2 * replicaDie s e * 2 ^ 36 + (fld e 16 20 * 2 ^ 16 + off), layout := 2, lease := 0, pte := e }
  else if e.getLsbD 15 then
    { pa := dev + (fld e 16 24 * 2 ^ 16 + off), layout := BitVec.ofNat 2 (fld e 13 2)
      lease := BitVec.ofNat 16 (fld e 40 12), pte := e }
  else
    { pa := dev + (fld e 16 36 * 2 ^ 16 + off), layout := BitVec.ofNat 2 (fld e 13 2), lease := 0, pte := e }

/-- Checks 2 and 3 of R172: aperture, then translation and permission. The cause on failure. -/
def translate (s : State) (xroot : Word) (level : Level) (ea : Word) (acc : AccType) :
    State × Except Cause Place :=
  if fld ea 56 8 = 0x10 then
    if ea.getLsbD 55 then (s, .error 4)
    else if !xroot.getLsbD 0 then (s, .error 5)
    else
      let va := fld ea 0 55
      match findLeaf s xroot va with
      | (s', none) => (s', .error 5)
      | (s', some (e, large)) =>
        if levelCode level < fld e 3 2 ∨ !pteAllows e acc then (s', .error 6)
        else (s', .ok (leafPlace s' e (if large then va % 2 ^ 29 else va % 2 ^ 16)))
  else
    match resolve s ea with
    | .error c => (s, .error c)
    | .ok pa => (s, .ok { pa := pa, layout := 0, lease := 0, pte := 0 })

/-- The physical address of a place the core itself reads or writes at S level, where its page grants each of some
access types, translated with slot 0's XROOT (log 11). -/
def coreAddr (s : State) (ea : Word) (accs : List AccType) : Option Nat :=
  match (translate s (s.at 0).user.xroot .s ea (accs.headD .read)).2 with
  | .ok p =>
    if physExists s p.pa p.layout && (fld ea 56 8 != 0x10 || accs.all (pteAllows p.pte)) then some p.pa else none
  | .error _ => none

/-! The error log (R390). -/

/-- Append a record; a full ring drops its oldest and marks the head count. -/
def logError (s : State) (r : ErrRecord) : State :=
  { s with hw := { s.hw with
    log := (s.hw.log ++ [r]).drop (s.hw.log.length - 4095)
    logHead := BitVec.ofNat 64
      ((s.hw.logHead.toNat + 1) % 2 ^ 63 + (if s.hw.log.length ≥ 4096 ∨ s.hw.logHead.getLsbD 63 then 2 ^ 63 else 0)) } }

/-- The UNIT field of this core (R390). -/
def coreUnit (s : State) : BitVec 16 :=
  BitVec.ofNat 16 (8 * s.loc.cluster.toNat + s.loc.core.toNat)

/-- The UNIT of the store at a physical address under the LAYOUT of its page: the core of a TCM, the cluster of a
scratchpad, the channel of a stack, else the die (R226, R390). -/
def storeUnit (pa : Nat) (lay : BitVec 2) : BitVec 16 :=
  let a := pa % 2 ^ 52
  if a < 2 ^ 40 then
    BitVec.ofNat 16 (2 * 2 ^ 13 + (a / 2 ^ 36 * 32 + (if lay = 1 then nfld a 16 5 else nfld a 9 5)) % 64)
  else if a < 2 ^ 41 then BitVec.ofNat 16 (4 * 2 ^ 13)
  else if a < 3 * 2 ^ 40 then BitVec.ofNat 16 (2 ^ 13 + nfld a 21 19 % 128)
  else if a < 2 ^ 42 then BitVec.ofNat 16 (nfld a 15 25 % 1024)
  else BitVec.ofNat 16 (2 * 2 ^ 13 + (nfld a 28 4 * 32 + nfld a 23 5) % 64)

/-- The die that owns the store at a physical address (R7, R225). -/
def storeDie (pa : Nat) : Nat :=
  let a := pa % 2 ^ 52
  if a < 2 ^ 40 then a / 2 ^ 37
  else if a < 2 ^ 41 then nfld a 26 14
  else if a < 3 * 2 ^ 40 then nfld a 21 19 / 128
  else if a < 2 ^ 42 then nfld a 15 25 / 1024
  else nfld a 28 4 / 2

/-- An uncorrectable error is found at a physical address: a record in the log of its die; only this die's is held
(R390). -/
def logEcc (s : State) (pa : Nat) (lay : BitVec 2 := 0) : State :=
  if pa / 2 ^ 52 = s.loc.dev.toNat ∧ storeDie pa = s.loc.die.toNat then
    logError s { time := s.clock.ref, addr := BitVec.ofNat 64 pa, epc := 0, unit := storeUnit pa lay, cls := 2, code := 17 }
  else s

/-! Frames and the save area (R368, R369). -/

/-- XCYC of a context (R342): CYC holds at LEN when the phase has ended. -/
def xcycOf (s : State) (c : Ctx) : Word :=
  let cyc := if c.xch.inph then min c.xch.len (s.clock.cycle - c.xch.startCycle) else c.xch.held
  BitVec.ofNat 64 (c.xch.inph.toNat * 2 ^ 63 + c.xch.len * 2 ^ 32 + cyc)

/-- UPCALL of slot 0 (R371); EVT is set while an event is held. -/
def upcallOf (s : State) (c : Ctx) : Word :=
  BitVec.ofNat 64 (c.upcall.free.toNat * 2 ^ 43 + c.upcall.resume.toNat * 2 ^ 33
    + c.upcall.pend.toNat * 2 ^ 23 + (if s.core.events = [] then 0 else 2 ^ 22)
    + c.upcall.inHandler.toNat * 2 ^ 21 + c.upcall.vec.toNat)

/-- The pending window as a frame holds it (R369). -/
def windowWord : Option (BitVec 21 × BitVec 21) → Nat
  | none => 0
  | some (lo, hi) => 2 ^ 63 + hi.toNat * 2 ^ 32 + lo.toNat

/-- Error marks of a class as bits (R369). -/
def markBits (cls : BitVec 3) : List ErrMark → BitVec 32
  | [] => 0
  | m :: rest => (if m.cls = cls then BitVec.twoPow 32 m.num.toNat else 0) ||| markBits cls rest

/-- A stream's 64 bytes of a frame (R369). -/
def streamBytes (st : Stream) : List Byte :=
  bytesLE 32 st.pat.toNat
    ++ bytesLE 8 (st.reg.toNat + st.cls.toNat * 2 ^ 5 + 2 ^ 6 + st.ending.toNat * 2 ^ 7
        + st.fault.isSome.toNat * 2 ^ 8)
    ++ bytesLE 8 st.popped ++ bytesLE 16 0

/-- State codes (R73). -/
def slotCode : SlotState → Nat
  | .free => 0
  | .ready => 1
  | .waiting => 2
  | .trapped => 3
  | .unsettled => 4
  | .held => 5

/-- The 2,048 bytes of a frame (R369). -/
def frameBytes (s : State) (i : Fin 11) : List Byte :=
  let c := s.at i
  let u := c.user
  let t := c.trap
  let trapped := c.slotState == .trapped || c.slotState == .unsettled
  let (e0, e1, e2) := if trapped then (t.epc0, t.epc1, t.epc2) else c.epcNow
  (bytesLE 8 0 ++ (c.regs.g.toList.drop 1).flatMap fun x => bytesLE 8 x.toNat)
  ++ (c.regs.f.toList.flatMap fun x => bytesLE 8 x.toNat)
  ++ (c.regs.v.toList.flatMap fun x => bytesLE 32 x.toNat)
  ++ (bytesLE 4 (2 ^ 32 - 1) ++ (c.regs.k.toList.drop 1).flatMap fun x => bytesLE 4 x.toNat)
  ++ ([t.epc0, t.epc1, t.epc2, t.cause, t.tval, t.rptst, u.fmode, u.fflags].flatMap fun x => bytesLE 8 x.toNat)
  ++ bytesLE 8 u.lfsr.toNat
  ++ ([u.wid, u.widx, u.restb].flatMap fun x => bytesLE 8 x.toNat)
  ++ bytesLE 8 u.rankLo.toNat ++ bytesLE 8 u.rankHi.toNat
  ++ ([u.scope, u.xroot, xcycOf s c, if i = 0 then upcallOf s c else 0].flatMap fun x => bytesLE 8 x.toNat)
  ++ bytesLE 8 (windowWord c.act.window)
  ++ bytesLE 8 (c.pend.g.toNat + c.pend.f.toNat * 2 ^ 32)
  ++ bytesLE 8 (c.pend.v.toNat + c.pend.k.toNat * 2 ^ 32)
  ++ bytesLE 8 ((markBits 1 c.pend.marks).toNat + (markBits 2 c.pend.marks).toNat * 2 ^ 32)
  ++ bytesLE 8 (slotCode c.slotState + levelCode c.level * 2 ^ 3 + c.longMode.toNat * 2 ^ 5
      + c.act.wait.isSome.toNat * 2 ^ 6 + c.skip.toNat * 2 ^ 7)
  ++ ([e0, e1, e2, if trapped then t.rptst else c.rptstNow].flatMap fun x => bytesLE 8 x.toNat) ++ bytesLE 8 0
  ++ ((c.streams.flatMap streamBytes) ++ List.replicate (64 * (4 - c.streams.length)) 0)
  ++ List.replicate 128 0

/-- The physical address of an offset of the save area, to write there or to read: none where SAVEB is zero, names
neither aperture 0x03 nor 0x10, or the place faults (R368). -/
def saveAddr (s : State) (off : Nat) (acc : AccType := .write) : Option Nat :=
  if s.core.sys.saveb = 0 ∨ (fld s.core.sys.saveb 56 8 ≠ 0x03 ∧ fld s.core.sys.saveb 56 8 ≠ 0x10) then none
  else coreAddr s (s.core.sys.saveb + BitVec.ofNat 64 off) [acc]

/-- Read bytes at an offset of the save area; none where that faults (R368). -/
def saveRead (s : State) (off n : Nat) : Option (List Byte) :=
  (saveAddr s off .read).bind fun pa => if eccBad s pa n then none else some (Memory.bytes s.mem pa n)

/-- Write bytes at an offset of the save area (R368). -/
def saveWrite (s : State) (off : Nat) (bs : List Byte) : Option State :=
  match saveAddr s off with
  | none => none
  | some pa => some (writeBytes s pa bs)

/-- Write the frame of a slot (R369): from then on results go into it (R370). -/
def writeFrame (s : State) (i : Fin 11) : Option State :=
  match saveWrite s (0x800 * i.val) (frameBytes s i) with
  | none => none
  | some s' => some (s'.setAt i { s'.at i with framed := true })

/-- An obligation as a 16-byte owed entry, with byte 9 as given (R67, R368). -/
def oblBytes (o : Obl) (byte9 : Nat) : List Byte :=
  bytesLE 8 o.h.toNat ++ bytesLE 1 (oblCode o.kind) ++ bytesLE 1 byte9 ++ bytesLE 2 o.mult ++ bytesLE 4 0

/-- A held event as it stands in the save area: the CAUSE word, then the TVAL word (R368). -/
def Event.bytes (e : Event) : List Byte := bytesLE 8 e.cause.toNat ++ bytesLE 8 e.tval.toNat

/-- Write the header, the held events and the Reeve image, and zeros between them (R368). -/
def writeHeader (s : State) (preempted : Bool) : Option State := do
  let sys := s.core.sys
  let s1 ← saveWrite s 0x5800
    (bytesLE 8 preempted.toNat ++ bytesLE 8 sys.xbound.toNat ++ bytesLE 8 sys.qwgt.toNat
      ++ bytesLE 8 sys.owedb.toNat ++ bytesLE 8 s.core.spillHead.toNat ++ bytesLE 8 s.core.spillTail.toNat
      ++ bytesLE 8 s.core.reeve.length ++ bytesLE 8 0
      ++ ([sys.kepc0, sys.kepc1, sys.kepc2, sys.kcause, sys.ktval, sys.krptst].flatMap fun x => bytesLE 8 x.toNat)
      ++ (sys.bpa.toList.flatMap fun x => bytesLE 8 x.toNat) ++ List.replicate 112 0)
  let s2 ← saveWrite s1 0x5900
    (((s.core.events.flatMap Event.bytes) ++ List.replicate 1792 0).take 1792)
  saveWrite s2 0x6000
    (((s.core.reeve.flatMap fun (o : Obl) => oblBytes o o.owner.toNat) ++ List.replicate 4096 0).take 4096)

/-- Write the frames of every slot that is not FREE and has none unresumed (R376). -/
def writeFrames (s : State) : List (Fin 11) → Option State
  | [] => some s
  | i :: rest =>
    if (s.at i).slotState = .free ∨ (s.at i).framed then writeFrames s rest
    else match writeFrame s i with
      | none => none
      | some s' => writeFrames s' rest

/-- Release the lock bits a context's LLK holds (R255). -/
def endLlk (s : State) (i : Fin 11) : State :=
  match (s.at i).llk with
  | none => s
  | some _ =>
    (s.setAt i { s.at i with llk := none }).modCluster fun c =>
      { c with locks := c.locks.filter fun p => p.2 != selfId s i }

/-- The record of a machine check of this core (R390). -/
def logCheck (s : State) (code : Cause) (addr : Word) : State :=
  logError s { time := s.clock.ref, addr := addr, epc := (s.at 0).pc, unit := coreUnit s, cls := 3, code := code }

/-- The core stops, after a machine check where `check` says so. -/
def stopIssue (s : State) (check : Bool) : State :=
  s.modCore fun c => { c with stopped := true, machineCheck := check, undo := none }

/-- Stop issue in every slot with every frame written (R391). Where the save area cannot be written that is a machine
check, and no further frame is written (R368). -/
def stopCore (s : State) (check : Bool) : State :=
  let s0 := slots.foldl endLlk s
  match (writeFrames s0 slots).bind fun s' => writeHeader s' false with
  | some s' => stopIssue s' check
  | none => stopIssue (logCheck s0 0 s.core.sys.saveb) true

/-- A machine check (R367, R390): the record is logged and the core stops, with its frames where
`frames` says they may be written. -/
def machineCheck (s : State) (code : Cause) (addr : Word) (frames : Bool) : State :=
  let s1 := logCheck s code addr
  if frames then stopCore s1 true else stopIssue s1 true

/-- Keep a field of the save area as the core has it; with SAVEB zero there is no area yet (R368; log 18). -/
def saveSync (s : State) (off : Nat) (bs : List Byte) : State :=
  if s.core.sys.saveb = 0 then s
  else match saveWrite s off bs with
    | some t => t
    | none => machineCheck s 0 s.core.sys.saveb false

/-- Write a slot's frame, or stop with a machine check that writes no further frame (R368). -/
def frameOrCheck (s : State) (i : Fin 11) (code : Cause) : State :=
  match writeFrame s i with
  | some s' => s'
  | none => machineCheck s code s.core.sys.saveb false

/-! Taking an exception (R365 to R374). -/

/-- A trap: cause, TVAL, DETAIL, and the register in error (R366). -/
structure Trap where
  code : Cause
  tval : Word
  detail : Nat := 0
  rcl : BitVec 3 := 0
  rnum : BitVec 5 := 0
  /-- ITER and SLOT of RPTST at an ILL of capture (R141) -/
  rpt : Word := 0
  deriving DecidableEq, Repr

/-- CAUSE of a trap, with the LVL and SLOT fields of its record (R366). -/
def causeWord (t : Trap) (lvl slot : Nat) : Word :=
  BitVec.ofNat 64 (slot * 2 ^ 44 + lvl * 2 ^ 40 + t.rcl.toNat * 2 ^ 37 + t.rnum.toNat * 2 ^ 32
    + (t.detail % 2 ^ 24) * 2 ^ 8 + t.code.toNat)

/-- What the issue of the instruction had changed is put back: a trap leaves no effect (R148). -/
def undoIssue (s : State) : State :=
  match s.core.undo with
  | none => s
  | some u =>
    let s1 := s.mod fun c => { c with regs := u.regs, streams := u.streams }
    { s1 with agenda := u.agenda, core := { s1.core with undo := none }
              cluster := { s1.cluster with ranges := u.ranges } }

/-- A phase of this module fails: the first failure stands, and the other members get a notice (R344). -/
def failRun (s : State) (gid : BitVec 12) (detail : BitVec 28) : State :=
  if s.exchange.runs.any fun r => r.gid == gid && r.failure == 0 then
    out { s with exchange := { s.exchange with runs := s.exchange.runs.map fun r =>
      if r.gid = gid ∧ r.failure = 0 then { r with failure := detail } else r } } (.event (.failureNotice gid detail))
  else s

/-- Is a context in a phase whose CYC has not reached L (R343)? -/
def Xch.running (x : Xch) : Bool := x.inph && !x.ended

/-- A trap inside a timed phase fails the phase with TRAPPED (R343, R344). -/
def failPhase (s : State) (i : Fin 11) : State :=
  if (s.at i).xch.running then
    let gid := (s.at i).xch.gid
    failRun s gid 7
  else s

/-- Enter the system level in slot 0 (R374): K registers, record, level S, SVEC. -/
def enterSystem (s : State) (t : Trap) : State :=
  let c := s.at 0
  let (e0, e1, e2) := c.epcNow
  let s1 := s.modCore fun k =>
    { k with sys := { k.sys with kepc0 := c.trap.epc0, kepc1 := c.trap.epc1, kepc2 := c.trap.epc2
                                 kcause := c.trap.cause, ktval := c.trap.tval, krptst := c.trap.rptst } }
  s1.setAt 0
    { c with
      trap := { epc0 := e0, epc1 := e1, epc2 := e2, cause := causeWord t (levelCode c.level) 0
                tval := t.tval, rptst := c.rptstNow ||| t.rpt }
      level := .s, frame := none, idle := false, slotState := .ready
      queue := Queue.at s.core.sys.svec }

/-- Stop a slot for its attached debugger (R382). -/
def debugStop (s : State) (i : Fin 11) (t : Trap) : State :=
  let c := s.at i
  let (e0, e1, e2) := c.epcNow
  let s1 := s.setAt i
    { c with trap := { epc0 := e0, epc1 := e1, epc2 := e2, cause := causeWord t (levelCode c.level) 0
                       tval := t.tval, rptst := c.rptstNow ||| t.rpt }
             slotState := .trapped, debugged := true }
  out (frameOrCheck s1 i t.code)
    (.debugStop (BitVec.ofNat 12 (fld s.core.sys.dbghost 0 12)) (selfId s i)
      (s.core.sys.saveb + BitVec.ofNat 64 (0x800 * i.val)))

/-- A helper's trap (R367, R372): the helper is TRAPPED (or UNSETTLED), its frame is written, and its
PEND bit is set in the control context. -/
def helperTrap (s : State) (i : Fin 11) (t : Trap) (st : SlotState) : State :=
  let c := s.at i
  let (e0, e1, e2) := c.epcNow
  let s1 := s.setAt i
    { c with trap := { epc0 := e0, epc1 := e1, epc2 := e2, cause := causeWord t 0 0
                       tval := t.tval, rptst := c.rptstNow ||| t.rpt }
             slotState := st }
  let s2 := frameOrCheck s1 i t.code
  let c0 := s2.at 0
  s2.setAt 0 { c0 with upcall := { c0.upcall with
    pend := c0.upcall.pend ||| BitVec.twoPow 10 (i.val - 1) } }

/-- Take a trap in a slot, in the state in which its record is made (R367): helpers go to the control
context, C level enters the system level, S level is a machine check, and a BRK under a debugger stops
the slot (R382). -/
def trapIn (s : State) (i : Fin 11) (t : Trap) (st : SlotState := .trapped) : State :=
  let s1 := failPhase (endLlk s i) i
  if t.code = 22 ∧ s.core.sys.dbghost.getLsbD 12 then debugStop s1 i t
  else if i ≠ 0 then helperTrap s1 i t st
  else match (s.at 0).level with
    | .s => machineCheck s1 t.code t.tval true
    | _ => enterSystem s1 t

/-- Trap(cause, …) of R148: the issuing instruction traps precisely and has no effect. -/
def takeTrap (s : State) (t : Trap) : State := trapIn (undoIssue s) s.core.cur t

/-- A trap with a cause and a TVAL. -/
def trap (s : State) (code : Cause) (tval : Word) : State := takeTrap s { code := code, tval := tval }

/-- The word at a TCM offset (R103). -/
def tcmWord (s : State) (off : Nat) : W32 := BitVec.ofNat 32 (readNat s (tcmBase s + off) 4)

/-- The instruction word that issues, as PRIV records it (R365). -/
def curWord (s : State) : W32 :=
  match s.ctx.frame with
  | none => tcmWord s (fld s.ctx.queue.q0 0 15)
  | some f => f.words.getD f.slot.toNat 0

/-- PRIV, with the instruction word in TVAL (R365). -/
def trapPriv (s : State) : State := trap s 2 ((curWord s).zeroExtend 64)

/-- The instruction stalls: it has no effect and issues again later (R129). -/
def stall (s : State) : State := (undoIssue s).modCore fun c => { c with stalled := true }

/-! Reloading a frame (R369, R377). -/

/-- The pending window of a frame word. -/
def windowOf (w : Word) : Option (BitVec 21 × BitVec 21) :=
  if w.getLsbD 63 then some (BitVec.ofNat 21 (fld w 0 21), BitVec.ofNat 21 (fld w 32 21)) else none

/-- A stream of a frame, matched with the one the slot held; its buffer is discarded (R369). -/
def streamOf (bs : List Byte) (level : Level) : Option Stream :=
  let w := natLE ((bs.drop 32).take 8)
  if w.testBit 6 then
    some { pat := BitVec.ofNat 256 (natLE (bs.take 32)), cls := BitVec.ofNat 1 (w / 32), reg := BitVec.ofNat 5 w
           popped := natLE ((bs.drop 40).take 8), buf := [], fault := none, ending := w.testBit 7
           level := level, born := 0, seq := 0 }
  else none

/-- Numbers of a width, in order, from bytes. -/
def numsLE (w : Nat) : Nat → List Byte → List Nat
  | 0, _ => []
  | n + 1, bs => natLE (bs.take w) :: numsLE w n (bs.drop w)

/-- A list as a vector, with a default beyond its end. -/
def toVec {α : Type} (n : Nat) (dflt : α) (l : List α) : Vector α n :=
  Vector.ofFn fun i => l.getD i.val dflt

/-- Keep the bits of a mask: reserved fields of registers read as zero (R5). -/
def keepBits (w : Word) (m : Nat) : Word := w &&& BitVec.ofNat 64 m

/-- The fields of CAUSE (R366). -/
def causeBits : Nat := 0xF3FFFFFFFFFF

/-- The fields of RPTST (R141). -/
def rptstBits : Nat := 0xFE007FFFFFFFFFFF

/-- The fields of FMODE (R182). -/
def fmodeBits : Nat := 0x7F1F

/-- The fields of WIDX (R32). -/
def widxBits : Nat := 0x3FFFFFFFFFF

/-- The fields of RESTB: [5:0] are zero (R155). -/
def restbBits : Nat := 0xFFFFFFFFFFFFFFC0

/-- The fields of SCOPE (R320). -/
def scopeBits : Nat := 0x1FFFFFFFFFFFFFF

/-- The fields of XROOT (R227). -/
def xrootBits : Nat := 0xFFFFFFFFFFFFFF01

/-- The fields of OWEDB: [11:0] are zero (R155). -/
def owedbBits : Nat := 0xFFFFFFFFFFFFF000

/-- The fields of XBOUND (R105). -/
def xboundBits : Nat := 0xFFC0FFC0

/-- The fields of BPA0 to BPA3 (R380). -/
def bpaBits : Nat := 0xFFF0000000007FFC

/-- The error marks that a frame gives (R369): those the slot has that are still set, and those that only the frame
sets, whose cause and address are free values (log 78). -/
def frameMarks (marks : List ErrMark) (w : Word) : List ErrMark :=
  (marks.filter fun m =>
    if m.cls = 2 then w.getLsbD (32 + m.num.toNat) else m.num == 0 || w.getLsbD m.num.toNat)
  ++ (List.range 64).filterMap fun j =>
    let cls : BitVec 3 := if j < 32 then 1 else 2
    if w.getLsbD j && j != 0 && !(marks.any fun m => m.cls == cls && m.num.toNat == j % 32) then
      some { cls := cls, num := BitVec.ofNat 5 j, cause := if (Config.frameMark j w).1 then 17 else 15
             ea := (Config.frameMark j w).2 }
    else none

/-- The context a frame describes (R369): every field but the slot state and the streams' buffers. The core keeps the
start tick of a phase, from which CYC counts on while INPH is set (log 78). -/
def Ctx.ofFrame (c : Ctx) (bs : List Byte) (i : Fin 11) : Ctx :=
  let w (off : Nat) : Word := BitVec.ofNat 64 (natLE ((bs.drop off).take 8))
  let st := (w 0x650).toNat
  let level := levelOf (nfld st 3 2)
  { c with
    regs :=
      { g := toVec 32 0 ((numsLE 8 32 bs).map (BitVec.ofNat 64))
        f := toVec 16 0 ((numsLE 8 16 (bs.drop 0x100)).map (BitVec.ofNat 64))
        v := toVec 32 0 ((numsLE 32 32 (bs.drop 0x180)).map (BitVec.ofNat 256))
        k := toVec 8 0 ((numsLE 4 8 (bs.drop 0x580)).map (BitVec.ofNat 32))
        q := c.regs.q }
    trap := { epc0 := w 0x5A0, epc1 := w 0x5A8, epc2 := w 0x5B0, cause := keepBits (w 0x5B8) causeBits
              tval := w 0x5C0, rptst := keepBits (w 0x5C8) rptstBits }
    user :=
      { fmode := keepBits (w 0x5D0) fmodeBits, fflags := keepBits (w 0x5D8) 0x1F, lfsr := (w 0x5E0).truncate 32
        wid := w 0x5E8, widx := keepBits (w 0x5F0) widxBits, restb := keepBits (w 0x5F8) restbBits
        rankLo := (w 0x600).truncate 21, rankHi := (w 0x608).truncate 21
        scope := keepBits (w 0x610) scopeBits, xroot := keepBits (w 0x618) xrootBits }
    upcall :=
      if i = 0 then
        { free := BitVec.ofNat 10 (fld (w 0x628) 43 10), resume := BitVec.ofNat 10 (fld (w 0x628) 33 10)
          pend := c.upcall.pend, inHandler := (w 0x628).getLsbD 21, vec := BitVec.ofNat 15 (fld (w 0x628) 0 15) }
      else c.upcall
    xch := { c.xch with inph := (w 0x620).getLsbD 63, len := fld (w 0x620) 32 21, held := fld (w 0x620) 0 21
                        ended := (w 0x620).getLsbD 63 && fld (w 0x620) 32 21 == fld (w 0x620) 0 21 }
    act := { c.act with window := windowOf (w 0x630) }
    pend :=
      { g := (w 0x638).truncate 32, f := BitVec.ofNat 16 (fld (w 0x638) 32 16), v := (w 0x640).truncate 32
        k := BitVec.ofNat 8 (fld (w 0x640) 32 8), marks := frameMarks c.pend.marks (w 0x648), storeErr := c.pend.storeErr }
    level := level, longMode := st.testBit 5, skip := st.testBit 7
    streams := [0, 1, 2, 3].filterMap fun j => streamOf ((bs.drop (0x680 + 64 * j)).take 64) level }

/-- The frame bytes of a slot, where the save area can be read. -/
def readFrame (s : State) (i : Fin 11) : Option (List Byte) :=
  saveRead s (0x800 * i.val) 2048

/-- The streams of a reloaded context fill again (R369). -/
def refillStreams (i : Fin 11) : List Stream → State → State
  | [], s => s
  | st :: rest, s => refillStreams i rest (send s (.streamRefill (BitVec.ofNat 4 i.val) st.cls st.reg))

/-- The first check of R104 that an instruction address fails. -/
def fetchFault (s : State) (a : Word) : Option Cause :=
  if fld a 0 2 ≠ 0 then some 3
  else if fld a 15 49 ≠ 0 then some 4
  else if fld s.core.sys.xbound 0 16 ≤ a.toNat then some 16
  else none

/-- The words at n addresses from base, or the cause and address of the first fetch check that fails. -/
def captureWords (s : State) (base : Word) : Nat → Except (Cause × Word) (List W32)
  | 0 => .ok []
  | n + 1 =>
    match fetchFault s base with
    | some c => .error (c, base)
    | none =>
      match captureWords s (base + 4) n with
      | .error e => .error e
      | .ok ws => .ok (tcmWord s (fld base 0 15) :: ws)

/-- A frame that a slot resumes is captured again, from the words in TCM now (R140, R165). -/
def recaptureAt (s : State) (i : Fin 11) : State :=
  match (s.at i).frame with
  | none => s
  | some f =>
    s.setAt i { s.at i with frame := some (match captureWords s f.base (f.nm1.toNat + 1) with
      | .ok ws => { f with words := ws, again := true, bad := none }
      | .error e => { f with words := [], again := true, bad := some e }) }

/-- Reload a frame and resume: from EPC0 to EPC2 and RPTST after a trap, READY (R373), or from the resume
fields, WAITING where STATE has a wait queued (R377). A return from a breakpoint sets SKIP (R381). -/
def reloadFrame (s : State) (i : Fin 11) (fromTrap : Bool) : State :=
  match readFrame s i with
  | none => machineCheck s 0 s.core.sys.saveb false
  | some bs =>
    let w (off : Nat) : Word := BitVec.ofNat 64 (natLE ((bs.drop off).take 8))
    let c := (s.at i).ofFrame bs i
    let c1 := if fromTrap then c.resumeAt c.trap.epc0 c.trap.epc1 c.trap.epc2 c.trap.rptst
      else c.resumeAt (w 0x658) (w 0x660) (w 0x668) (w 0x670)
    refillStreams i c.streams <| recaptureAt (i := i)
      (s.setAt i { c1 with framed := false, debugged := false
                           slotState := if !fromTrap && (w 0x650).getLsbD 6 then .waiting else .ready
                           skip := c.skip || (fromTrap && (c.trap.cause.truncate 8 : BitVec 8) == 22
                             && fld c.trap.cause 8 24 != 0) })

/-- READY or WAITING, by a slot's wait. -/
def resumeState (c : Ctx) : SlotState := if c.act.wait.isSome then .waiting else .ready

/-! Freeing a slot (R82). -/

/-- Do the other cores of the cluster have no helper slot in use (R80, R89)? -/
def othersFree (s : State) : Bool :=
  [0, 1, 2, 3, 4, 5, 6, 7].all fun k => k == s.loc.core.toNat || fld s.cluster.others (8 * k + 4) 4 == 0

/-- What an item reserved is free again, and its hold on the cluster ends (R80, R82). -/
def releaseItem (s : State) (key : ItemKey) : State :=
  let s1 := s.modCore fun c => { c with live := c.live.filter fun p => p.1 != key }
  let s2 := s1.modCluster fun c => { c with hold := if c.hold = some key then none else c.hold }
  slots.foldl (fun t j =>
    if (t.at j).act.reservedFor = some key then t.modAct j fun a => { a with reservedFor := none } else t) s2

/-- A helper of an item has started, or exited. The core where the item started counts them, and the last exit
releases what the item held (R80, R82). -/
def countHelper (s : State) (key : ItemKey) (starts : Bool) : State :=
  match assoc key s.core.live with
  | none => out s (.event (.helperCount key starts))
  | some n =>
    if starts then s.modCore fun c => { c with live := setAssoc key (n + 1) c.live }
    else if n ≤ 1 then releaseItem s key
    else s.modCore fun c => { c with live := setAssoc key (n - 1) c.live }

/-- A context id of this core that names no slot: what a freed slot has in flight goes on under it, and its
results are dropped (log 24). -/
def noSlot (sel : BitVec 36) : BitVec 36 := 15#4 ++ (sel.truncate 32 : BitVec 32)

/-- A message of a freed slot. -/
def Msg.disown (sel : BitVec 36) (m : Msg) : Msg :=
  let o (a : Access) : Access := if a.who = sel then { a with who := noSlot sel, dst := .none } else a
  match m with
  | .accessAtHome a => .accessAtHome (o a)
  | .lockRetry a n => .lockRetry (o a) n
  | .mstStamp a k => .mstStamp (o a) k
  | .mstApply a k n d => .mstApply (o a) k n d
  | .resultArrival r => .resultArrival (if r.who = sel then { r with who := noSlot sel } else r)
  | .storeAcknowledgement w c ea far => .storeAcknowledgement (if w = sel then noSlot sel else w) c ea far
  | .wake r m acq w => .wake r m acq (if w = sel then noSlot sel else w)
  | m => m

/-- A message of a freed slot in the spill ring. -/
def Spilled.disown (sel : BitVec 36) : Spilled → Spilled
  | .msg m => .msg (Msg.disown sel m)
  | .event e => .event e

/-- What a freed slot has in flight no longer belongs to a slot. -/
def disown (s : State) (i : Fin 11) : State :=
  let sel := selfId s i
  let w (x : BitVec 36) : BitVec 36 := if x = sel then noSlot sel else x
  { s with
    agenda := s.agenda.map (Msg.disown sel)
    core := { s.core with spill := s.core.spill.map (Spilled.disown sel), lvu := s.core.lvu.map fun e => if e.slot.toNat = i.val then { e with slot := 15 } else e }
    cluster := { s.cluster with
      jobs := s.cluster.jobs.map fun j => { j with who := w j.who }
      remote := s.cluster.remote.map fun r => (r.1, w r.2.1, r.2.2) }
    banks := { s.banks with jobs := s.banks.jobs.map fun j => { j with who := w j.who } } }

/-- The slot becomes FREE and keeps nothing: registers, streams, long mode, error marks; the locks of its streams
are released. Its item's reservations stay until the last of the item's helpers exits: a packed helper has not
(R80, R82). -/
def freeSlot (s : State) (i : Fin 11) (exits : Bool := true) : State :=
  let c := s.at i
  let s1 := (disown s i).modCluster fun cl =>
    { cl with ranges := cl.ranges.filter fun r =>
        !(c.streams.any fun st => r.owner == 2 ^ 20 + 64 * i.val + 32 * st.cls.toNat + st.reg.toNat) }
  let fresh := Ctx.reset .h .free
  let s2 := s1.setAt i { fresh with act := { fresh.act with reservedFor := c.act.reservedFor, seq := c.act.seq } }
  match c.act.item with
  | some key => if exits then countHelper s2 key false else s2
  | none => s2

/-! The Reeve (R66 to R69). -/

/-- Rank of a handle (R52). -/
def rankOf (h : Word) : Nat := fld h 44 20

/-- The lowest rank a list of entries holds for a slot. -/
def lowRank (i : Fin 11) : List Obl → Option Nat
  | [] => none
  | o :: rest =>
    match lowRank i rest with
    | none => if o.owner.toNat = i.val then some (rankOf o.h) else none
    | some r => if o.owner.toNat = i.val then some (min r (rankOf o.h)) else some r

/-- MINHELD of a slot: the lowest rank it holds, resident or spilled, which R68 keeps resident but for the moment
before a refill (R52). -/
def minHeld (s : State) (i : Fin 11) : Nat :=
  (lowRank i (s.core.reeve ++ s.core.spilled)).getD 0xFFFFFFFF

/-- Does an entry match an obligation? -/
def Obl.is (o : Obl) (i : Fin 11) (h : Word) (k : OblKind) : Bool :=
  o.owner.toNat == i.val && o.h == h && o.kind == k

/-- Does the slot hold an obligation of a kind on an object, resident or spilled? -/
def holds (s : State) (i : Fin 11) (h : Word) (k : OblKind) : Bool :=
  (s.core.reeve ++ s.core.spilled).any fun o => o.is i h k

/-- Every obligation of a slot. -/
def oblsOf (s : State) (i : Fin 11) : List Obl :=
  (s.core.reeve ++ s.core.spilled).filter fun (o : Obl) => o.owner.toNat == i.val

/-- Free places of a slot's owed area (R53, R67). -/
def owedFree (s : State) (i : Fin 11) : Nat :=
  256 - (s.core.spilled.filter fun (o : Obl) => o.owner.toNat == i.val).length - (s.at i).act.reserved

/-- The physical address of entry j of a slot's owed area, reached as an engine in a page that is readable and writable;
none where it cannot be reached (R67). -/
def owedAddr (s : State) (i : Fin 11) (j : Nat) : Option Nat :=
  if s.core.sys.owedb = 0 then none
  else coreAddr s (s.core.sys.owedb + BitVec.ofNat 64 (4096 * i.val + 16 * j)) [.engineWrite, .read, .write]

/-- An entry as its bytes in an owed area give it (R67). -/
def Obl.read (o : Obl) (bs : List Byte) : Obl :=
  { o with h := BitVec.ofNat 64 (natLE (bs.take 8)), kind := oblOfCode (natLE ((bs.drop 8).take 1))
           mult := natLE ((bs.drop 10).take 2) }

/-- The entries of a slot's owed area as the memory holds them, from place j on; none where one cannot be reached or
has an uncorrectable error (R67). -/
def owedRead (s : State) (i : Fin 11) : Nat → List Obl → Option (List Obl)
  | _, [] => some []
  | j, o :: rest =>
    if o.owner.toNat = i.val then
      match owedAddr s i j with
      | none => none
      | some pa =>
        if eccBad s pa 16 then none
        else (owedRead s i (j + 1) rest).map (o.read (Memory.bytes s.mem pa 16) :: ·)
    else (owedRead s i j rest).map (o :: ·)

/-- The core reads a slot's owed area (R67). -/
def owedLoad (s : State) (i : Fin 11) : Option State :=
  (owedRead s i 0 s.core.spilled).map fun os => s.modCore fun c => { c with spilled := os }

/-- Write entries of a slot's owed area from place j on, and zeros after them. -/
def owedPut (i : Fin 11) : Nat → List Obl → State → Option State
  | j, [], s =>
    if 256 ≤ j then some s else (owedAddr s i j).map fun pa => writeBytes s pa (List.replicate 16 0)
  | j, o :: rest, s =>
    match owedAddr s i j with
    | none => none
    | some pa => owedPut i (j + 1) rest (writeBytes s pa (oblBytes o 0))

/-- Write the image of a slot's owed area (R67); none where it cannot be reached. -/
def owedWrite (s : State) (i : Fin 11) : Option State :=
  owedPut i 0 (s.core.spilled.filter fun (o : Obl) => o.owner.toNat == i.val) s

/-- A slot's owed area is read and written again with its entries changed (R67, R68); none where it cannot be reached. -/
def owedUpdate (s : State) (i : Fin 11) (f : List Obl → List Obl) : Option State :=
  (owedLoad s i).bind fun t => owedWrite (t.modCore fun c => { c with spilled := f c.spilled }) i

/-- Add one unit to the first matching entry below its limit, or none. -/
def bump (i : Fin 11) (h : Word) (k : OblKind) : List Obl → Option (List Obl)
  | [] => none
  | o :: rest =>
    if o.is i h k && decide (o.mult < 65535) then some ({ o with mult := o.mult + 1 } :: rest)
    else (bump i h k rest).map (o :: ·)

/-- Take one unit from the first matching entry. -/
def unbump (i : Fin 11) (h : Word) (k : OblKind) : List Obl → Option (List Obl)
  | [] => none
  | o :: rest =>
    if o.is i h k then some (if o.mult ≤ 1 then rest else { o with mult := o.mult - 1 } :: rest)
    else (unbump i h k rest).map (o :: ·)

/-- Is the entry the one kept back for its context: lowest rank, earliest installed (R68)? -/
def keptBack (all : List Obl) (o : Obl) : Bool :=
  all.all fun p => p.owner != o.owner || decide (rankOf o.h < rankOf p.h)
    || (rankOf o.h == rankOf p.h && decide (o.order ≤ p.order))

/-- Is p spilled before o (R68): higher rank, then higher context, then later? -/
def spillsBefore (p o : Obl) : Bool :=
  decide (rankOf o.h < rankOf p.h)
    || (rankOf o.h == rankOf p.h && (decide (o.owner.toNat < p.owner.toNat)
      || (o.owner == p.owner && decide (o.order < p.order))))

/-- The first of some entries in the order in which the Reeve spills them (R68). -/
def firstSpilled (os : List Obl) : Option Obl :=
  os.foldl
    (fun best o => match best with
      | none => some o
      | some b => if spillsBefore o b then some o else some b) none

/-- The entry to spill among resident ones: one of each context is kept back (R68). -/
def spillVictim (all : List Obl) : Option Obl := firstSpilled (all.filter fun o => !keptBack all o)

/-- How an installation ends. -/
inductive Install where
  | ok (s : State)
  /-- the owed area is full (R69) -/
  | full
  /-- the owed area cannot be reached: a machine check (R67) -/
  | check
  deriving Repr

/-- Put an entry into a slot's owed area. -/
def toOwed (s : State) (i : Fin 11) (o : Obl) : Install :=
  if owedFree s i = 0 then .full
  else match owedUpdate s i (· ++ [o]) with
    | some s' => .ok s'
    | none => .check

/-- Install one obligation on a slot (R66, R68, R69). Where the table is full, the victim is a resident entry. A victim
of the new entry's own context and of lower rank stays, and the new entry goes to the owed area itself, so that no
spilled entry is below a resident one of its context. -/
def install (s : State) (i : Fin 11) (h : Word) (k : OblKind) : Install :=
  match bump i h k s.core.reeve with
  | some r => .ok (s.modCore fun c => { c with reeve := r })
  | none =>
  match bump i h k s.core.spilled with
  | some _ =>
    match owedUpdate s i fun os => (bump i h k os).getD os with
    | some s' => .ok s'
    | none => .check
  | none =>
    let o : Obl := { h := h, kind := k, owner := BitVec.ofNat 4 i.val, mult := 1, order := s.core.installs }
    let s1 := s.modCore fun c => { c with installs := c.installs + 1 }
    if (lowRank i s.core.spilled).any fun r => decide (r < rankOf h) then toOwed s1 i o
    else if s.core.reeve.length < 256 then .ok (s1.modCore fun c => { c with reeve := c.reeve ++ [o] })
    else match spillVictim s.core.reeve with
      | none => toOwed s1 i o
      | some v =>
        if v.owner = o.owner ∧ rankOf v.h < rankOf h then toOwed s1 i o
        else match slotOf v.owner.toNat with
          | none => .check
          | some j => toOwed (s1.modCore fun c => { c with reeve := c.reeve.filter (fun p => p != v) ++ [o] }) j v

/-- Remove one unit of an obligation (R278); the Reeve refills before the context issues again when that
was its last resident entry (R68). -/
def removeObl (s : State) (i : Fin 11) (h : Word) (k : OblKind) : Option State :=
  match unbump i h k s.core.reeve with
  | some r =>
    let s1 := s.modCore fun c => { c with reeve := r }
    if (lowRank i r).isNone && (lowRank i s.core.spilled).isSome then
      some (send s1 (.refill (BitVec.ofNat 4 i.val)))
    else some s1
  | none =>
    (unbump i h k s.core.spilled).map fun r =>
      (owedUpdate s i fun os => (unbump i h k os).getD r).getD (s.modCore fun c => { c with spilled := r })

/-- Does the slot wait for the Reeve to refill (R68)? -/
def refilling (s : State) (i : Fin 11) : Bool :=
  (lowRank i s.core.reeve).isNone && (lowRank i s.core.spilled).isSome

/-- Release the owed-area place a wait reserved (R53). -/
def unreserve (s : State) (i : Fin 11) : State :=
  s.modAct i fun a => { a with reserved := a.reserved - 1 }

/-! Returning from an exception (R152, R373, R375). -/

/-- ERET at S level (R375): the queue and the level from the record, then the K registers. -/
def eretSystem (s : State) : State :=
  let c := s.at 0
  let k := s.core.sys
  let c1 := c.resumeAt c.trap.epc0 c.trap.epc1 c.trap.epc2 c.trap.rptst
  (recaptureAt (i := 0) <| s.setAt 0
    { c1 with
      level := levelOf (fld c.trap.cause 40 2)
      slotState := resumeState c
      skip := (c.trap.cause.truncate 8 : BitVec 8) == 22 && fld c.trap.cause 8 24 != 0
      trap := { epc0 := k.kepc0, epc1 := k.kepc1, epc2 := k.kepc2, cause := keepBits k.kcause causeBits, tval := k.ktval
                rptst := keepBits k.krptst rptstBits } }).modCore fun c => { c with undo := none }

/-- A bit of a slot mask: bit s - 1 for slot s (R371). -/
def maskBit (m : BitVec 10) (i : Fin 11) : Bool := i.val != 0 && m.getLsbD (i.val - 1)

/-- The check of R373, step 1. -/
def eretAllowed (s : State) : Bool :=
  let u := (s.at 0).upcall
  helperSlots.all fun i =>
    (!maskBit u.resume i || (s.at i).slotState == .trapped)
      && (!maskBit u.free i || (((s.at i).slotState == .trapped || (s.at i).slotState == .unsettled)
            && (oblsOf s i).isEmpty))
      && !(maskBit u.resume i && maskBit u.free i)

/-- Resume the slots of a mask (R373, step 4). -/
def resumeMask (m : BitVec 10) : List (Fin 11) → State → State
  | [], s => s
  | i :: rest, s => resumeMask m rest (if maskBit m i then reloadFrame s i true else s)

/-- Free the slots of a mask (R373, step 5). -/
def freeMask (m : BitVec 10) : List (Fin 11) → State → State
  | [], s => s
  | i :: rest, s => freeMask m rest (if maskBit m i then freeSlot s i else s)

/-- ERET at C level, its check passed (R373, steps 2 to 6). RPTST.ACTIVE is cleared by the recapture
(R152). The record of a helper's breakpoint, with its SLOT, sets no SKIP of slot 0 (R381). -/
def eretControl (s : State) : State :=
  let c := s.at 0
  let u := c.upcall
  let c1 := c.resumeAt c.trap.epc0 c.trap.epc1 c.trap.epc2 c.trap.rptst
  let s1 := recaptureAt (i := 0) <| s.setAt 0
    { c1 with
      level := levelOf (fld c.trap.cause 40 2)
      skip := (c.trap.cause.truncate 8 : BitVec 8) == 22 && fld c.trap.cause 8 24 != 0 && fld c.trap.cause 44 4 == 0
      trap := { c.trap with rptst := BitVec.ofNat 64 (fld c.trap.rptst 0 63) }
      upcall := { u with inHandler := false, free := 0, resume := 0
                         pend := u.pend &&& ~~~ (u.resume ||| u.free) } }
  (freeMask u.free helperSlots (resumeMask u.resume helperSlots s1)).modCore fun c => { c with undo := none }

end Sys2Proof.Machine
end

