-- ==== Sys2Proof/Machine/Operands.lean ====
section
/-!
DEFINITION. Operand forms: which registers an instruction reads and writes (R110, R129, R134, R139,
R173), the fields a repeat frame staggers (R139), effective addresses (R160, R171, R261), location
words (R87, R161), scopes (R320, R321) and resource entries (R25, R26).
-/

namespace Sys2Proof.Machine

/-- A register by class and number (R110). -/
inductive Reg where
  | g (r : BitVec 5)
  | f (r : BitVec 5)
  | v (r : BitVec 5)
  | k (r : BitVec 5)
  | q (r : BitVec 5)
  deriving DecidableEq, Repr

/-- The mask register of a 3-bit field (R110). -/
def maskReg (m : BitVec 3) : Reg := .k (m.zeroExtend 5)

/-- The two scale registers of a D-format word (R118). -/
def scaleRegs (p : BitVec 3) (c : BitVec 4) : List Reg :=
  if p.toNat < 4 then [.f (c.zeroExtend 5), .f (c.zeroExtend 5 + 1)] else []

/-- The registers an instruction reads in its issue cycle, but for destinations it only merges into. -/
def reads : Instr → List Reg

  | .nop => []
  | .halt => []
  | .idle => []
  | .eret => []
  | .trap _ => []
  | .brk _ => []
  | .yield => []
  | .fencei => []
  | .mfc _ _ => []
  | .mtc g _ => [.g g]
  | .mxc g _ => [.g g]
  | .mset g _ => [.g g]
  | .mclr g _ => [.g g]
  | .add _ a b => [.g a, .g b]
  | .sub _ a b => [.g a, .g b]
  | .and _ a b => [.g a, .g b]
  | .or _ a b => [.g a, .g b]
  | .xor _ a b => [.g a, .g b]
  | .andn _ a b => [.g a, .g b]
  | .orn _ a b => [.g a, .g b]
  | .shl _ a b => [.g a, .g b]
  | .shr _ a b => [.g a, .g b]
  | .sar _ a b => [.g a, .g b]
  | .rol _ a b => [.g a, .g b]
  | .min _ a b => [.g a, .g b]
  | .max _ a b => [.g a, .g b]
  | .minw _ a b => [.g a, .g b]
  | .maxw _ a b => [.g a, .g b]
  | .slt _ a b => [.g a, .g b]
  | .sltw _ a b => [.g a, .g b]
  | .seq _ a b => [.g a, .g b]
  | .sne _ a b => [.g a, .g b]
  | .cmov _ a b c => [.g a, .g b, .g c]
  | .mul _ a b => [.g a, .g b]
  | .mulh _ a b => [.g a, .g b]
  | .mulhw _ a b => [.g a, .g b]
  | .mulw _ a b => [.g a, .g b]
  | .div _ a b => [.g a, .g b]
  | .divw _ a b => [.g a, .g b]
  | .rem _ a b => [.g a, .g b]
  | .remw _ a b => [.g a, .g b]
  | .clz _ a => [.g a]
  | .ctz _ a => [.g a]
  | .popc _ a => [.g a]
  | .brev _ a => [.g a]
  | .bswap _ a => [.g a]
  | .sext _ a _ _ => [.g a]
  | .zext _ a _ _ => [.g a]
  | .bext _ a b => [.g a, .g b]
  | .bins d a b => [.g a, .g b, .g d]
  | .addi _ a _ => [.g a]
  | .andi _ a _ => [.g a]
  | .ori _ a _ => [.g a]
  | .xori _ a _ => [.g a]
  | .shli _ a _ => [.g a]
  | .shri _ a _ => [.g a]
  | .sari _ a _ => [.g a]
  | .roli _ a _ => [.g a]
  | .slti _ a _ => [.g a]
  | .sltwi _ a _ => [.g a]
  | .movk _ _ _ _ => []
  | .lea _ a b _ _ => [.g a, .g b]
  | .gcoord _ a => [.g a]
  | .widf _ _ => []
  | .self _ => []
  | .cload _ => []
  | .beq a b _ _ => [.g a, .g b]
  | .bne a b _ _ => [.g a, .g b]
  | .blt a b _ _ => [.g a, .g b]
  | .bge a b _ _ => [.g a, .g b]
  | .bltw a b _ _ => [.g a, .g b]
  | .bgew a b _ _ => [.g a, .g b]
  | .bbs a _ _ _ => [.g a]
  | .bbc a _ _ _ => [.g a]
  | .j _ => []
  | .call _ => []
  | .jr a => [.g a]
  | .callr a => [.g a]
  | .ret => [.g 31]
  | .rpt _ _ _ _ _ => []
  | .hstart _ a b _ => [.g a, .g b]
  | .hexit => []
  | .cpack d a b => [.g a, .g b, .g d]
  | .cresume _ a => [.g a]
  | .migrate d a b => [.g a, .g b, .g d]
  | .hstat _ _ => []
  | .onew _ a b _ => [.g a, .g b]
  | .ofree a => [.g a]
  | .oblig _ a => [.g a]
  | .osig a => [.g a]
  | .orel a => [.g a]
  | .osend _ a b c => [.g a, .g b, .g c]
  | .ofail a b => [.g a, .g b]
  | .otrn a b _ => [.g a, .g b]
  | .oseize _ a => [.g a]
  | .rsplit a b => [.g a, .g b]
  | .wait _ a => [.g a]
  | .barw _ a => [.g a]
  | .poll _ a => [.g a]
  | .oqry _ a _ => [.g a]
  | .ld _ a _ _ => [.g a]
  | .st s a _ _ _ => [.g s, .g a]
  | .aadd _ a b _ _ => [.g a, .g b]
  | .aand _ a b _ _ => [.g a, .g b]
  | .aor _ a b _ _ => [.g a, .g b]
  | .axor _ a b _ _ => [.g a, .g b]
  | .amin _ a b _ _ => [.g a, .g b]
  | .amax _ a b _ _ => [.g a, .g b]
  | .aminw _ a b _ _ => [.g a, .g b]
  | .amaxw _ a b _ _ => [.g a, .g b]
  | .aswp _ a b _ _ => [.g a, .g b]
  | .acas d a b _ _ => [.g a, .g b, .g d]
  | .afadd _ a b _ _ => [.g a, .g b]
  | .llk _ a _ => [.g a]
  | .sul _ a b _ => [.g a, .g b]
  | .sun _ a => [.g a]
  | .fence a => [.g a]
  | .fencea a => [.g a]
  | .fencer a => [.g a]
  | .bfence => []
  | .qfence => []
  | .efence => []
  | .mst s a _ _ _ => [.g s, .g a]
  | .vld _ a _ => [.g a]
  | .vst v a _ => [.v v, .g a]
  | .qld _ a b _ => [.g a, .g b]
  | .qst q a b _ => [.q q, .g a, .g b]
  | .qgat _ a x _ => [.g a, .q x]
  | .qsct q a x _ => [.q q, .g a, .q x]
  | .cpy _ a b c => [.g a, .g b, .g c]
  | .cpy2 _ a b c => [.g a, .g b, .g c]
  | .cpy3 _ a b c => [.g a, .g b, .g c]
  | .cpyi _ a b c => [.g a, .g b, .g c]
  | .cpyr _ a b c => [.g a, .g b, .g c]
  | .cpyrs _ a b c => [.g a, .g b, .g c]
  | .sopen _ a _ _ => [.g a]
  | .sclose _ _ _ => []
  | .sstat _ _ _ => []
  | .vadd _ a b m _ => [.v a, .v b, maskReg m]
  | .vsub _ a b m _ => [.v a, .v b, maskReg m]
  | .vmul _ a b m _ => [.v a, .v b, maskReg m]
  | .vmulh _ a b m _ => [.v a, .v b, maskReg m]
  | .vmin _ a b m _ => [.v a, .v b, maskReg m]
  | .vmax _ a b m _ => [.v a, .v b, maskReg m]
  | .vand _ a b m _ => [.v a, .v b, maskReg m]
  | .vor _ a b m _ => [.v a, .v b, maskReg m]
  | .vxor _ a b m _ => [.v a, .v b, maskReg m]
  | .vshl _ a b m _ => [.v a, .v b, maskReg m]
  | .vshr _ a b m _ => [.v a, .v b, maskReg m]
  | .vsar _ a b m _ => [.v a, .v b, maskReg m]
  | .vsel _ a b m _ => [.v a, .v b, maskReg m]
  | .vabs _ a m _ => [.v a, maskReg m]
  | .vcmp _ a b m _ _ => [.v a, .v b, maskReg m]
  | .vfadd _ a b m _ => [.v a, .v b, maskReg m]
  | .vfsub _ a b m _ => [.v a, .v b, maskReg m]
  | .vfmul _ a b m _ => [.v a, .v b, maskReg m]
  | .vfma d a b m _ => [.v a, .v b, .v d, maskReg m]
  | .vfms d a b m _ => [.v a, .v b, .v d, maskReg m]
  | .vfmin _ a b m _ => [.v a, .v b, maskReg m]
  | .vfmax _ a b m _ => [.v a, .v b, maskReg m]
  | .vfabs _ a m _ => [.v a, maskReg m]
  | .vfneg _ a m _ => [.v a, maskReg m]
  | .vfcmp _ a b m _ _ => [.v a, .v b, maskReg m]
  | .vcvt _ a _ m _ => [.v a, maskReg m]
  | .vqnt _ a _ _ => [.v a, .v (a + 1), .v (a + 2), .v (a + 3)]
  | .vdq _ a f _ => [.v a, .f f]
  | .vshuf _ a b m _ => [.v a, .v b, maskReg m]
  | .vperm d a b m _ => [.v a, .v b, .v d, maskReg m]
  | .vbc _ a m _ => [.g a, maskReg m]
  | .vext _ a _ _ => [.v a]
  | .vins d a _ _ => [.g a, .v d]
  | .vmovk _ a => [.g a]
  | .vexp2 _ a m _ => [.v a, maskReg m]
  | .vlog2 _ a m _ => [.v a, maskReg m]
  | .vrcp _ a m _ => [.v a, maskReg m]
  | .vrsq _ a m _ => [.v a, maskReg m]
  | .vsin _ a m _ => [.v a, maskReg m]
  | .vcos _ a m _ => [.v a, maskReg m]
  | .vtanh _ a m _ => [.v a, maskReg m]
  | .vsigm _ a m _ => [.v a, maskReg m]
  | .vrsum _ a m _ _ => [.v a, maskReg m]
  | .vrmax _ a m _ _ => [.v a, maskReg m]
  | .vrmin _ a m _ _ => [.v a, maskReg m]
  | .res _ _ _ => []
  | .vdot p d a b c m => [.v a, .v b, .v d, maskReg m] ++ scaleRegs p c
  | .qdot p d a b c => [.q a, .q b, .q d] ++ scaleRegs p c
  | .mxa p _ a b c => [.g a, .g b] ++ scaleRegs p c
  | .bmv p _ a b c => [.g a, .g b] ++ scaleRegs p c
  | .qdop d a b => [.q a, .q b, .q d]
  | .vlong => []
  | .vshort => []
  | .qmov _ a => [.q a]
  | .qsplat _ a _ => [.g a]
  | .qxv _ a b => [.q a, .g b]
  | .qxq _ a b => [.v a, .g b]
  | .qfadd _ a b _ => [.q a, .q b]
  | .qfmul _ a b _ => [.q a, .q b]
  | .qfma d a b _ => [.q a, .q b, .q d]
  | .qfmin _ a b _ => [.q a, .q b]
  | .qfmax _ a b _ => [.q a, .q b]
  | .qcvt _ a _ _ => [.q a]
  | .qsel d a b _ => [.q a, .q b, .q d]
  | .qfcmp _ a b _ _ => [.q a, .q b]
  | .qadd _ a b _ => [.q a, .q b]
  | .qsub _ a b _ => [.q a, .q b]
  | .qmul _ a b _ => [.q a, .q b]
  | .qand _ a b _ => [.q a, .q b]
  | .qor _ a b _ => [.q a, .q b]
  | .qxor _ a b _ => [.q a, .q b]
  | .qshl _ a b _ => [.q a, .q b]
  | .qshr _ a b _ => [.q a, .q b]
  | .qmin _ a b _ => [.q a, .q b]
  | .qmax _ a b _ => [.q a, .q b]
  | .qcmp _ a b _ _ => [.q a, .q b]
  | .qrsum _ a _ _ => [.q a]
  | .qrmax _ a _ _ => [.q a]
  | .qrmin _ a _ _ => [.q a]
  | .mxb _ a b => [.g a, .g b]
  | .mxj _ a => [.g a]
  | .mxcap _ a b => [.g a, .g b]
  | .mxst _ a => [.g a]
  | .bvld _ a b => [.g a, .g b]
  | .bvrd _ a b => [.g a, .g b]
  | .bcfg _ a => [.g a]
  | .bstat _ a => [.g a]
  | .pbind _ a => [.g a]
  | .pfree _ a => [.g a]
  | .pstat _ a => [.g a]
  | .enq d a => [.g a, .g d]
  | .deq _ a => [.g a]
  | .xph _ a b => [.g a, .g b]
  | .xsnd _ a b c => [.g a, .g b, .g c]
  | .xrcv _ a _ c => [.g a, .g c]
  | .xend _ => []
  | .xmrk a b => [.g a, .g b]
  | .xvs a b => [.g a, .g b]
  | _ => []

/-- The registers an instruction writes (R129, R134). DESIGN CHOICE: WAIT and POLL are held to write all three of a MAILBOX's
registers, whatever the object's kind, which the issuing core does not know (log 87). -/
def writes : Instr → List Reg
  | .mfc g _ => [.g g]
  | .mxc g _ => [.g g]
  | .mset g _ => [.g g]
  | .mclr g _ => [.g g]
  | .add d _ _ => [.g d]
  | .sub d _ _ => [.g d]
  | .and d _ _ => [.g d]
  | .or d _ _ => [.g d]
  | .xor d _ _ => [.g d]
  | .andn d _ _ => [.g d]
  | .orn d _ _ => [.g d]
  | .shl d _ _ => [.g d]
  | .shr d _ _ => [.g d]
  | .sar d _ _ => [.g d]
  | .rol d _ _ => [.g d]
  | .min d _ _ => [.g d]
  | .max d _ _ => [.g d]
  | .minw d _ _ => [.g d]
  | .maxw d _ _ => [.g d]
  | .slt d _ _ => [.g d]
  | .sltw d _ _ => [.g d]
  | .seq d _ _ => [.g d]
  | .sne d _ _ => [.g d]
  | .cmov d _ _ _ => [.g d]
  | .mul d _ _ => [.g d]
  | .mulh d _ _ => [.g d]
  | .mulhw d _ _ => [.g d]
  | .mulw d _ _ => [.g d]
  | .div d _ _ => [.g d]
  | .divw d _ _ => [.g d]
  | .rem d _ _ => [.g d]
  | .remw d _ _ => [.g d]
  | .clz d _ => [.g d]
  | .ctz d _ => [.g d]
  | .popc d _ => [.g d]
  | .brev d _ => [.g d]
  | .bswap d _ => [.g d]
  | .sext d _ _ _ => [.g d]
  | .zext d _ _ _ => [.g d]
  | .bext d _ _ => [.g d]
  | .bins d _ _ => [.g d]
  | .addi d _ _ => [.g d]
  | .andi d _ _ => [.g d]
  | .ori d _ _ => [.g d]
  | .xori d _ _ => [.g d]
  | .shli d _ _ => [.g d]
  | .shri d _ _ => [.g d]
  | .sari d _ _ => [.g d]
  | .roli d _ _ => [.g d]
  | .slti d _ _ => [.g d]
  | .sltwi d _ _ => [.g d]
  | .movk d _ _ _ => [.g d]
  | .lea d _ _ _ _ => [.g d]
  | .gcoord d _ => [.g d]
  | .widf d _ => [.g d]
  | .self d => [.g d]
  | .cload d => [.g d]
  | .call _ => [.g 31]
  | .callr _ => [.g 31]
  | .hstart d _ _ _ => [.g d]
  | .cpack d _ _ => [.g d]
  | .cresume d _ => [.g d]
  | .migrate d _ _ => [.g d]
  | .hstat d _ => [.g d]
  | .onew d _ _ _ => [.g d]
  | .oblig d _ => [.g d]
  | .osend d _ _ _ => [.g d]
  | .oseize d _ => [.g d]
  | .wait d _ => [.g d, .g (d + 1), .g (d + 2)]
  | .barw d _ => [.g d]
  | .poll d _ => [.g d, .g (d + 1), .g (d + 2)]
  | .oqry d _ _ => [.g d]
  | .ld d _ _ _ => [.g d]
  | .aadd d _ _ _ _ => [.g d]
  | .aand d _ _ _ _ => [.g d]
  | .aor d _ _ _ _ => [.g d]
  | .axor d _ _ _ _ => [.g d]
  | .amin d _ _ _ _ => [.g d]
  | .amax d _ _ _ _ => [.g d]
  | .aminw d _ _ _ _ => [.g d]
  | .amaxw d _ _ _ _ => [.g d]
  | .aswp d _ _ _ _ => [.g d]
  | .acas d _ _ _ _ => [.g d]
  | .afadd d _ _ _ _ => [.g d]
  | .llk d _ _ => [.g d]
  | .sul d _ _ _ => [.g d]
  | .sun d _ => [.g d]
  | .vld v _ _ => [.v v]
  | .qld q _ _ _ => [.q q]
  | .qgat q _ _ _ => [.q q]
  | .cpy d _ _ _ => [.g d]
  | .cpy2 d _ _ _ => [.g d]
  | .cpy3 d _ _ _ => [.g d]
  | .cpyi d _ _ _ => [.g d]
  | .cpyr d _ _ _ => [.g d]
  | .cpyrs d _ _ _ => [.g d]
  | .sopen d _ _ _ => [.g d]
  | .sclose d _ _ => [.g d]
  | .sstat d _ _ => [.g d]
  | .vadd d _ _ _ _ => [.v d]
  | .vsub d _ _ _ _ => [.v d]
  | .vmul d _ _ _ _ => [.v d]
  | .vmulh d _ _ _ _ => [.v d]
  | .vmin d _ _ _ _ => [.v d]
  | .vmax d _ _ _ _ => [.v d]
  | .vand d _ _ _ _ => [.v d]
  | .vor d _ _ _ _ => [.v d]
  | .vxor d _ _ _ _ => [.v d]
  | .vshl d _ _ _ _ => [.v d]
  | .vshr d _ _ _ _ => [.v d]
  | .vsar d _ _ _ _ => [.v d]
  | .vsel d _ _ _ _ => [.v d]
  | .vabs d _ _ _ => [.v d]
  | .vcmp d _ _ _ _ _ => [.k d]
  | .vfadd d _ _ _ _ => [.v d]
  | .vfsub d _ _ _ _ => [.v d]
  | .vfmul d _ _ _ _ => [.v d]
  | .vfma d _ _ _ _ => [.v d]
  | .vfms d _ _ _ _ => [.v d]
  | .vfmin d _ _ _ _ => [.v d]
  | .vfmax d _ _ _ _ => [.v d]
  | .vfabs d _ _ _ => [.v d]
  | .vfneg d _ _ _ => [.v d]
  | .vfcmp d _ _ _ _ _ => [.k d]
  | .vcvt d _ _ _ _ => [.v d]
  | .vqnt d _ f _ => [.v d, .f f]
  | .vdq d _ _ _ => [.v d, .v (d + 1), .v (d + 2), .v (d + 3)]
  | .vshuf d _ _ _ _ => [.v d]
  | .vperm d _ _ _ _ => [.v d]
  | .vbc d _ _ _ => [.v d]
  | .vext d _ _ _ => [.g d]
  | .vins d _ _ _ => [.v d]
  | .vmovk d _ => [.k d]
  | .vexp2 d _ _ _ => [.v d]
  | .vlog2 d _ _ _ => [.v d]
  | .vrcp d _ _ _ => [.v d]
  | .vrsq d _ _ _ => [.v d]
  | .vsin d _ _ _ => [.v d]
  | .vcos d _ _ _ => [.v d]
  | .vtanh d _ _ _ => [.v d]
  | .vsigm d _ _ _ => [.v d]
  | .vrsum d _ _ _ _ => [.v d]
  | .vrmax d _ _ _ _ => [.v d]
  | .vrmin d _ _ _ _ => [.v d]
  | .res d _ _ => [.g d]
  | .vdot _ d _ _ _ _ => [.v d]
  | .qdot _ d _ _ _ => [.q d]
  | .mxa _ d _ _ _ => [.g d]
  | .bmv _ d _ _ _ => [.g d]
  | .qdop d _ _ => [.q d]
  | .qmov d _ => [.q d]
  | .qsplat d _ _ => [.q d]
  | .qxv d _ _ => [.v d]
  | .qxq d _ _ => [.q d]
  | .qfadd d _ _ _ => [.q d]
  | .qfmul d _ _ _ => [.q d]
  | .qfma d _ _ _ => [.q d]
  | .qfmin d _ _ _ => [.q d]
  | .qfmax d _ _ _ => [.q d]
  | .qcvt d _ _ _ => [.q d]
  | .qsel d _ _ _ => [.q d]
  | .qfcmp d _ _ _ _ => [.q d]
  | .qadd d _ _ _ => [.q d]
  | .qsub d _ _ _ => [.q d]
  | .qmul d _ _ _ => [.q d]
  | .qand d _ _ _ => [.q d]
  | .qor d _ _ _ => [.q d]
  | .qxor d _ _ _ => [.q d]
  | .qshl d _ _ _ => [.q d]
  | .qshr d _ _ _ => [.q d]
  | .qmin d _ _ _ => [.q d]
  | .qmax d _ _ _ => [.q d]
  | .qcmp d _ _ _ _ => [.q d]
  | .qrsum d _ _ _ => [.v d]
  | .qrmax d _ _ _ => [.v d]
  | .qrmin d _ _ _ => [.v d]
  | .mxb d _ _ => [.g d]
  | .mxj d _ => [.g d]
  | .mxcap d _ _ => [.g d]
  | .mxst d _ => [.g d]
  | .bvld d _ _ => [.g d]
  | .bvrd d _ _ => [.g d]
  | .bcfg d _ => [.g d]
  | .bstat d _ => [.g d]
  | .pbind d _ => [.g d, .g (d + 1)]
  | .pfree d _ => [.g d]
  | .pstat d _ => [.g d, .g (d + 1)]
  | .enq d _ => [.g d, .g (d + 1)]
  | .deq d _ => [.g d, .g (d + 1)]
  | .xph d _ _ => [.g d]
  | .xsnd d _ _ _ => [.g d]
  | .xrcv d _ b _ => [.g d, .g b]
  | .xend d => [.g d]
  | _ => []

/-- Which of the d, a and b fields name a register in the instruction's form (R139), for the words a
frame may capture; none for every other word. -/
def frameFields : Instr → Option (Bool × Bool × Bool)
  | .add .. => some (true, true, true)
  | .sub .. => some (true, true, true)
  | .and .. => some (true, true, true)
  | .or .. => some (true, true, true)
  | .xor .. => some (true, true, true)
  | .andn .. => some (true, true, true)
  | .orn .. => some (true, true, true)
  | .shl .. => some (true, true, true)
  | .shr .. => some (true, true, true)
  | .sar .. => some (true, true, true)
  | .rol .. => some (true, true, true)
  | .min .. => some (true, true, true)
  | .max .. => some (true, true, true)
  | .minw .. => some (true, true, true)
  | .maxw .. => some (true, true, true)
  | .slt .. => some (true, true, true)
  | .sltw .. => some (true, true, true)
  | .seq .. => some (true, true, true)
  | .sne .. => some (true, true, true)
  | .cmov .. => some (true, true, true)
  | .mul .. => some (true, true, true)
  | .mulh .. => some (true, true, true)
  | .mulhw .. => some (true, true, true)
  | .mulw .. => some (true, true, true)
  | .div .. => some (true, true, true)
  | .divw .. => some (true, true, true)
  | .rem .. => some (true, true, true)
  | .remw .. => some (true, true, true)
  | .clz .. => some (true, true, false)
  | .ctz .. => some (true, true, false)
  | .popc .. => some (true, true, false)
  | .brev .. => some (true, true, false)
  | .bswap .. => some (true, true, false)
  | .sext .. => some (true, true, false)
  | .zext .. => some (true, true, false)
  | .bext .. => some (true, true, true)
  | .bins .. => some (true, true, true)
  | .addi .. => some (true, true, false)
  | .andi .. => some (true, true, false)
  | .ori .. => some (true, true, false)
  | .xori .. => some (true, true, false)
  | .shli .. => some (true, true, false)
  | .shri .. => some (true, true, false)
  | .sari .. => some (true, true, false)
  | .roli .. => some (true, true, false)
  | .slti .. => some (true, true, false)
  | .sltwi .. => some (true, true, false)
  | .vadd .. => some (true, true, true)
  | .vsub .. => some (true, true, true)
  | .vmul .. => some (true, true, true)
  | .vmulh .. => some (true, true, true)
  | .vmin .. => some (true, true, true)
  | .vmax .. => some (true, true, true)
  | .vand .. => some (true, true, true)
  | .vor .. => some (true, true, true)
  | .vxor .. => some (true, true, true)
  | .vshl .. => some (true, true, true)
  | .vshr .. => some (true, true, true)
  | .vsar .. => some (true, true, true)
  | .vsel .. => some (true, true, true)
  | .vabs .. => some (true, true, false)
  | .vcmp .. => some (true, true, true)
  | .vfadd .. => some (true, true, true)
  | .vfsub .. => some (true, true, true)
  | .vfmul .. => some (true, true, true)
  | .vfma .. => some (true, true, true)
  | .vfms .. => some (true, true, true)
  | .vfmin .. => some (true, true, true)
  | .vfmax .. => some (true, true, true)
  | .vfabs .. => some (true, true, false)
  | .vfneg .. => some (true, true, false)
  | .vfcmp .. => some (true, true, true)
  | .vcvt .. => some (true, true, false)
  | .vqnt .. => some (true, true, true)
  | .vdq .. => some (true, true, true)
  | .vshuf .. => some (true, true, true)
  | .vperm .. => some (true, true, true)
  | .vbc .. => some (true, true, false)
  | .vext .. => some (true, true, false)
  | .vins .. => some (true, true, false)
  | .vmovk .. => some (true, true, false)
  | .vexp2 .. => some (true, true, false)
  | .vlog2 .. => some (true, true, false)
  | .vrcp .. => some (true, true, false)
  | .vrsq .. => some (true, true, false)
  | .vsin .. => some (true, true, false)
  | .vcos .. => some (true, true, false)
  | .vtanh .. => some (true, true, false)
  | .vsigm .. => some (true, true, false)
  | .vrsum .. => some (true, true, false)
  | .vrmax .. => some (true, true, false)
  | .vrmin .. => some (true, true, false)
  | .vdot .. => some (true, true, true)
  | .qdot .. => some (true, true, true)
  | .qdop .. => some (true, true, true)
  | .qfadd .. => some (true, true, true)
  | .qfmul .. => some (true, true, true)
  | .qfma .. => some (true, true, true)
  | .qfmin .. => some (true, true, true)
  | .qfmax .. => some (true, true, true)
  | .qcvt .. => some (true, true, false)
  | .qsel .. => some (true, true, true)
  | .qfcmp .. => some (true, true, true)
  | .qadd .. => some (true, true, true)
  | .qsub .. => some (true, true, true)
  | .qmul .. => some (true, true, true)
  | .qand .. => some (true, true, true)
  | .qor .. => some (true, true, true)
  | .qxor .. => some (true, true, true)
  | .qshl .. => some (true, true, true)
  | .qshr .. => some (true, true, true)
  | .qmin .. => some (true, true, true)
  | .qmax .. => some (true, true, true)
  | .qcmp .. => some (true, true, true)
  | .qrsum .. => some (true, true, false)
  | .qrmax .. => some (true, true, false)
  | .qrmin .. => some (true, true, false)
  | _ => none

/-- Does the instruction transfer control (R136)? -/
def transfers : Instr → Bool
  | .beq .. | .bne .. | .blt .. | .bge .. | .bltw .. | .bgew .. | .bbs .. | .bbc .. | .j .. | .call ..
  | .jr .. | .callr .. | .ret => true
  | _ => false

/-! Effective addresses. -/

/-- EA of the M format (R171): g[a] + SExt(disp, 12) × z. -/
def eaM (s : State) (a : BitVec 5) (disp : BitVec 12) (z : Nat) : Word :=
  gv s a + disp.signExtend 64 * BitVec.ofNat 64 z

/-- EA of VMEM (R261). -/
def eaV (s : State) (a : BitVec 5) (disp : BitVec 11) : Word := gv s a + disp.signExtend 64 * 32

/-- The address LEA builds (R160). -/
def eaL (s : State) (a b : BitVec 5) (sc : BitVec 2) (disp : BitVec 9) : Word :=
  gv s a + gv s b <<< sc.toNat + disp.signExtend 64

/-- The address of word `word` of resource entry `k` (R25, R160). -/
def eaRes (s : State) (word : BitVec 3) (k : Nat) : Word :=
  s.ctx.user.restb + BitVec.ofNat 64 (64 * k + 8 * word.toNat)

/-! Scopes (R320, R321). -/

/-- Is a scope value malformed (R321)? -/
def scopeMalformed (v : Word) : Bool :=
  fld v 57 7 != 0 || decide (fld v 0 8 > 63) || decide (fld v 16 8 > 63) || decide (fld v 8 8 > 127)
    || decide (fld v 24 8 > 127) || decide (fld v 44 12 < fld v 32 12)

/-- Does the scope name a device, for an issuing device (R320)? -/
def scopeDev (v : Word) (issuer dev : BitVec 12) : Bool :=
  if !v.getLsbD 56 && fld v 32 24 == 0 then issuer == dev
  else decide (fld v 32 12 ≤ dev.toNat) && decide (dev.toNat ≤ fld v 44 12)

/-- Does the scope hold a context, in the layout of SELFID (R320)? -/
def scopeHolds (v : Word) (issuer : BitVec 12) (sel : BitVec 36) : Bool :=
  let (x, y) := coords (nfld sel.toNat 17 3) (nfld sel.toNat 10 7) (nfld sel.toNat 7 3)
  scopeDev v issuer (BitVec.ofNat 12 (nfld sel.toNat 20 12))
    && decide (fld v 0 8 ≤ x) && decide (x ≤ fld v 16 8) && decide (fld v 8 8 ≤ y)
    && decide (y ≤ fld v 24 8)

/-- The scope operand of FEN and ONEW: g0 selects SCOPE (R256, R276). -/
def scopeOperand (s : State) (a : BitVec 5) : Word := if a = 0 then s.ctx.user.scope else gv s a

/-! Registers in the frame of a saved context (R370). -/

/-- Deliver a value to g[r] of a slot: into its frame when the frame has been written and not reloaded,
else into the register; its pending bit clears (R132, R370). -/
def deliverG (s : State) (i : Fin 11) (r : BitVec 5) (x : Word) : State :=
  let c := s.at i
  if c.framed then
    match saveAddr s (0x800 * i.val) with
    | none => machineCheck s 0 s.core.sys.saveb false
    | some pa =>
      let s1 := if r = 0 then s else writeNat s (pa + 8 * r.toNat) 8 x.toNat
      let s2 := writeNat s1 (pa + 0x638) 4
        ((BitVec.ofNat 32 (readNat s1 (pa + 0x638) 4)) &&& ~~~ BitVec.twoPow 32 r.toNat).toNat
      s2.setAt i ((s2.at i).pendG r false)
  else s.setAt i ((c.setG r x).pendG r false)

/-- Deliver a value to v[r] of a slot (R132, R370). -/
def deliverV (s : State) (i : Fin 11) (r : BitVec 5) (x : VReg) : State :=
  let c := s.at i
  if c.framed then
    match saveAddr s (0x800 * i.val) with
    | none => machineCheck s 0 s.core.sys.saveb false
    | some pa =>
      let s1 := writeNat s (pa + 0x180 + 32 * r.toNat) 32 x.toNat
      let s2 := writeNat s1 (pa + 0x640) 4
        ((BitVec.ofNat 32 (readNat s1 (pa + 0x640) 4)) &&& ~~~ BitVec.twoPow 32 r.toNat).toNat
      s2.setAt i ((s2.at i).pendV r false)
  else s.setAt i ((c.setV r x).pendV r false)

/-- OR flags into a slot's FFLAGS, or into its saved FFLAGS (R192). -/
def deliverFlags (s : State) (i : Fin 11) (fl : BitVec 5) : State :=
  let c := s.at i
  if c.framed then
    match saveAddr s (0x800 * i.val) with
    | none => machineCheck s 0 s.core.sys.saveb false
    | some pa => writeNat s (pa + 0x5D8) 8 ((BitVec.ofNat 64 (readNat s (pa + 0x5D8) 8)) ||| fl.zeroExtend 64).toNat
  else s.setAt i (c.orFlags fl)

/-- A status word of R131. -/
def tokenWord (status detail count : Nat) : Word :=
  BitVec.ofNat 64 (status % 16 * 2 ^ 60 + detail % 2 ^ 28 * 2 ^ 32 + count % 2 ^ 32)

/-- Write a token: the last effect of its operation (R131). -/
def deliverToken (s : State) (i : Fin 11) (d : BitVec 5) (w : Word) : State :=
  (deliverG s i d w).modAct i fun a => { a with tokens := a.tokens.filter fun t => t != d }

/-- The issuing instruction's token becomes pending (R131), or is written at once with a failure. -/
def startToken (s : State) (d : BitVec 5) : State :=
  s.mod fun c => { (c.pendG d true) with act := { c.act with tokens := c.act.tokens ++ [d] } }

/-- FMODE and the seed a queued operation takes; the LFSR then steps once (R184, R191). -/
def lfsrStep (x : W32) : W32 :=
  if x = 0 then 1
  else if x.getLsbD 0 then (x >>> 1) ^^^ 0x80200003 else x >>> 1

/-- Step the issuing context's LFSR (R191). -/
def stepLfsr (s : State) : State :=
  s.mod fun c => { c with user := { c.user with lfsr := lfsrStep c.user.lfsr } }

/-- Release the range locks of an owner (R246). -/
def unlockRange (s : State) (owner : Nat) : State :=
  s.modCluster fun c => { c with ranges := c.ranges.filter fun r => r.owner != owner }

/-- A fresh job number of the core. -/
def newId (s : State) : Nat × State := (s.core.ids, s.modCore fun c => { c with ids := c.ids + 1 })

end Sys2Proof.Machine
end

