-- ==== Sys2Proof/Machine/Flags.lean ====
section
/-!
DEFINITION. The number formats, rounding and flags of chapter 09 (R177 to R198): values are read as
exact dyadic numbers, computed exactly, and rounded once. Flags are NV 16, DZ 8, OF 4, UF 2, NX 1
(R183).
-/

namespace Sys2Proof.Machine

/-- The floating formats (R178, R179). -/
inductive FFmt | fp64 | fp32 | bf16 | fp16 | e4m3 | e5m2 | e2m1
  deriving DecidableEq, Repr

/-- Exponent bits. -/
def FFmt.ebits : FFmt → Nat
  | .fp64 => 11 | .fp32 => 8 | .bf16 => 8 | .fp16 => 5 | .e4m3 => 4 | .e5m2 => 5 | .e2m1 => 2

/-- Mantissa bits. -/
def FFmt.mbits : FFmt → Nat
  | .fp64 => 52 | .fp32 => 23 | .bf16 => 7 | .fp16 => 10 | .e4m3 => 3 | .e5m2 => 2 | .e2m1 => 1

/-- Exponent bias. -/
def FFmt.bias : FFmt → Nat
  | .fp64 => 1023 | .fp32 => 127 | .bf16 => 127 | .fp16 => 15 | .e4m3 => 7 | .e5m2 => 15 | .e2m1 => 1

/-- Width in bits. -/
def FFmt.width (f : FFmt) : Nat := 1 + f.ebits + f.mbits

/-- Has the format infinities? -/
def FFmt.hasInf : FFmt → Bool
  | .e4m3 | .e2m1 => false
  | _ => true

/-- Exponent of the smallest normal. -/
def FFmt.emin (f : FFmt) : Int := 1 - (f.bias : Int)

/-- The largest finite value as n × 2^q. -/
def FFmt.maxN (f : FFmt) : Nat :=
  match f with | .e4m3 => 14 | _ => 2 ^ (f.mbits + 1) - 1

/-- The exponent of the last place at the largest exponent. -/
def FFmt.maxQ (f : FFmt) : Int :=
  let emax : Int := match f with
    | .e4m3 => 8
    | .e2m1 => 2
    | _ => (2 ^ f.ebits - 2 : Nat) - (f.bias : Int)
  emax - f.mbits

/-- FMODE.RM (R182). -/
inductive RMode | rne | rz | ru | rd | rs
  deriving DecidableEq, Repr

/-- The rounding mode of an FMODE; 101 to 111 cannot be written (R182). -/
def rmOf (md : Word) : RMode :=
  match fld md 0 3 with | 1 => .rz | 2 => .ru | 3 => .rd | 4 => .rs | _ => .rne

/-- Is the FTZ bit of a format set (R182, R187)? -/
def ftz (md : Word) : FFmt → Bool
  | .fp32 => md.getLsbD 8
  | .bf16 => md.getLsbD 9
  | .fp16 => md.getLsbD 10
  | .e4m3 | .e5m2 => md.getLsbD 11
  | .fp64 | .e2m1 => false

/-- A value: a NaN with its mantissa left-aligned to 52 bits, an infinity, or ± m × 2^e. -/
inductive FVal where
  | nan (neg : Bool) (mant : Nat)
  | inf (neg : Bool)
  | fin (neg : Bool) (m : Nat) (e : Int)
  deriving DecidableEq, Repr

/-- Read an element of a format under an FMODE (R178, R187). -/
def fread (md : Word) (f : FFmt) (x : Nat) : FVal :=
  let neg := x.testBit (f.ebits + f.mbits)
  let e := nfld x f.mbits f.ebits
  let m := nfld x 0 f.mbits
  let special := match f with
    | .e4m3 => e == 15 && m == 7
    | .e2m1 => false
    | _ => e == 2 ^ f.ebits - 1
  if special then
    if m = 0 ∧ f.hasInf then .inf neg else .nan neg (m * 2 ^ (52 - f.mbits))
  else if e = 0 then
    if ftz md f then .fin neg 0 0 else .fin neg m (f.emin - f.mbits)
  else .fin neg (2 ^ f.mbits + m) ((e : Int) - f.bias - f.mbits)

/-- Is a value zero? -/
def FVal.isZero : FVal → Bool
  | .fin _ 0 _ => true
  | _ => false

/-- Is a value a NaN? -/
def FVal.isNan : FVal → Bool
  | .nan .. => true
  | _ => false

/-- The sign of a value. -/
def FVal.neg : FVal → Bool
  | .nan n _ => n
  | .inf n => n
  | .fin n _ _ => n

/-- The value with its sign inverted. -/
def FVal.flip : FVal → FVal
  | .nan n m => .nan (!n) m
  | .inf n => .inf (!n)
  | .fin n m e => .fin (!n) m e

/-- The LFSR and the flags of an operation as it runs (R185, R190). -/
structure FEnv where
  md : Word
  lfsr : W32
  flags : BitVec 5
  deriving DecidableEq, Repr

/-- Raise flags. -/
def FEnv.raise (st : FEnv) (fl : BitVec 5) : FEnv := { st with flags := st.flags ||| fl }

/-- Bits of ± 0. -/
def zeroBits (f : FFmt) (neg : Bool) : Nat := if neg then 2 ^ (f.width - 1) else 0

/-- Bits of ± infinity. -/
def infBits (f : FFmt) (neg : Bool) : Nat := zeroBits f neg + (2 ^ f.ebits - 1) * 2 ^ f.mbits

/-- The canonical NaN (R178), with a sign. -/
def canonNan (f : FFmt) (neg : Bool) : Nat :=
  match f with
  | .e4m3 => zeroBits f neg + 0x7F
  | .e2m1 => 0
  | _ => infBits f neg + 2 ^ (f.mbits - 1)

/-- Bits of the largest finite value, with a sign. -/
def maxBits (f : FFmt) (neg : Bool) : Nat :=
  zeroBits f neg + (match f with
    | .e4m3 => 0x7E
    | .e2m1 => 7
    | _ => (2 ^ f.ebits - 2) * 2 ^ f.mbits + (2 ^ f.mbits - 1))

/-- The bits of n × 2^q, n below 2^(mbits + 1) or that power itself. -/
def packFinite (f : FFmt) (neg : Bool) (n : Nat) (q : Int) : Nat :=
  if n = 0 then zeroBits f neg
  else
    let l := Nat.log2 n
    let ex := (l : Int) + q
    if ex < f.emin then zeroBits f neg + n
    else
      let m := if l ≥ f.mbits then n / 2 ^ (l - f.mbits) else n * 2 ^ (f.mbits - l)
      zeroBits f neg + (ex + f.bias).toNat * 2 ^ f.mbits + (m - 2 ^ f.mbits)

/-- Round to a multiple of 2^q (R185): n, and whether the result is inexact. `sticky` says that the
value lies strictly between m and m + 1, in units of 2^e. -/
def roundAt (rm : RMode) (lfsr : W32) (neg : Bool) (m : Nat) (e : Int) (sticky : Bool) (q : Int) :
    Nat × Bool :=
  if q ≤ e then (m * 2 ^ (e - q).toNat, sticky)
  else
    let sh := (q - e).toNat
    let n := m / 2 ^ sh
    let r := m % 2 ^ sh
    let inexact := r != 0 || sticky
    let up := match rm with
      | .rne => decide (2 * r > 2 ^ sh) || (2 * r == 2 ^ sh && (sticky || n % 2 == 1))
      | .rz => false
      | .ru => !neg && inexact
      | .rd => neg && inexact
      | .rs => decide (nfld lfsr.toNat 0 16 < 65536 * r / 2 ^ sh)
    (if inexact && up then n + 1 else n, inexact)

/-- Is an overflow rounded away from zero (R186)? -/
def roundsAway (rm : RMode) (neg : Bool) : Bool :=
  match rm with
  | .rne | .rs => true
  | .rz => false
  | .ru => !neg
  | .rd => neg

/-- The result of an overflow (R186). -/
def overflowBits (md : Word) (rm : RMode) (f : FFmt) (neg : Bool) : Nat :=
  if !roundsAway rm neg then maxBits f neg
  else match f with
    | .e4m3 => if md.getLsbD 3 then canonNan f false else maxBits f neg
    | .e5m2 => if md.getLsbD 3 then infBits f neg else maxBits f neg
    | .e2m1 => maxBits f neg
    | _ => infBits f neg

/-- Round(v, fmt, mode) of a nonzero or zero exact value, with R186 and R187, in a given mode. Only a nonzero result is
tiny (R185): a value that rounds to zero sets NX and no UF, as in the worked pair of R209 (DEDUCED, log 26). -/
def roundTo (st : FEnv) (rm : RMode) (f : FFmt) (flush : Bool) (neg : Bool) (m : Nat) (e : Int)
    (sticky : Bool) : Nat × FEnv :=
  let st := if rm = .rs then { st with lfsr := lfsrStep st.lfsr } else st
  if m = 0 ∧ !sticky then (zeroBits f neg, st)
  else
    let lm : Int := if m = 0 then -1 else (Nat.log2 m : Int)
    let qn := lm + e - f.mbits
    let q := max qn (f.emin - f.mbits)
    let (n, inexact) := roundAt rm st.lfsr neg m e sticky q
    let ovf := decide (q > f.maxQ) || (decide (q = f.maxQ) && decide (n > f.maxN))
    if ovf then (overflowBits st.md rm f neg, st.raise 5)
    else
      let (n2, _) := roundAt rm st.lfsr neg m e sticky qn
      let tiny := decide (((if n2 = 0 then (-1 : Int) else (Nat.log2 n2 : Int)) + qn) < f.emin) && n != 0
      let sub := n != 0 && decide ((Nat.log2 n : Int) + q < f.emin)
      if sub && flush then (zeroBits f neg, st.raise 3)
      else (packFinite f neg n q, st.raise ((if inexact then 1 else 0) ||| (if tiny && inexact then 2 else 0)))

/-- Round in FMODE.RM, flushing under FTZ (R185 to R187). -/
def fround (st : FEnv) (f : FFmt) (neg : Bool) (m : Nat) (e : Int) (sticky : Bool) : Nat × FEnv :=
  roundTo st (rmOf st.md) f (ftz st.md f) neg m e sticky

/-- RoundRNE(v, fmt): no LFSR step and no flush of its own; flags are those of the rounding (R185). -/
def froundRne (st : FEnv) (f : FFmt) (neg : Bool) (m : Nat) (e : Int) : Nat × FEnv :=
  roundTo st .rne f false neg m e false

/-- NaN bits in a destination: sign and top mantissa bits kept, top bit set; E4M3 and E5M2 take their
canonical NaN (R188). -/
def nanBits (f : FFmt) (neg : Bool) (mant : Nat) : Nat :=
  match f with
  | .e4m3 | .e5m2 => canonNan f neg
  | .e2m1 => 0
  | _ => infBits f neg + (mant / 2 ^ (52 - f.mbits)) % 2 ^ (f.mbits - 1) + 2 ^ (f.mbits - 1)

/-- The NaN result of operands in field order (R188): the first NaN, or the canonical one. -/
def nanOf (md : Word) (f : FFmt) : List FVal → Option Nat
  | [] => none
  | .nan n m :: _ => some (if md.getLsbD 4 then canonNan f false else nanBits f n m)
  | _ :: rest => nanOf md f rest

/-- An infinite operand in a destination (R186). -/
def infResult (st : FEnv) (f : FFmt) (neg : Bool) : Nat × FEnv :=
  match f with
  | .e4m3 => if st.md.getLsbD 3 then (canonNan f false, st.raise 16) else (maxBits f neg, st)
  | .e5m2 => if st.md.getLsbD 3 then (infBits f neg, st) else (maxBits f neg, st)
  | .e2m1 => (maxBits f neg, if st.md.getLsbD 3 then st.raise 16 else st)
  | _ => (infBits f neg, st)

/-- The exact sum of finite terms: signed numerator and exponent. -/
def exactSum : List (Bool × Nat × Int) → Int × Int
  | [] => (0, 0)
  | (neg, m, e) :: rest =>
    let (n, x) := exactSum rest
    let lo := min e x
    let a : Int := (m * 2 ^ (e - lo).toNat : Nat)
    ((if neg then -a else a) + n * (2 ^ (x - lo).toNat : Nat), lo)

/-- The sign of an exact zero sum (R185): the common sign of zeros, else + but − under RD. -/
def zeroSign (rm : RMode) (terms : List (Bool × Nat × Int)) : Bool :=
  match terms with
  | [] => false
  | (n, _, _) :: _ =>
    if terms.all fun t => t.2.1 == 0 && t.1 == n then n else decide (rm = .rd)

/-- Round a sum of finite terms. -/
def sumRound (st : FEnv) (f : FFmt) (terms : List (Bool × Nat × Int)) : Nat × FEnv :=
  let (n, e) := exactSum terms
  if n = 0 then fround st f (zeroSign (rmOf st.md) terms) 0 0 false
  else fround st f (decide (n < 0)) n.natAbs e false

/-- x + y (R203). -/
def fadd (st : FEnv) (f : FFmt) (x y : FVal) : Nat × FEnv :=
  match nanOf st.md f [x, y] with
  | some b => (b, st)
  | none =>
    match x, y with
    | .inf a, .inf b => if a = b then infResult st f a else (canonNan f false, st.raise 16)
    | .inf a, _ => infResult st f a
    | _, .inf b => infResult st f b
    | .fin a m e, .fin b m2 e2 => sumRound st f [(a, m, e), (b, m2, e2)]
    | _, _ => (canonNan f false, st)

/-- x × y (R203). -/
def fmul (st : FEnv) (f : FFmt) (x y : FVal) : Nat × FEnv :=
  match nanOf st.md f [x, y] with
  | some b => (b, st)
  | none =>
    match x, y with
    | .fin a m e, .fin b m2 e2 => fround st f (xor a b) (m * m2) (e + e2) false
    | _, _ =>
      if x.isZero || y.isZero then (canonNan f false, st.raise 16) else infResult st f (xor x.neg y.neg)

/-- x × y + z with one rounding (R203). -/
def ffma (st : FEnv) (f : FFmt) (x y z : FVal) : Nat × FEnv :=
  let invalid := match x, y with
    | .inf _, w => w.isZero
    | w, .inf _ => w.isZero
    | _, _ => false
  match nanOf st.md f [x, y, z] with
  | some b => (b, st)
  | none =>
    if invalid then (canonNan f false, st.raise 16)
    else match x, y, z with
      | .fin a m e, .fin b m2 e2, .fin c m3 e3 => sumRound st f [(xor a b, m * m2, e + e2), (c, m3, e3)]
      | .fin .., .fin .., .inf c => infResult st f c
      | _, _, .inf c =>
        if xor x.neg y.neg = c then infResult st f c else (canonNan f false, st.raise 16)
      | _, _, _ => infResult st f (xor x.neg y.neg)

/-- Order of two values that are no NaNs: −0 below +0 when `zeros` (R188, R203). -/
def fcompare (zeros : Bool) (x y : FVal) : Ordering :=
  let key (v : FVal) : Int × Int :=
    match v with
    | .inf n => (if n then -1 else 1, 0)
    | .fin .. => (0, 0)
    | .nan .. => (0, 0)
  match x, y with
  | .fin a m e, .fin b m2 e2 =>
    let lo := min e e2
    let p : Int := (m * 2 ^ (e - lo).toNat : Nat)
    let q : Int := (m2 * 2 ^ (e2 - lo).toNat : Nat)
    let p := if a then -p else p
    let q := if b then -q else q
    if p < q then .lt else if q < p then .gt
    else if zeros && m == 0 && m2 == 0 then (if a && !b then .lt else if !a && b then .gt else .eq) else .eq
  | _, _ => compare (key x).1 (key y).1

/-- Bits of a value as it stands, for minimum and maximum: no Round (R185). -/
def fbits (st : FEnv) (f : FFmt) : FVal → Nat × FEnv
  | .nan n m => (nanBits f n m, st)
  | .inf n => infResult st f n
  | .fin n m e =>
    if m = 0 then (zeroBits f n, st)
    else
      let q := max ((Nat.log2 m : Int) + e - f.mbits) (f.emin - f.mbits)
      (packFinite f n (roundAt .rz 0 n m e false q).1 q, st)

/-- Minimum or maximum (R188). -/
def fminmax (st : FEnv) (f : FFmt) (isMax : Bool) (x y : FVal) : Nat × FEnv :=
  match nanOf st.md f [x, y] with
  | some b => (b, st)
  | none =>
    let takeX := match fcompare true x y with
      | .lt => !isMax
      | .gt => isMax
      | .eq => true
    fbits st f (if takeX then x else y)

/-- A compare condition of VFCMP: 0 eq, 1 ne, 2 lt, 3 ge, 4 le, 5 gt, 6 un, 7 or (R203). -/
def fcond (st : FEnv) (cond : Nat) (x y : FVal) : Bool × FEnv :=
  let nan := x.isNan || y.isNan
  let o := fcompare false x y
  let ordered := cond == 2 || cond == 3 || cond == 4 || cond == 5
  let st := if nan && ordered then st.raise 16 else st
  (match cond with
    | 0 => !nan && o == .eq
    | 1 => nan || o != .eq
    | 2 => !nan && o == .lt
    | 3 => !nan && o != .lt
    | 4 => !nan && o != .gt
    | 5 => !nan && o == .gt
    | 6 => nan
    | _ => !nan, st)

/-! Integers (R177). -/

/-- Sat(x, fmt) of an integer format, with OF when the clamp acts (R177). -/
def satInt (st : FEnv) (signed : Bool) (w : Nat) (x : Int) : Int × FEnv :=
  let lo : Int := if signed then -(2 ^ (w - 1) : Nat) else 0
  let hi : Int := (if signed then (2 ^ (w - 1) : Nat) else (2 ^ w : Nat)) - 1
  if x < lo then (lo, st.raise 4) else if x > hi then (hi, st.raise 4) else (x, st)

/-- A lane read as an integer of a format. -/
def readInt (signed : Bool) (w : Nat) (x : Nat) : Int :=
  if signed then signedN x w else ((x % 2 ^ w : Nat) : Int)

/-- Float to integer (R189): NX when the rounding is inexact in range, NV when out of range. `steps` says
whether the conversion calls Round for each element: one from E2M1S does not (R185). -/
def floatToInt (st : FEnv) (steps : Bool) (signed : Bool) (w : Nat) (x : FVal) : Int × FEnv :=
  let lo : Int := if signed then -(2 ^ (w - 1) : Nat) else 0
  let hi : Int := (if signed then (2 ^ (w - 1) : Nat) else (2 ^ w : Nat)) - 1
  let rm := rmOf st.md
  let st := if rm = .rs ∧ steps then { st with lfsr := lfsrStep st.lfsr } else st
  match x with
  | .nan .. => (0, st.raise 16)
  | .inf n => (if n then lo else hi, st.raise 16)
  | .fin n m e =>
    let (k, inexact) := roundAt rm st.lfsr n m e false 0
    let v : Int := if n then -(k : Int) else k
    if v < lo then (lo, st.raise 16) else if v > hi then (hi, st.raise 16)
    else (v, if inexact then st.raise 1 else st)

/-- Integer to float (R189). -/
def intToFloat (st : FEnv) (f : FFmt) (x : Int) : Nat × FEnv :=
  fround st f (decide (x < 0)) x.natAbs 0 false

/-- Float to float (R189): exact to a wider or the same format, else Round; a NaN, which E2M1S
writes as 0b0000, calls it too (R185). -/
def floatToFloat (st : FEnv) (src dst : FFmt) (x : FVal) : Nat × FEnv :=
  let exact := src == dst || (decide (src.mbits ≤ dst.mbits) && decide (src.ebits ≤ dst.ebits)
    && decide (src.width < dst.width))
  let stepped : FEnv := if src = .e2m1 ∨ rmOf st.md ≠ .rs then st else { st with lfsr := lfsrStep st.lfsr }
  match x with
  | .nan n m =>
    if dst = .e2m1 then (0, stepped.raise 16)
    else (if st.md.getLsbD 4 then canonNan dst false else nanBits dst n m, st)
  | .inf n => if exact then (infBits dst n, st) else infResult st dst n
  | .fin n m e =>
    if dst = .e2m1 then
      if m = 0 then (0, stepped)
      else if src = .e2m1 then fbits st dst x
      else
        let (b, st) := fround st dst n m e false
        (if b = 8 then 0 else b, st)
    else if exact then fbits st dst x
    else fround st dst n m e false

/-! Dot products (R194). -/

/-- An element value with its block scale's NaN code kept apart. -/
structure DotBlock where
  xs : List (FVal × FVal)
  sa : Nat
  sb : Nat
  deriving Repr

/-- Is a product invalid (0 × ∞)? -/
def prodInvalid (x y : FVal) : Bool :=
  match x, y with
  | .inf _, w => w.isZero
  | w, .inf _ => w.isZero
  | _, _ => false

/-- The signs of the infinite products of a block. -/
def infSigns : List (FVal × FVal) → List Bool
  | [] => []
  | (x, y) :: rest =>
    match x, y with
    | .nan .., _ => infSigns rest
    | _, .nan .. => infSigns rest
    | .inf a, w => xor a w.neg :: infSigns rest
    | w, .inf b => xor w.neg b :: infSigns rest
    | _, _ => infSigns rest

/-- The first NaN element of a block, A before B (R194). -/
def firstNan : List (FVal × FVal) → Option (Bool × Nat)
  | [] => none
  | (.nan n m, _) :: _ => some (n, m)
  | (_, .nan n m) :: _ => some (n, m)
  | _ :: rest => firstNan rest

/-- A block's contribution: a NaN, an infinity, or the rounded block sum (R194). -/
inductive BlockSum where
  | nan (neg : Bool) (mant : Nat)
  | inf (neg : Bool)
  | fin (v : FVal)
  deriving DecidableEq, Repr

/-- Sum one block exactly, scale it, and round it once with RoundRNE; K elements past the operands' end are zeros (R194). -/
def blockSum (st : FEnv) (acc : FFmt) (b : DotBlock) : BlockSum × FEnv :=
  let invalid := b.xs.any fun p => prodInvalid p.1 p.2
  let signs := infSigns b.xs
  let bad := invalid || (signs.contains true && signs.contains false)
  let st1 := if bad then st.raise 16 else st
  if b.sa = 255 ∨ b.sb = 255 then (.nan false (2 ^ 51), st1)
  else
    match firstNan b.xs with
    | some (n, m) => (.nan n m, st1)
    | none =>
      if bad then (.nan false (2 ^ 51), st1)
      else match signs with
        | s :: _ => (.inf s, st)
        | [] =>
          let terms := b.xs.filterMap fun p =>
            match p.1, p.2 with
            | .fin a m e, .fin c m2 e2 => some (xor a c, m * m2, e + e2)
            | _, _ => none
          let terms := if b.xs.length < 32 then terms ++ [(false, 0, 0)] else terms
          let (n, e) := exactSum terms
          let sc : Int := (b.sa : Int) - 127 + ((b.sb : Int) - 127)
          if n = 0 then (.fin (.fin (zeroSign .rne terms) 0 0), st)
          else
            let (bits, st) := froundRne st acc (decide (n < 0)) n.natAbs (e + sc)
            (.fin (fread 0 acc bits), st)

/-- Add a block into an accumulator, rounded with Round; under RS the add steps the seed whatever it adds
(R194). -/
def addBlock (st : FEnv) (acc : FFmt) (a : Nat) (b : BlockSum) : Nat × FEnv :=
  let av := fread st.md acc a
  let (r, st1) := match b with
    | .nan n m => ((nanOf st.md acc [av, .nan n m]).getD (canonNan acc false), st)
    | .inf n => fadd st acc av (.inf n)
    | .fin v => fadd st acc av v
  (r, if rmOf st.md = .rs ∧ st1.lfsr = st.lfsr then { st1 with lfsr := lfsrStep st.lfsr } else st1)

/-- Dot of R194, floating: blocks in increasing order. -/
def dot (acc : FFmt) : List DotBlock → Nat → FEnv → Nat × FEnv
  | [], a, st => (a, st)
  | b :: bs, a, st =>
    let (s, st1) := blockSum st acc b
    let (a1, st2) := addBlock st1 acc a s
    dot acc bs a1 st2

/-- Val of an E2M1S code without its block scale (R179): the spare value where it applies, NaN where
the spare says so. -/
def valE2m1s (code spare : Nat) : FVal :=
  if code = 8 ∧ spare ≠ 0 then
    if spare = 0x7F ∨ spare = 0xFF then .nan false (2 ^ 51) else fread 0 .e4m3 spare
  else fread 0 .e2m1 code

/-! The matrix engine's block (R195). -/

/-- RoundRNEInt of m × 2^e. -/
def rneInt (m : Nat) (e : Int) : Nat := (roundAt .rne 0 false m e false 0).1

/-- Exponent of the largest element of a block. -/
def alignExp : List FVal → Option Int
  | [] => none
  | .fin _ m e :: rest =>
    let r := alignExp rest
    if m = 0 then r
    else
      let x := (Nat.log2 m : Int) + e
      some (match r with | none => x | some y => max x y)
  | _ :: rest => alignExp rest

/-- Align (R195): the block exponent and the signed magnitudes. -/
def align (w : Nat) (xs : List FVal) : Int × List Int :=
  match alignExp xs with
  | none => (0, xs.map fun _ => 0)
  | some ex =>
    (ex, xs.map fun x => match x with
      | .fin n m e =>
        let k : Int := rneInt m (e + ((w : Int) - 1 - ex))
        if n then -k else k
      | _ => 0)

/-- The sum of products of two lists. -/
def dotInt : List Int → List Int → Int
  | x :: xs, y :: ys => x * y + dotInt xs ys
  | _, _ => 0

/-- CimBlock (R195) with the exponents of its two scales: t = 0 gives +0; non-finite elements follow
R194. -/
def cimBlock (st : FEnv) (wa wb : Nat) (a b : List FVal) (sa sb : Int) (scaleNan : Bool) (err : Int := 0) :
    BlockSum × FEnv :=
  let finite (v : FVal) : Bool := match v with | .fin .. => true | _ => false
  if scaleNan then blockSum st .fp32 { xs := a.zip b, sa := 255, sb := 127 }
  else if a.all finite && b.all finite then
    let (ea, ma) := align wa a
    let (eb, mb) := align wb b
    let t := dotInt ma mb + err
    if t = 0 then (.fin (.fin false 0 0), st)
    else
      let (bits, st) := froundRne st .fp32 (decide (t < 0)) t.natAbs
        (ea + eb - ((wa : Int) - 1) - ((wb : Int) - 1) + sa + sb)
      (.fin (fread 0 .fp32 bits), st)
  else blockSum st .fp32 { xs := a.zip b, sa := 127, sb := 127 }

/-! Element types (R117). -/

/-- The floating type of a code of R117. -/
def fmtOf (t : BitVec 3) : FFmt :=
  match t.toNat with
  | 0 => .fp64 | 1 => .fp32 | 2 => .bf16 | 3 => .fp16 | 4 => .e4m3 | 5 => .e5m2 | _ => .e2m1

/-- The width of an integer type. -/
def intWidth (t : BitVec 3) : Nat := 8 * 2 ^ (t.toNat % 4)

/-- Is an integer type signed? -/
def intSigned (t : BitVec 3) : Bool := decide (t.toNat < 4)

/-- The floating format of a format code (R181). -/
def fmtOfCode (c : Nat) : Option FFmt :=
  match c with
  | 1 => some .fp64 | 2 => some .fp32 | 3 => some .bf16 | 4 => some .fp16 | 5 => some .e4m3
  | 6 => some .e5m2 | 7 => some .e2m1 | _ => none

end Sys2Proof.Machine
end

