-- ==== Sys2Proof/Machine/Window.lean ====
section
/-!
DEFINITION. The system window (R389): the controller mailboxes, the translation agent (R231, R234), the group table
(R341), the lease records (R240), the fence doublewords (R392) and the error log (R390), reached at S level. Places whose
layout the spec does not give read as free values, and stores to them leave the model (log 15).
-/

namespace Sys2Proof.Machine

/-- Is a physical address in system space: from 0x0800_0000_0000 up (R225)? -/
def isSystemSpace (pa : Nat) : Bool := decide (2 ^ 43 ≤ pa % 2 ^ 52)

/-- Block, die and offset of a system-space address (R389; log 9): below bit 51 no block of the window lies. -/
def sysBlock (pa : Nat) : Nat := if pa.testBit 51 then nfld pa 44 7 else 7

/-- The die field. -/
def sysDie (pa : Nat) : Nat := nfld pa 41 3

/-- The offset field. -/
def sysOffset (pa : Nat) : Nat := nfld pa 0 41

/-- An error record as 256 bits (R390). -/
def ErrRecord.bits (r : ErrRecord) : Nat :=
  r.time % 2 ^ 64 * 2 ^ 192 + r.addr.toNat * 2 ^ 128 + r.epc.toNat * 2 ^ 64 + r.unit.toNat * 2 ^ 48
    + r.cls.toNat * 2 ^ 40 + r.code.toNat

/-- The record in a slot of the ring (R390). -/
def logSlot (s : State) (i : Nat) : Nat :=
  let h := fld s.hw.logHead 0 63
  let back := (h + 4096 - 1 - i) % 4096
  if back < s.hw.log.length then
    match s.hw.log[s.hw.log.length - 1 - back]? with
    | some r => r.bits
    | none => 0
  else 0

/-- The lease record of an id, or zero: this device's own lease before a borrowed one (R240). -/
def leaseBits (s : State) (id : Nat) : Nat :=
  let named := s.hw.leases.filter fun l => nfld l.record.toNat 280 12 == id
  match (named.find? fun l => nfld l.record.toNat 292 12 == s.loc.dev.toNat).or named.head? with
  | some l => l.record.toNat
  | none => 0

/-! Fence doublewords (R390, R392). -/

/-- Log an event of the controller. -/
def logClass (s : State) (cls : BitVec 8) (unit : BitVec 16) (addr : Word) : State :=
  logError s { time := s.clock.ref, addr := addr, epc := 0, unit := unit, cls := cls, code := 0 }

/-- UNIT of a fence unit (R390). -/
def unitField : FenceUnit → BitVec 16
  | .core n => BitVec.ofNat 16 (n % 1024)
  | .cluster m => BitVec.ofNat 16 (1 * 2 ^ 13 + m % 128)
  | .channel c => BitVec.ofNat 16 (2 * 2 ^ 13 + c % 64)
  | .port p => BitVec.ofNat 16 (3 * 2 ^ 13 + p % 4)

/-- The die that owns a unit (R7, R392). -/
def unitDie : FenceUnit → Nat
  | .core n => n / 1024
  | .cluster m => m / 128
  | .channel c => c / 64
  | .port p => p / 4

/-- Log an event of a unit, in the log of the die that owns it; only this die's is held (R390). -/
def logUnit (s : State) (cls : BitVec 8) (u : FenceUnit) : State :=
  if unitDie u = s.loc.die.toNat then logClass s cls (unitField u) 0 else s

/-- The unit of a kind and an index within a die (R390). -/
def unitAt (die : Nat) : Nat × Nat → Option FenceUnit
  | (0, i) => if i < 1024 then some (.core (1024 * die + i)) else none
  | (1, i) => if i < 128 then some (.cluster (128 * die + i)) else none
  | (2, i) => if i < 64 then some (.channel (64 * die + i)) else none
  | (3, i) => if i < 4 then some (.port (4 * die + i)) else none
  | _ => none

/-- The fence doubleword of a unit; its reset deadline is 100,000 µs. -/
def fenceOf (s : State) (u : FenceUnit) : Fence :=
  (s.hw.fences.find? fun f => f.unit == u).getD { unit := u, state := 0, deadline := 100000 }

/-- Put a fence doubleword back. -/
def putFence (s : State) (f : Fence) : State :=
  { s with hw := { s.hw with fences := (s.hw.fences.filter fun g => g.unit != f.unit) ++ [f] } }

/-- Write the state of a fence doubleword. -/
def setFence (s : State) (u : FenceUnit) (st : BitVec 2) : State := putFence s { fenceOf s u with state := st }

/-- A fence doubleword: the state, and the deadline (R392). -/
def Fence.word (f : Fence) : Nat := f.state.toNat + f.deadline.toNat * 2 ^ 32

/-- A write of a fence doubleword: the deadline, and FENCE of a unit that is IN, or UNFENCE of one that is FENCED or
SPARED; a write that would skip a state is ignored and logged (R392). -/
def writeFence (s : State) (u : FenceUnit) (w : Nat) : State :=
  let f := fenceOf s u
  let s1 := putFence s { f with deadline := BitVec.ofNat 32 (w / 2 ^ 32) }
  if w % 4 = f.state.toNat then s1
  else if f.state = 0 ∧ w % 4 = 1 then send s1 (.unitFence u)
  else if 2 ≤ f.state.toNat ∧ w % 4 = 0 then send s1 (.unfence u)
  else logUnit s 0 u

/-- The unit whose fence doubleword lies at a system-space address (log 85). -/
def fenceUnitOf (pa : Nat) : Option FenceUnit := (Config.fenceAt (sysOffset pa / 8)).bind (unitAt (sysDie pa))

/-- The number of this core in its device. -/
def myCore (s : State) : Nat := 8 * myCluster s + s.loc.core.toNat

/-! The translation agent's block (R231, R234; log 85). -/

/-- A store to the agent of this die: MIGMAX, from 1 to 255, or the invalidation port. -/
def writeAgent (s : State) (pa size v : Nat) : State :=
  let off := sysOffset pa
  if sysDie pa ≠ s.loc.die.toNat then out s (.windowStore pa size v)
  else if off = Config.migmaxAt then
    if v % 2 ^ 8 = 0 then s
    else { s with hw := { s.hw with control := { s.hw.control with migmax := BitVec.ofNat 8 v } } }
  else if Config.invalAt ≤ off ∧ off < Config.invalAt + 24 then
    let s1 := writeNat s pa size v
    if Config.invalAt + 16 ≤ off then
      let d (k : Nat) : Word := BitVec.ofNat 64 (readNat s1 (pa - off + Config.invalAt + 8 * k) 8)
      send s1 (.tlbInvalidation ((d 0).truncate 8) (d 1) (d 2))
    else s1
  else out s (.windowStore pa size v)

/-- The doubleword at an 8-byte aligned system-space address, where the model holds it. -/
def sysDword (s : State) (pa : Nat) : Option Nat :=
  let off := sysOffset pa
  if pa / 2 ^ 52 ≠ s.loc.dev.toNat then none
  else match sysBlock pa with
    | 0 => if off < 128 then some (readNat s pa 8) else none
    | 1 =>
      if sysDie pa ≠ s.loc.die.toNat then none
      else if off = Config.migmaxAt then some s.hw.control.migmax.toNat
      else if Config.invalAt ≤ off ∧ off < Config.invalAt + 24 then some (readNat s pa 8)
      else none
    | 2 => if h : off / 16 < 64 then some (nfld (s.exchange.groups[off / 16]'h).toNat (off % 16 * 8) 64) else none
    | 3 => if off < 4096 * 64 then some (nfld (leaseBits s (off / 64)) (off % 64 * 8) 64) else none
    | 5 => (fenceUnitOf pa).map fun u => (fenceOf s u).word
    | 6 =>
      if sysDie pa ≠ s.loc.die.toNat then none
      else if off = 0 then some s.hw.logHead.toNat
      else if 64 ≤ off ∧ off < 64 + 4096 * 32 then
        some (nfld (logSlot s ((off - 64) / 32)) ((off - 64) % 32 * 8) 64)
      else none
    | _ => none

/-- The doublewords of an access, where the model holds them all. -/
def sysDwords (s : State) (pa : Nat) : Nat → Option Nat
  | 0 => some 0
  | n + 1 => do
    let lo ← sysDword s pa
    let hi ← sysDwords s (pa + 8) n
    some (lo + 2 ^ 64 * hi)

/-- Read an aligned access of a size up to 32 bytes. -/
def sysRead (s : State) (pa size : Nat) : Nat × State :=
  let base := pa / 8 * 8
  match sysDwords s base ((size + 7) / 8) with
  | some x => (nfld (x >>> (pa % 8 * 8)) 0 (8 * size), s)
  | none => let (x, s') := takeFree s; (nfld x.toNat 0 (8 * size), s')

/-- A group record with its must-be-zero bits clear (R341). -/
def groupMask (r : Nat) : BitVec 128 := BitVec.ofNat 128 (setFld r 13 15 0)

/-- The group number of a phase starts again when its record becomes valid (R345). -/
def groupValid (old new : BitVec 128) (ps : List Phase) : List Phase :=
  if !old.getLsbD 12 && new.getLsbD 12 then
    ps.map fun p => if p.gid = new.truncate 12 then { p with seq := 0 } else p
  else ps

/-- Write an aligned access: group records, mailboxes, the agent's registers and fence doublewords are written, read-only
places are not, and a store to any other place leaves the model. -/
def sysWrite (s : State) (pa size v : Nat) : State :=
  let off := sysOffset pa
  if pa / 2 ^ 52 ≠ s.loc.dev.toNat then out s (.windowStore pa size v)
  else match sysBlock pa with
    | 0 => if off + size ≤ 128 then writeNat s pa size v else out s (.windowStore pa size v)
    | 2 =>
      if h : off / 16 < 64 then
        let old := s.exchange.groups[off / 16]'h
        let new := groupMask (setFld old.toNat (off % 16 * 8) (8 * size) v)
        { s with exchange := { s.exchange with
          groups := s.exchange.groups.set (off / 16) new h
          phases := groupValid old new s.exchange.phases } }
      else out s (.windowStore pa size v)
    | 1 => writeAgent s pa size v
    | 3 => s
    | 5 =>
      match fenceUnitOf pa with
      | some u => writeFence s u (setFld (fenceOf s u).word (pa % 8 * 8) (8 * size) v)
      | none => out s (.windowStore pa size v)
    | 6 => s
    | _ => out s (.windowStore pa size v)

end Sys2Proof.Machine
end

