-- ==== Sys2Proof/Machine/Mem.lean ====
section
/-!
DEFINITION. Thread accesses: the checks of R172, what an access does at its home (R171, R173, R174,
R238, R239, R243, R249 to R255, R260), loads, stores, atomics, LLK, SUL, SUN, MST, VLD, VST, RES and the
fences (R256 to R259).
-/

namespace Sys2Proof.Machine

/-! Checks (R172). -/

/-- A generic address with aperture 0x01 written as its aperture 0x02 equivalent (R246). -/
def normEa (s : State) (ea : Word) : Word :=
  if fld ea 56 8 = 1 then BitVec.ofNat 64 (2 * 2 ^ 56 + myCluster s * 2 ^ 21 + fld ea 0 21) else ea

/-- Does an access of n bytes meet a lock of the range-lock table that refuses it (R246)? -/
def rangeLocked (s : State) (ea : Word) (n : Nat) (writes : Bool) : Bool :=
  let lo := (normEa s ea).toNat
  s.cluster.ranges.any fun r =>
    (r.write || writes) && decide (lo ≤ r.hi.toNat) && decide (r.lo.toNat < lo + n)

/-- Is a physical address in the system area of a scratchpad: its top 1,536 bytes (R24, R224)? -/
def inClusterSystemArea (pa : Nat) : Bool :=
  decide (nfld pa 40 12 = 2) && decide (0x17FA00 ≤ nfld pa 0 21)

/-- Does a physical address lie in the core's TCM below BOUND (R106)? -/
def belowBound (s : State) (pa : Nat) : Bool :=
  decide (tcmBase s ≤ pa) && decide (pa < tcmBase s + fld s.core.sys.xbound 0 16)

/-- Has the lease of a leased place passed its eviction bound (R244)? -/
def leaseReached (s : State) (p : Place) : Bool :=
  p.lease != 0 && s.hw.leases.any fun l =>
    l.reached && nfld l.record.toNat 280 12 == p.lease.toNat && nfld l.record.toNat 292 12 == fld p.pte 52 12

/-- Thread rules of an aperture before translation: the system window, aperture 0x04, an atomic or a
multicast store of untranslated memory (R224, R250, R260). -/
def apertureProt (ea : Word) (level : Level) (acc : AccType) : Bool :=
  let ap := fld ea 56 8
  if 0xF0 ≤ ap then level != .s || acc == .atomic || acc == .mst
  else if ap = 0x04 then acc.writes
  else acc == .mst && ap != 0x10

/-- Aperture and address bits, checks 2 and 3 of R172 with translation and permission. -/
def reach (s : State) (xroot : Word) (level : Level) (ea : Word) (acc : AccType) :
    State × Except Cause Place :=
  if 0xF0 ≤ fld ea 56 8 ∧ fld ea 56 8 ≤ 0xF6 then
    if apertureProt ea level acc then (s, .error 6) else translate s xroot level ea acc
  else match translate s xroot level ea acc with
    | (s1, .error c) => (s1, .error c)
    | (s1, .ok p) => if apertureProt ea level acc then (s1, .error 6) else (s1, .ok p)

/-- Checks 4 to 7 of R172 for a translated place, and the atomic to the system window (R250). -/
def placeFault (s : State) (level : Level) (ea : Word) (n : Nat) (acc : AccType) (p : Place) :
    Option Cause :=
  if level ≠ .s ∧ (belowBound s p.pa ∨ inClusterSystemArea p.pa) then some 6
  else if (acc = .atomic ∨ acc = .mst) ∧ isSystemSpace p.pa then some 6
  else if rangeLocked s ea n acc.writes then some 12
  else if acc = .mst ∧ p.layout ≠ 2 then some 6
  else if p.layout = 2 ∧ acc.writes ∧ acc ≠ .mst then some 13
  else if leaseReached s p then some 14
  else none

/-- All checks of R172 in their order, for an access of `n` bytes aligned to `n`. -/
def checkAccess (s : State) (ea : Word) (n : Nat) (acc : AccType) : State × Except Cause Place :=
  if ea.toNat % n ≠ 0 then (s, .error 3)
  else match reach s s.ctx.user.xroot s.ctx.level ea acc with
    | (s1, .error c) => (s1, .error c)
    | (s1, .ok p) =>
      match placeFault s1 s1.ctx.level ea n acc p with
      | some c => (s1, .error c)
      | none => (s1, .ok p)

/-! Lock bits of the scratchpad banks (R251, R252). -/

/-- The lock bit of a scratchpad word: cluster, bank and bit as one number (R252). -/
def lockKey (pa : Nat) : Nat :=
  let w := nfld pa 0 21 / 4
  let r := w / 3072
  let bit := (r ^^^ (r >>> 2) ^^^ (r >>> 4) ^^^ (r >>> 6)) % 4
  ((pa / 2 ^ 21) * 3072 + w % 3072) * 4 + bit

/-- The lock bits an access touches. -/
def lockKeys (pa : Nat) (n : Nat) : List Nat :=
  (List.range ((n + 3) / 4)).map fun i => lockKey (pa / 4 * 4 + 4 * i)

/-- Is a physical address in a scratchpad (R225)? -/
def inScratch (pa : Nat) : Bool := decide (nfld pa 40 12 = 2)

/-- Does the bank refuse the access, because another requester holds a lock bit it needs (R252)? -/
def lockRefuses (s : State) (pa n : Nat) (who : BitVec 36) : Bool :=
  inScratch pa && (lockKeys pa n).any fun k => s.cluster.locks.any fun l => l.1 == k && l.2 != who

/-! Leases (R243). -/

/-- What the lessor does with an access. -/
inductive Route where
  | at (pa : Nat)
  | held
  | failed
  deriving DecidableEq, Repr

/-- Is a page's copy in progress (R242)? -/
def pageInCopy (s : State) (id : BitVec 12) (page : Nat) : Bool :=
  s.agenda.any fun m => match m with
    | .demotionPageCopy i p => i == id && p == page
    | _ => false

/-- Does the region of a lease hold a physical address (R240)? -/
def Lease.has (l : Lease) (pa : Nat) : Bool :=
  let r := l.record.toNat
  decide (nfld r 384 64 ≤ pa) && decide (pa < nfld r 384 64 + nfld r 320 9 * 2 ^ 30)

/-- STATE of a lease (R240). -/
def Lease.state (l : Lease) : Nat := nfld l.record.toNat 316 4

/-- The lease that an access to an address is under: the one whose LEASEID its translation carries, else one that has
not ended (R240, R243). -/
def leaseUnder (s : State) (pa : Nat) (id : BitVec 16) : Option Lease :=
  let ls := s.hw.leases.filter fun l => l.has pa
  ((ls.find? fun l => id != 0 && nfld l.record.toNat 280 12 == id.toNat && (l.state != 3 || l.reached)).or
    (ls.find? fun l => l.state != 3))

/-- Where the lessor serves an access (R243, R244). -/
def leaseRoute (s : State) (pa : Nat) (id : BitVec 16) : Route :=
  match leaseUnder s pa id with
  | none => .at pa
  | some l =>
    let r := l.record.toNat
    let off := pa - nfld r 384 64
    let page := off / 2 ^ 16
    if l.reached then .failed
    else if l.state = 0 then .at pa
    else if l.failed.contains page then .failed
    else if page < l.copied then .at (nfld r 448 64 + off)
    else if nfld r 292 12 == s.loc.dev.toNat && pageInCopy s (BitVec.ofNat 12 (nfld r 280 12)) page then .held
    else .at pa

/-! At the home. -/

/-- How an access ends at its home. -/
inductive HomeOut where
  | value (x : VReg) (flags : BitVec 5)
  | stored
  | failed (c : Cause)
  /-- a lock bit is held by another: the hardware retries (R252) -/
  | refused
  /-- the page is being copied by its lessor (R243) -/
  | held
  deriving DecidableEq, Repr

/-- A write of whole granules leaves them without error. -/
def eccClear (s : State) (pa n : Nat) : State :=
  { s with badEcc := s.badEcc.filter fun g =>
    !(decide (pa ≤ (eccGranule g).1) && decide ((eccGranule g).1 + (eccGranule g).2 ≤ pa + n)) }

/-- Store a number: a granule in error that is written in part fails (R173, R398; log 16). -/
def storeAt (s : State) (pa n v : Nat) (lay : BitVec 2 := 0) : State × HomeOut :=
  let s1 := eccClear s pa n
  if eccBad s1 pa n then (logEcc s pa lay, .failed 17) else (writeNat s1 pa n v, .stored)

/-- The new value of an atomic and its flags (R249). -/
def atomNew (fn : BitVec 4) (z : Nat) (old x cmp : Nat) (mode : Word) (seed : W32) : Nat × BitVec 5 :=
  let w := 8 * z
  let so := signedN old w
  let sx := signedN x w
  match fn.toNat with
  | 0 => ((old + x) % 2 ^ w, 0)
  | 1 => (old &&& x, 0)
  | 2 => (old ||| x, 0)
  | 3 => (old ^^^ x, 0)
  | 4 => (if so ≤ sx then old else x, 0)
  | 5 => (if so ≤ sx then x else old, 0)
  | 6 => (if old ≤ x then old else x, 0)
  | 7 => (if old ≤ x then x else old, 0)
  | 8 => (x, 0)
  | 9 => (if old = cmp then x else old, 0)
  | _ =>
    let f : FFmt := if z = 4 then .fp32 else .fp64
    let (r, st) := fadd { md := mode, lfsr := seed, flags := 0 } f (fread mode f old) (fread mode f x)
    (r, st.flags)

/-- Aligned stores to system space, at most 8 bytes at a time. -/
def sysStore (s : State) (pa v : Nat) : Nat → State
  | 0 => s
  | n + 1 => sysStore (sysWrite s pa 8 (v % 2 ^ 64)) (pa + 8) (v / 2 ^ 64) n

/-- Is a context id one of this core? -/
def ofCore (s : State) (who : BitVec 36) : Bool := (who.truncate 32 : BitVec 32) == (selfId s 0).truncate 32

/-- The context's LLK lock, where it covers an address and size (R255). -/
def llkMatches (s : State) (who : BitVec 36) (ea : Word) (size : Nat) : Option Bool :=
  match localSlot s who with
  | none => none
  | some i => (s.at i).llk.map fun l => l.ea == ea && l.size == size

/-- Release the lock of a context: of this core, or of another core whose lock bits are in this cluster. -/
def endLock (s : State) (who : BitVec 36) : State :=
  match localSlot s who with
  | some i => endLlk s i
  | none => s.modCluster fun c =>
    { c with locks := c.locks.filter fun p => p.2 != who, farLlk := c.farLlk.filter fun p => p.1 != who }

/-- Does a context hold a lock, and is it of this address and size? -/
def lockMatches (s : State) (a : Access) : Option Bool :=
  match localSlot s a.who with
  | some _ => llkMatches s a.who a.ea a.size
  | none => (s.cluster.farLlk.find? fun p => p.1 == a.who).map fun p => p.2.1 == a.ea && p.2.2 == a.size

/-- SUL at its home: store and release when the lock is held for this address and size (R255). -/
def sulAt (s : State) (a : Access) (pa : Nat) : State × HomeOut :=
  match lockMatches s a with
  | some true =>
    match storeAt s pa a.size (a.data.toNat % 2 ^ (8 * a.size)) a.layout with
    | (s1, .stored) => (endLock s1 a.who, .value 0 0)
    | (s1, o) => (endLock s1 a.who, o)
  | some false => (endLock s a.who, .value 2 0)
  | none => (s, .value 1 0)

/-- LLK takes the lock bits (R252): for a context of this core while its lock stands, for one of another core with a
record of the lock, the old one being released first (R255). -/
def takeLock (s : State) (a : Access) (pa : Nat) : State :=
  let take (t : State) : State := t.modCluster fun c =>
    { c with locks := c.locks ++ (lockKeys pa a.size).map fun k => (k, a.who) }
  match localSlot s a.who with
  | some _ => if llkMatches s a.who a.ea a.size = some true then take s else s
  | none =>
    if ofCore s a.who then s
    else take ((endLock s a.who).modCluster fun c => { c with farLlk := c.farLlk ++ [(a.who, a.ea, a.size)] })

/-- The effect of an access at a physical place that exists. -/
def memStep (s : State) (a : Access) (pa : Nat) : State × HomeOut :=
  match a.kind with
  | .load =>
    if eccBad s pa a.size then (logEcc s pa a.layout, .failed 17) else (s, .value (BitVec.ofNat 256 (readNat s pa a.size)) 0)
  | .store | .mst => storeAt s pa a.size (a.data.toNat % 2 ^ (8 * a.size)) a.layout
  | .atom fn =>
    if eccBad s pa a.size then (logEcc s pa a.layout, .failed 17)
    else
      let old := readNat s pa a.size
      let (new, fl) := atomNew fn a.size old (a.data.toNat % 2 ^ (8 * a.size))
        (a.cmp.toNat % 2 ^ (8 * a.size)) a.mode a.seed
      (writeNat s pa a.size new, .value (BitVec.ofNat 256 old) fl)
  | .llk =>
    if eccBad s pa a.size then (logEcc s pa a.layout, .failed 17)
    else (takeLock s a pa, .value (BitVec.ofNat 256 (readNat s pa a.size)) 0)
  | .sul => sulAt s a pa

/-- An access at its home. -/
def homeStep (s : State) (a : Access) : State × HomeOut :=
  if isSystemSpace a.pa then
    match a.kind with
    | .load => let (x, s1) := sysRead s a.pa a.size; (s1, .value (BitVec.ofNat 256 x) 0)
    | _ =>
      if a.size ≤ 8 then (sysWrite s a.pa a.size (a.data.toNat % 2 ^ (8 * a.size)), .stored)
      else (sysStore s a.pa a.data.toNat (a.size / 8), .stored)
  else match leaseRoute s a.pa a.lease with
    | .held => (s, .held)
    | .failed => (s, .failed 14)
    | .at pa =>
      if !physExists s pa a.layout then (s, .failed 15)
      else if a.kind ≠ .load ∧ lockRefuses s pa a.size a.who then (s, .refused)
      else memStep s a pa

/-! The order of requests at the banks (R253) and at a page that its lessor reclaims (R243). -/

/-- The bank port of a requester: its core in this cluster, or the fabric port (R253). -/
def bankPort (s : State) (who : BitVec 36) : Nat :=
  if (who.extractLsb' 10 22 : BitVec 22) = (selfId s 0).extractLsb' 10 22 then (who.extractLsb' 7 3).toNat else 8

/-- Do two accesses need one lock bit? -/
def shareLock (a b : Access) : Bool :=
  inScratch a.pa && inScratch b.pa && (lockKeys a.pa a.size).any fun k => (lockKeys b.pa b.size).contains k

/-- Does a request go ahead of another at a bank: raised before not raised, then the lower port (R253)? -/
def portAhead (raisedB raisedA : Bool) (portB portA : Nat) : Bool :=
  (raisedB && !raisedA) || (raisedB == raisedA && decide (portB < portA))

/-- Is a lock bit held by another than a context (R252)? -/
def keyHeld (s : State) (who : Option (BitVec 36)) (k : Nat) : Bool :=
  s.cluster.locks.any fun l => l.1 == k && some l.2 != who

/-- The port of an engine's, or of a host's, refused requests: a host stands at port 8 under a number of its own. -/
def lostPort (n : Nat) : Nat := n % 16

/-- Is a lock bit of some wanted by a request that was refused, stands ahead of a requester and can be served now (R253)?
One whose bits another holds is refused again in this cycle and takes no turn. -/
def waitsAhead (s : State) (keys : List Nat) (who : Option (BitVec 36)) (mine : Option Nat) (raised : Bool)
    (port : Nat) : Bool :=
  (s.agenda.any fun m => match m with
    | .lockRetry b _ =>
      let bk := lockKeys b.pa b.size
      some b.who != who && inScratch b.pa && (bk.any fun k => keys.contains k)
        && !(bk.any (keyHeld s (some b.who)))
        && portAhead (s.cluster.raised.contains b.who) raised (bankPort s b.who) port
    | _ => false)
  || s.cluster.lost.any fun l =>
      some l.1 != mine && (l.2.2.any fun k => keys.contains k) && !(l.2.2.any (keyHeld s none))
        && portAhead (decide (8 ≤ l.2.1)) raised (lostPort l.1) port

/-- Does a refused request wait at the bank ahead of an access (R253)? The holder of the bit is not held back. -/
def bankAhead (s : State) (a : Access) : Bool :=
  let keys := lockKeys a.pa a.size
  let holder := keys.any fun k => s.cluster.locks.any fun l => l.1 == k && l.2 == a.who
  a.kind != .load && !holder && inScratch a.pa
    && waitsAhead s keys (some a.who) none (s.cluster.raised.contains a.who) (bankPort s a.who)

/-- The lock bits of some bytes. -/
def byteKeys (ps : List (Option Nat)) : List Nat :=
  (ps.filterMap fun p => p.bind fun pa => if inScratch pa then some (lockKey pa) else none).eraseDups

/-- Does a bank refuse the write of an engine, or of a host: a context holds the bit, or a request waits ahead (R252,
R253)? -/
def engineRefused (s : State) (port : Nat) (keys : List Nat) : Bool :=
  (keys.any (keyHeld s none))
    || waitsAhead s keys none (some port) (decide (8 ≤ ((assoc port s.cluster.lost).getD (0, [])).1)) (lostPort port)

/-- The write of an engine is refused once more, or is served (R253). -/
def engineLost (s : State) (port : Nat) (keys : List Nat) : State := s.modCluster fun c =>
  { c with lost := setAssoc port (((assoc port c.lost).getD (0, [])).1 + 1, keys) c.lost }

/-- The requests that were refused and are passed over as others take lock bits they want: each counts a loss, and is
raised after 8 (R253). -/
def passOver (s : State) (who : BitVec 36) (keys : List Nat) : State :=
  let hit (b : Access) : Bool := b.who != who && inScratch b.pa && (lockKeys b.pa b.size).any fun k => keys.contains k
  let up := s.agenda.filterMap fun m => match m with
    | .lockRetry b n => if hit b && decide (7 ≤ n) && !s.cluster.raised.contains b.who then some b.who else none
    | _ => none
  { s with
    agenda := s.agenda.map fun m => match m with
      | .lockRetry b n => if hit b then .lockRetry b (n + 1) else m
      | _ => m
    cluster := { s.cluster with
      raised := s.cluster.raised ++ up
      lost := s.cluster.lost.map fun l =>
        if l.2.2.any fun k => keys.contains k then (l.1, l.2.1 + 1, l.2.2) else l } }

/-- The write of an engine is served: its turn is over, and those that it passed over count a loss. -/
def engineServed (s : State) (port : Nat) (keys : List Nat := []) : State :=
  let s1 := s.modCluster fun c => { c with lost := c.lost.filter fun l => l.1 != port }
  if keys = [] then s1 else passOver s1 (noSlot 0) keys

/-- Do two accesses of one core reach one page of a region whose lease is being reclaimed (R243)? -/
def samePage (s : State) (a b : Access) : Bool :=
  (a.who.truncate 32 : BitVec 32) == b.who.truncate 32 && a.pa / 2 ^ 16 == b.pa / 2 ^ 16
    && s.hw.leases.any fun l =>
      let r := l.record.toNat
      decide (nfld r 384 64 ≤ a.pa) && decide (a.pa < nfld r 384 64 + nfld r 320 9 * 2 ^ 30)
        && nfld r 316 4 != 0 && nfld r 316 4 != 3

/-! Results (R129, R173). -/

/-- Mark a register in error (R173): it reads zero and is not pending once the error is taken. -/
def markError (s : State) (i : Fin 11) (m : ErrMark) : State :=
  let s1 := if m.cls = 2 then deliverV s i m.num 0 else deliverG s i m.num 0
  let s2 :=
    if (s1.at i).framed then
      match saveAddr s1 (0x800 * i.val) with
      | none => s1
      | some pa =>
        let at' := pa + 0x648 + (if m.cls = 2 then 4 else 0)
        writeNat s1 at' 4 ((BitVec.ofNat 32 (readNat s1 at' 4)) ||| BitVec.twoPow 32 m.num.toNat).toNat
    else s1
  let c := s2.at i
  s2.setAt i { c with pend := { c.pend with marks := c.pend.marks ++ [m] } }

/-- A store error to be taken later (R173). -/
def noteStoreError (s : State) (i : Fin 11) (c : Cause) (ea : Word) : State :=
  let x := s.at i
  s.setAt i { x with pend := { x.pend with
    storeErr := x.pend.storeErr ++ [{ cls := 0, num := 0, cause := c, ea := ea }] } }

/-- The token of a remote MXCAP job has come: MXST keeps its rows (R294). -/
def endRemote (s : State) (i : Fin 11) (r : Result) : State :=
  match r.job with
  | none => s
  | some id => s.modAct i fun a =>
      { a with mxJobs := a.mxJobs.map fun j => if j.2.1 = id then (j.1, j.2.1, nfld r.value.toNat 0 32) else j }

/-- Its entry goes (R292). -/
def endRemoteEntry (s : State) (r : Result) : State :=
  match r.job with
  | none => s
  | some id => s.modCluster fun c => { c with remote := c.remote.filter fun y => y.1 != id }

/-- Has a copy to a launch port sent its message: the launch engine writes its token (R38, R39)? -/
def Job.sent (j : Job) : Bool := match j.op with
  | .launch .. => true
  | _ => false

/-- A job leaves the queue with its locks. -/
def dropJob (s : State) (id : Nat) : State :=
  unlockRange (s.modCluster fun c => { c with jobs := c.jobs.filter fun j => j.id != id }) id

/-- A token that another engine writes belongs to the job of this cluster that it names: a CPY to a launch port, whose
entry and lock go, or an MXCAP job (R131, R246, R290, R292). None where that has its token already. -/
def tokenJob (s : State) (r : Result) : Option (State × BitVec 36) :=
  match r.job with
  | none => some (s, r.who)
  | some id =>
    match s.cluster.remote.find? fun x => x.1 == id with
    | some x => some (s, x.2.1)
    | none =>
      match s.cluster.jobs.find? fun j => j.id == id && j.sent with
      | some j => some (send (dropJob s id) .copyStart, j.who)
      | none => none

/-- Write a result to a slot: flags before the register, the register pair before the token (R129, R131, R192). -/
def writeResult (s : State) (r : Result) (who : BitVec 36) : State :=
  match localSlot s who with
  | none => s
  | some i =>
    if r.cause ≠ 0 then markError s i { cls := r.cls, num := r.num, cause := r.cause, ea := r.ea }
    else
      let s1 := if r.flags = 0 then s else deliverFlags s i r.flags
      let s2 := match r.pair with
        | none => s1
        | some (d, x) => deliverG s1 i d x
      if r.token then deliverToken (endRemote s2 i r) i r.num (r.value.truncate 64)
      else if r.cls = 2 then deliverV s2 i r.num r.value
      else deliverG s2 i r.num (r.value.truncate 64)

/-- A result reaches its core, or goes on to it (R129). -/
def applyResult (s : State) (r : Result) : State :=
  if !ofCore s r.who then out s (.event (.resultArrival r))
  else match tokenJob s r with
    | none => s
    | some (s1, who) => writeResult (endRemoteEntry s1 r) r who

/-- Is a physical address outside the core's TCM and its cluster's scratchpad (R129)? -/
def outsideCluster (s : State) (pa : Nat) : Bool :=
  !(decide (tcmBase s ≤ pa) && decide (pa < tcmBase s + 2 ^ 15))
    && !(decide (scratchBase s (myCluster s) ≤ pa) && decide (pa < scratchBase s (myCluster s) + 2 ^ 21))

/-- The device of a place outside the core's TCM and its cluster's scratchpad. -/
def farDev (s : State) (pa : Nat) : Option (BitVec 12) :=
  if outsideCluster s pa then some (BitVec.ofNat 12 (pa / 2 ^ 52)) else none

/-- The result of an access, extended as its destination says (R171). -/
def accessResult (s : State) (a : Access) (x : VReg) (flags : BitVec 5) (cause : Cause) : Option Result :=
  let mk (cls : BitVec 3) (num : BitVec 5) (v : VReg) : Result :=
    { who := a.who, cls := cls, num := num, value := v, cause := cause, ea := a.ea, token := false
      flags := flags, pair := none, far := farDev s a.pa }
  match a.dst with
  | .none => none
  | .g r sext =>
    let w : Word := x.truncate 64
    some (mk 1 r (((if sext then sextN w (8 * a.size) else zextN w (8 * a.size)) : Word).zeroExtend 256))
  | .v r => some (mk 2 r x)

/-- The answer to a store (R173). -/
def storeAck (s : State) (a : Access) (cause : Cause) : Msg :=
  .storeAcknowledgement a.who cause a.ea (farDev s a.pa)

/-- An access performed as it issues: its result is written at once. -/
def performNow (s : State) (a : Access) : State :=
  let fail (s1 : State) (c : Cause) : State :=
    match accessResult s1 a 0 0 c with
    | some r => applyResult s1 r
    | none => noteStoreError s1 s1.core.cur c a.ea
  match homeStep s a with
  | (s1, .value x fl) =>
    match accessResult s1 a x fl 0 with
    | some r => applyResult s1 r
    | none => s1
  | (s1, .stored) => s1
  | (s1, .failed c) => fail s1 c
  | (s1, .refused) => send s1 (.accessAtHome a)
  | (s1, .held) => send s1 (.accessAtHome a)

/-- An access that arrives at its home (R250): what it did, and the message that answers it. A refused
access is retried ahead of everything sent since, and counts a loss where another takes a bit it wants (R253). -/
def arriveHome (s : State) (a : Access) (losses : Nat) : State :=
  let served (t : State) : State :=
    if a.kind ≠ .load ∧ inScratch a.pa then passOver t a.who (lockKeys a.pa a.size) else t
  match homeStep s a with
  | (s1, .value x fl) =>
    match accessResult s1 a x fl 0 with
    | some r => send (served s1) (.resultArrival r)
    | none => served s1
  | (s1, .stored) => send (served s1) (storeAck s1 a 0)
  | (s1, .failed c) =>
    match accessResult s1 a 0 0 c with
    | some r => send s1 (.resultArrival r)
    | none => send s1 (storeAck s1 a c)
  | (s1, .refused) => { s1 with agenda := .lockRetry a (losses + 1) :: s1.agenda }
  | (s1, .held) => { s1 with agenda := .accessAtHome a :: s1.agenda }

/-! Accesses in flight. -/

/-- The access a message carries to its home. -/
def accessOf : Msg → Option Access
  | .accessAtHome a => some a
  | .lockRetry a _ => some a
  | .mstStamp a _ => some a
  | .mstApply a _ _ _ => some a
  | _ => none

/-- Do two ranges of bytes overlap? -/
def overlaps (a n b m : Nat) : Bool := decide (a < b + m) && decide (b < a + n)

/-- Must an access wait for an earlier one: of the same context, below its order point or on overlapping
bytes (R174)? -/
def waitsFor (a b : Access) : Bool :=
  a.who == b.who && (decide (b.seq < a.after) || overlaps a.pa a.size b.pa b.size)

/-- May an access be performed before the messages before it? -/
def accessClear (pre : List Msg) (a : Access) : Bool :=
  pre.all fun m => match accessOf m with
    | some b => !waitsFor a b
    | none => true

/-- Does a message belong to an access of a context that is not complete? -/
def accessMsgOf (who : BitVec 36) (m : Msg) : Bool :=
  match m with
  | .storeAcknowledgement w _ _ _ => w == who
  | .resultArrival r => r.who == who && !r.token
  | _ => match accessOf m with
    | some b => b.who == who
    | none => false

/-- Is an access of a context outstanding? -/
def accessesOut (s : State) (who : BitVec 36) : Bool := s.agenda.any (accessMsgOf who)

/-- Is an access of a context outstanding that a later event must follow: one before its latest `.acq` (R324)? -/
def acquireOut (s : State) (who : BitVec 36) (point : Nat) : Bool :=
  s.agenda.any fun m => (accessOf m).any fun b => b.who == who && decide (b.seq < point)

/-- Is a write of a context outstanding? -/
def writesOut (s : State) (who : BitVec 36) : Bool :=
  s.agenda.any fun m => (accessOf m).any fun b => b.who == who && decide (b.kind ≠ .load)

/-- The sequencer die of a replicated access: its place lies in the replica of a die (R238). -/
def dieOfPlace (pa : Nat) : Nat := nfld pa 36 4 / 2

/-- Requests of the core outstanding outside its TCM and its cluster's scratchpad (R129); an MST is one, until its
sequencer's replica has applied it (R239), and a long access one, until it completes (log 80). -/
def outstanding (s : State) : Nat :=
  let mine (who : BitVec 36) : Bool := (localSlot s who).isSome
  (s.agenda.filter fun m => match m with
    | .storeAcknowledgement w _ _ far => mine w && far.isSome
    | .resultArrival r => mine r.who && !r.token && r.far.isSome
    | .mstApply a _ _ die => mine a.who && outsideCluster s a.pa && die.toNat == dieOfPlace a.pa
    | _ => match accessOf m with
      | some b => mine b.who && outsideCluster s b.pa
      | none => false).length
    + (s.core.lvu.filter fun e => e.places.any fun p => outsideCluster s p.pa).length

/-- Is an MST of the context not yet applied at the replica that serves its reads (R260)? -/
def mstPending (s : State) (e : Word) : Bool :=
  s.agenda.any fun m => match m with
    | .mstStamp a _ => a.who == me s
    | .mstApply a _ _ die => a.who == me s && die.toNat == replicaDie s e
    | _ => false

/-- Has the context a QMEM entry that makes a thread access stall (R263)? -/
def qmemStalls (s : State) (writes : Bool) : Bool :=
  s.core.lvu.any fun e => e.slot.toNat == s.core.cur.val && (match e.instr with
    | .qst .. | .qsct .. => true
    | .qld .. | .qgat .. => writes
    | _ => false)

/-- The access an instruction makes, once it has passed its checks. -/
structure Request where
  kind : AccKind
  ea : Word
  size : Nat
  data : VReg := 0
  cmp : Word := 0
  dst : Dst := .none
  acq : Bool := false
  rel : Bool := false
  deriving DecidableEq, Repr

/-- The place of a replicated access on a member die (R238). -/
def replicaPlace (pa : Nat) (die : BitVec 3) : Nat := setFld pa 36 4 (2 * die.toNat)

/-- The Access of a request at a place; an MST goes to the sequencer's replica (R239). -/
def Request.access (s : State) (q : Request) (p : Place) : Access :=
  let act := s.ctx.act
  { who := me s, seq := act.seq
    after := if q.rel then act.seq else if q.kind = .load then act.after else max act.after act.afterWr, kind := q.kind, ea := q.ea
    pa := if q.kind = .mst then replicaPlace p.pa (BitVec.ofNat 3 (fld p.pte 41 3)) else p.pa
    size := q.size, data := q.data, cmp := q.cmp, dst := q.dst, layout := p.layout
    lease := p.lease, mode := s.ctx.user.fmode, seed := s.ctx.user.lfsr }

/-- Make the destination pending (R129); g0 is not (R172). -/
def pendDst (c : Ctx) : Dst → Ctx
  | .none => c
  | .g r _ => c.pendG r true
  | .v r => c.pendV r true

/-- Count an access in program order; an acquire orders every later access after it (R174). -/
def countAccess (s : State) (acq : Bool) : State :=
  s.modAct s.core.cur fun a => { a with seq := a.seq + 1, after := if acq then a.seq + 1 else a.after }

/-- Is a place in the core's own TCM? -/
def inOwnTcm (s : State) (pa : Nat) : Bool :=
  decide (tcmBase s ≤ pa) && decide (pa < tcmBase s + 2 ^ 15)

/-- Make an access that has passed its checks: in the own TCM at once, unless it must wait for an earlier
one; elsewhere as a message to its home (R250). -/
def makeAccess (s : State) (q : Request) (p : Place) : State :=
  let a := q.access s p
  let s1 := countAccess s q.acq
  let m : Msg := match q.kind with
    | .mst => .mstStamp a (BitVec.ofNat 8 (fld p.pte 44 8))
    | _ => .accessAtHome a
  if inOwnTcm s p.pa ∧ accessClear s.agenda a then performNow s1 a
  else send (s1.mod fun c => pendDst c q.dst) m

/-- An access of an instruction: the stalls of R129, R260 and R263, the checks of R172, and the access. -/
def threadAccess (s : State) (acc : AccType) (q : Request) : State :=
  match checkAccess s q.ea q.size acc with
  | (s1, .error c) => trap s1 c q.ea
  | (s1, .ok p) =>
    if qmemStalls s1 acc.writes then stall s1
    else if outsideCluster s1 p.pa ∧ 64 ≤ outstanding s1 then stall s1
    else if q.kind = .load ∧ p.layout = 2 ∧ mstPending s1 p.pte then stall s1
    else retire (makeAccess s1 q p)

/-! Deferred errors (R173). -/

/-- The first error the context has not taken: marked registers, then failed stores. -/
def deferredError (c : Ctx) : Option (ErrMark × Bool) :=
  match c.pend.marks, c.pend.storeErr with
  | m :: _, _ => some (m, false)
  | [], m :: _ => some (m, true)
  | [], [] => none

/-- Take a deferred error: DETAIL is 1 for a store's (R366); the mark goes. -/
def takeDeferred (s : State) (m : ErrMark) (store : Bool) : State :=
  let s1 := s.mod fun c => { c with pend := { c.pend with
    marks := c.pend.marks.filter fun x => x != m
    storeErr := if store then c.pend.storeErr.drop 1 else c.pend.storeErr } }
  takeTrap s1 { code := m.cause, tval := m.ea, detail := if store then 1 else 0, rcl := m.cls, rnum := m.num }

/-- What a fence, HEXIT, CPACK and MIGRATE do first: wait for the context's accesses, and take the
errors they left (R173, R256; log 14). -/
def afterAccesses (s : State) (k : State → State) : State :=
  if accessesOut s (me s) then stall s
  else match deferredError s.ctx with
    | some (m, store) => takeDeferred s m store
    | none => k s

/-- What a release store does first: it takes the errors of failed stores (R173). -/
def afterStores (s : State) (k : State → State) : State :=
  if accessesOut s (me s) then stall s
  else match s.ctx.pend.storeErr with
    | m :: _ => takeDeferred s m true
    | [] => k s

/-! Loads and stores. -/

/-- LD (R171). -/
def execLd (d a : BitVec 5) (w : BitVec 4) (disp : BitVec 12) (s : State) :
    Host.Outcome State Fault Refusal :=
  let z := 2 ^ (w.toNat % 4)
  .next (threadAccess s .read
    { kind := .load, ea := eaM s a disp z, size := z, dst := .g d (w.getLsbD 2), acq := w.getLsbD 3 })

/-- The store of ST (R171). -/
def storeReq (s : State) (kind : AccKind) (r a : BitVec 5) (rel : BitVec 1) (z : BitVec 2)
    (disp : BitVec 12) : Request :=
  let n := 2 ^ z.toNat
  { kind := kind, ea := eaM s a disp n, size := n, data := (gv s r).zeroExtend 256, rel := rel = 1 }

/-- ST (R171). -/
def execSt (r a : BitVec 5) (rel : BitVec 1) (z : BitVec 2) (disp : BitVec 12) (s : State) :
    Host.Outcome State Fault Refusal :=
  .next (if rel = 1 then afterStores s fun s => threadAccess s .write (storeReq s .store r a rel z disp)
    else threadAccess s .write (storeReq s .store r a rel z disp))

/-- MST (R260). -/
def execMst (r a : BitVec 5) (rel : BitVec 1) (z : BitVec 2) (disp : BitVec 12) (s : State) :
    Host.Outcome State Fault Refusal :=
  .next (if rel = 1 then afterStores s fun s => threadAccess s .mst (storeReq s .mst r a rel z disp)
    else threadAccess s .mst (storeReq s .mst r a rel z disp))

/-- VLD (R261). -/
def execVld (v a : BitVec 5) (disp : BitVec 11) (s : State) : Host.Outcome State Fault Refusal :=
  .next (threadAccess s .read { kind := .load, ea := eaV s a disp, size := 32, dst := .v v })

/-- VST (R261). -/
def execVst (v a : BitVec 5) (disp : BitVec 11) (s : State) : Host.Outcome State Fault Refusal :=
  .next (threadAccess s .write { kind := .store, ea := eaV s a disp, size := 32, data := s.ctx.v v })

/-- RES: one word of a resource entry, as a double load (R160). -/
def execRes (d : BitVec 5) (word : BitVec 3) (k : BitVec 16) (s : State) :
    Host.Outcome State Fault Refusal :=
  .next (threadAccess s .read { kind := .load, ea := eaRes s word k.toNat, size := 8, dst := .g d false })

/-! Atomics (R249). -/

/-- The bytes of a size bit (R249). -/
def atomSize (z : BitVec 1) : Nat := if z = 1 then 8 else 4

/-- An atomic of function fn. -/
def atomic (fn : BitVec 4) (d a b : BitVec 5) (ord : BitVec 2) (z : BitVec 1) (s : State) : State :=
  let s1 := if fn = 10 then stepLfsr s else s
  let q : Request :=
    { kind := .atom fn, ea := gv s a, size := atomSize z, data := (gv s b).zeroExtend 256, cmp := gv s d
      dst := .g d false, acq := ord.getLsbD 0, rel := ord.getLsbD 1 }
  match checkAccess s q.ea q.size .atomic with
  | (s2, .error c) => trap s2 c q.ea
  | (s2, .ok p) =>
    if qmemStalls s2 true then stall s2
    else if outsideCluster s2 p.pa ∧ 64 ≤ outstanding s2 then stall s2
    else
      let s3 := makeAccess s2 q p
      retire (s3.mod fun c => { c with user := { c.user with lfsr := s1.ctx.user.lfsr } })

/-- AADD (R249). -/
def execAadd (d a b : BitVec 5) (ord : BitVec 2) (z : BitVec 1) (s : State) :
    Host.Outcome State Fault Refusal := .next (atomic 0 d a b ord z s)

/-- AAND (R249). -/
def execAand (d a b : BitVec 5) (ord : BitVec 2) (z : BitVec 1) (s : State) :
    Host.Outcome State Fault Refusal := .next (atomic 1 d a b ord z s)

/-- AOR (R249). -/
def execAor (d a b : BitVec 5) (ord : BitVec 2) (z : BitVec 1) (s : State) :
    Host.Outcome State Fault Refusal := .next (atomic 2 d a b ord z s)

/-- AXOR (R249). -/
def execAxor (d a b : BitVec 5) (ord : BitVec 2) (z : BitVec 1) (s : State) :
    Host.Outcome State Fault Refusal := .next (atomic 3 d a b ord z s)

/-- AMIN (R249). -/
def execAmin (d a b : BitVec 5) (ord : BitVec 2) (z : BitVec 1) (s : State) :
    Host.Outcome State Fault Refusal := .next (atomic 4 d a b ord z s)

/-- AMAX (R249). -/
def execAmax (d a b : BitVec 5) (ord : BitVec 2) (z : BitVec 1) (s : State) :
    Host.Outcome State Fault Refusal := .next (atomic 5 d a b ord z s)

/-- AMINW (R249). -/
def execAminw (d a b : BitVec 5) (ord : BitVec 2) (z : BitVec 1) (s : State) :
    Host.Outcome State Fault Refusal := .next (atomic 6 d a b ord z s)

/-- AMAXW (R249). -/
def execAmaxw (d a b : BitVec 5) (ord : BitVec 2) (z : BitVec 1) (s : State) :
    Host.Outcome State Fault Refusal := .next (atomic 7 d a b ord z s)

/-- ASWP (R249). -/
def execAswp (d a b : BitVec 5) (ord : BitVec 2) (z : BitVec 1) (s : State) :
    Host.Outcome State Fault Refusal := .next (atomic 8 d a b ord z s)

/-- ACAS (R249). -/
def execAcas (d a b : BitVec 5) (ord : BitVec 2) (z : BitVec 1) (s : State) :
    Host.Outcome State Fault Refusal := .next (atomic 9 d a b ord z s)

/-- AFADD (R249). -/
def execAfadd (d a b : BitVec 5) (ord : BitVec 2) (z : BitVec 1) (s : State) :
    Host.Outcome State Fault Refusal := .next (atomic 10 d a b ord z s)

/-! LLK, SUL, SUN (R254, R255). -/

/-- LLK and SUL reach a scratchpad through aperture 0x01 or 0x02 or a translated page, or fault APERTURE
(R254). -/
def llkTarget (ea : Word) (p : Place) : Bool :=
  (fld ea 56 8 == 1 || fld ea 56 8 == 2 || fld ea 56 8 == 0x10) && inScratch p.pa

/-- LLK: a lock the context already holds is released first (R255). -/
def execLlk (d a : BitVec 5) (z : BitVec 1) (s : State) : Host.Outcome State Fault Refusal :=
  let ea := gv s a
  let n := atomSize z
  .next (match checkAccess s ea n .atomic with
    | (s1, .error c) => trap s1 c ea
    | (s1, .ok p) =>
      if !llkTarget ea p then trap s1 4 ea
      else if qmemStalls s1 true ∨ (s1.ctx.llk.any fun l => l.closing) then stall s1
      else if outsideCluster s1 p.pa ∧ 64 ≤ outstanding s1 then stall s1
      else
        let s2 := (endLlk s1 s1.core.cur).mod fun c =>
          { c with llk := some { ea := ea, pa := p.pa, size := n, issued := 0, stalled := 0, closing := false } }
        retire (makeAccess s2 { kind := .llk, ea := ea, size := n, dst := .g d false } p))

/-- SUL: its status is what the bank finds (R255). -/
def execSul (d a b : BitVec 5) (z : BitVec 1) (s : State) : Host.Outcome State Fault Refusal :=
  let ea := gv s a
  let n := atomSize z
  .next (match checkAccess s ea n .atomic with
    | (s1, .error c) => trap s1 c ea
    | (s1, .ok p) =>
      if !llkTarget ea p then trap s1 4 ea
      else if qmemStalls s1 true then stall s1
      else if outsideCluster s1 p.pa ∧ 64 ≤ outstanding s1 then stall s1
      else
        let s2 := s1.mod fun c => { c with llk := c.llk.map fun l => { l with closing := true } }
        retire (makeAccess s2
          { kind := .sul, ea := ea, size := n, data := (gv s b).zeroExtend 256, dst := .g d false } p))

/-- SUN compares the address only and releases (R254, R255). -/
def execSun (d a : BitVec 5) (s : State) : Host.Outcome State Fault Refusal :=
  .next (match s.ctx.llk with
    | none => retire (wg s d 1)
    | some l =>
      if l.closing then stall s
      else retire (wg (endLlk s s.core.cur) d (if l.ea = gv s a then 0 else 2)))

/-- The member dies of a mask. -/
def maskDies (mask : BitVec 8) : List (BitVec 3) :=
  ([0, 1, 2, 3, 4, 5, 6, 7] : List (BitVec 3)).filter fun d => mask.getLsbD d.toNat

/-- What the store does at one die's copy (R239). -/
def replicaStep (s : State) (a : Access) (pa : Nat) : State × HomeOut :=
  if physExists s pa then memStep s a pa else (s, .failed 15)

/-! Fences (R256 to R259). -/

/-- Does the rectangle of a scope hold no core (R257, R320)? -/
def scopeEmpty (scope : Word) : Bool :=
  decide (fld scope 16 8 < fld scope 0 8) || decide (fld scope 24 8 < fld scope 8 8)

/-- Is a read of a context outstanding: a load, VLD, atomic or LLK (R256)? -/
def readsOut (s : State) (who : BitVec 36) : Bool :=
  s.agenda.any fun m => match m with
    | .resultArrival r => r.who == who && !r.token
    | _ => match accessOf m with
      | some b => b.who == who && (match b.kind with
        | .load | .atom _ | .llk => true
        | _ => false)
      | none => false

/-- Take the first deferred error, or go on (R173). -/
def afterErrors (s : State) (k : State → State) : State :=
  match deferredError s.ctx with
  | some (m, store) => takeDeferred s m store
  | none => k s

/-- Every later access of the context is performed after the earlier ones. -/
def orderPoint (s : State) : State := s.modAct s.core.cur fun a => { a with after := a.seq }

/-- A fence: a malformed scope faults PROT (R321), it stalls while `waits` holds, and it collects deferred errors (R173,
R256). Every access is performed towards all cores at once at its home, so the drain of every level is one (R257). -/
def fenceOn (waits : Word → State → Bool) (k : State → State) (a : BitVec 5) (s : State) : State :=
  let scope := scopeOperand s a
  if scopeMalformed scope then trap s 6 scope
  else if waits scope s then stall s
  else afterErrors s fun s => retire (k s)

/-- FENCE: every earlier access of the context; a scope of no core orders the accesses among themselves and drains
nothing (R256, R257). -/
def execFence (a : BitVec 5) (s : State) : Host.Outcome State Fault Refusal :=
  .next (fenceOn (fun scope s => !scopeEmpty scope && accessesOut s (me s)) orderPoint a s)

/-- FENCEA: every earlier read; later accesses wait for nothing else (R256). -/
def execFencea (a : BitVec 5) (s : State) : Host.Outcome State Fault Refusal :=
  .next (fenceOn (fun _ s => readsOut s (me s)) id a s)

/-- Will an access or an answer in flight leave an error to the context, as things stand (R173)? -/
def failureOut (s : State) (who : BitVec 36) : Bool :=
  let fails (o : HomeOut) : Bool := match o with
    | .failed _ => true
    | _ => false
  s.agenda.any fun m => match m with
    | .accessAtHome a | .lockRetry a _ => a.who == who && fails (homeStep s a).2
    | .mstStamp a mask => a.who == who
        && (maskDies mask).any fun d => fails (replicaStep s a (replicaPlace a.pa d)).2
    | .mstApply a _ _ d => a.who == who && fails (replicaStep s a (replicaPlace a.pa d)).2
    | .storeAcknowledgement w cause _ _ => w == who && cause != 0
    | .resultArrival r => r.who == who && !r.token && r.cause != 0
    | _ => false

/-- FENCER: later writes and discharges are performed after every earlier access; later loads need not be, so the fence
itself waits only for an access that is to leave an error, which it collects (R173, R256; log 17). -/
def execFencer (a : BitVec 5) (s : State) : Host.Outcome State Fault Refusal :=
  .next (fenceOn (fun _ s => failureOut s (me s))
    (fun s => s.modAct s.core.cur fun x => { x with afterWr := x.seq }) a s)

/-- BFENCE: stores to bank-row pages are performed, bank jobs have written their tokens, and no acquire is
outstanding (R258, R324, R332). -/
def execBfence (s : State) : Host.Outcome State Fault Refusal :=
  let rowStore := s.agenda.any fun m => match accessOf m with
    | some b => b.who == me s && b.layout == 1 && decide (b.kind ≠ .load)
    | none => false
  .next (if rowStore ∨ acquireOut s (me s) s.ctx.act.after ∨ (s.banks.jobs.any fun j => j.who == me s) then stall s
    else retire s)

/-- QFENCE: no LVU entry of the context is incomplete (R216). -/
def execQfence (s : State) : Host.Outcome State Fault Refusal :=
  .next (if s.core.lvu.any fun e => e.slot.toNat == s.core.cur.val then stall s else retire s)

/-- EFENCE: every token is written, and the thread stores are performed (R259). -/
def execEfence (s : State) : Host.Outcome State Fault Refusal :=
  .next (if s.ctx.act.tokens ≠ [] ∨ accessesOut s (me s) then stall s else retire s)

/-! Events of accesses. -/

/-- ACCESS_AT_HOME (R250). -/
def execAccessAtHome (s : State) : Host.Outcome State Fault Refusal :=
  .next (match s.event with
    | some (.accessAtHome a) => arriveHome s a 0
    | _ => s)

/-- LOCK_RETRY: after 8 losses in a row the requester is raised until it is served (R253). -/
def execLockRetry (s : State) : Host.Outcome State Fault Refusal :=
  .next (match s.event with
    | some (.lockRetry a losses) =>
      let served := match (homeStep s a).2 with
        | .refused => false
        | _ => true
      let s1 := arriveHome s a losses
      s1.modCluster fun c => { c with raised :=
        if served then c.raised.filter fun w => w != a.who
        else if 8 ≤ losses + 1 ∧ !c.raised.contains a.who then c.raised ++ [a.who] else c.raised }
    | _ => s)

/-- STORE_ACKNOWLEDGEMENT: an error is kept for the next fence (R173). -/
def execStoreAcknowledgement (s : State) : Host.Outcome State Fault Refusal :=
  .next (match s.event with
    | some (.storeAcknowledgement who cause ea far) =>
      match localSlot s who with
      | some i => if cause = 0 then s else noteStoreError s i cause ea
      | none => if ofCore s who then s else out s (.event (.storeAcknowledgement who cause ea far))
    | _ => s)

/-- RESULT_ARRIVAL (R129, R173, R370). -/
def execResultArrival (s : State) : Host.Outcome State Fault Refusal :=
  .next (match s.event with
    | some (.resultArrival r) => applyResult s r
    | _ => s)

/-- LLK_LAPSE (R255). -/
def execLlkLapse (s : State) : Host.Outcome State Fault Refusal :=
  .next (match s.event with
    | some (.llkLapse who) => endLock s who
    | _ => s)

/-- A replica group, or a new one (R331). -/
def replicaOf (s : State) (mask : BitVec 8) (seqDie : BitVec 3) : Replica :=
  (s.hw.replicas.find? fun r => r.mask == mask && r.seqDie == seqDie).getD
    { mask := mask, seqDie := seqDie, stamp := 0, applied := [] }

/-- Put a replica group back. -/
def setReplica (s : State) (r : Replica) : State :=
  { s with hw := { s.hw with replicas :=
    (s.hw.replicas.filter fun x => !(x.mask == r.mask && x.seqDie == r.seqDie)) ++ [r] } }

/-- MST_STAMP: the sequencer gives the next stamp and forwards to every member (R239). -/
def execMstStamp (s : State) : Host.Outcome State Fault Refusal :=
  .next (match s.event with
    | some (.mstStamp a mask) =>
      let seqDie := BitVec.ofNat 3 (dieOfPlace a.pa)
      let r := replicaOf s mask seqDie
      let s1 := setReplica s { r with stamp := r.stamp + 1 }
      { s1 with agenda := (maskDies mask).map (fun d => Msg.mstApply a mask r.stamp d) ++ s1.agenda }
    | _ => s)

/-- What answers the store of one die: a failure at once, and the sequencing die's own application (R239). -/
def replicaAck (a : Access) (last : Bool) (r : State × HomeOut) : State :=
  match r.2 with
  | .failed c => send r.1 (storeAck r.1 a c)
  | _ => if last then send r.1 (storeAck r.1 a 0) else r.1

/-- A replica store applies at one die; the sequencing die's own application acknowledges it (R239, R331). -/
def mstApplyAt (s : State) (a : Access) (mask : BitVec 8) (stamp : Nat) (die : BitVec 3) : State :=
  let seqDie := BitVec.ofNat 3 (dieOfPlace a.pa)
  let r := replicaOf s mask seqDie
  let s1 := setReplica s { r with applied := setAssoc die (stamp + 1) r.applied }
  replicaAck a (die == seqDie) (replicaStep s1 a (replicaPlace a.pa die))

/-- MST_APPLY: a member applies stamps in order (R239, R331); a failed write is reported once. -/
def execMstApply (s : State) : Host.Outcome State Fault Refusal :=
  .next (match s.event with
    | some (.mstApply a mask stamp die) => mstApplyAt s a mask stamp die
    | _ => s)

end Sys2Proof.Machine
end

