-- ==== Sys2Proof/Machine/Fetch.lean ====
section
/-!
DEFINITION. Fetching: the checks of R104, the word due to issue (R103, R124, R136, R137), and the
capture of a repeat frame (R139, R140, R165).
-/

namespace Sys2Proof.Machine

/-- The word at a fetchable address (R103). -/
def fetchWord (s : State) (a : Word) : W32 := tcmWord s (fld a 0 15)

/-- Raise a 5-bit register field by a stagger, modulo 32. -/
def raiseField (w : W32) (lo : Nat) (by' : Nat) : W32 :=
  BitVec.ofNat 32 (setFld w.toNat lo 5 (nfld w.toNat lo 5 + by'))

/-- The captured word of a replay: each register field x becomes (x + i × stagger) mod 32 (R139). -/
def staggerWord (w : W32) (sd sa sb : BitVec 2) (iter : Nat) : W32 :=
  match decodeRaw w with
  | .error _ => w
  | .ok ins =>
    match frameFields ins with
    | none => w
    | some (d, a, b) =>
      let w1 := if d then raiseField w 21 (iter * sd.toNat) else w
      let w2 := if a then raiseField w1 16 (iter * sa.toNat) else w1
      if b then raiseField w2 11 (iter * sb.toNat) else w2

/-- The instruction of a word that a frame may hold (R139). -/
def frameInstr (long : Bool) (w : W32) : Option Instr :=
  match decode long w with
  | .error _ => none
  | .ok ins => if (frameFields ins).isSome then some ins else none

/-- The first word of one replay that may not be in a frame: its slot. -/
def replayBad (long : Bool) (sd sa sb : BitVec 2) (iter : Nat) : Nat → List W32 → Option (Nat × W32)
  | _, [] => none
  | j, w :: ws =>
    let w' := staggerWord w sd sa sb iter
    match frameInstr long w' with
    | none => some (j, w')
    | some _ => replayBad long sd sa sb iter (j + 1) ws

/-- The first illegal word of the replays from one on: replay, slot, word. -/
def framesBad (long : Bool) (sd sa sb : BitVec 2) (ws : List W32) : Nat → Nat → Option (Nat × Nat × W32)
  | 0, _ => none
  | n + 1, iter =>
    match replayBad long sd sa sb iter 0 ws with
    | some (j, w) => some (iter, j, w)
    | none => framesBad long sd sa sb ws n (iter + 1)

/-- How a capture ends (R165): the words, a fetch check, or an illegal word. -/
inductive Capture where
  | ok (ws : List W32)
  | check (cause : Cause) (addr : Word)
  | ill (iter slot : Nat) (word : W32)
  deriving DecidableEq, Repr

/-- The fields of every replay of captured words. Replays repeat their fields every 32, so 32 replays decide
(R139). -/
def captureFields (long : Bool) (f : RepFrame) (ws : List W32) : Capture :=
  match framesBad long f.sd f.sa f.sb ws (min 32 (f.cm1.toNat + 1)) 0 with
  | some (iter, j, w) => .ill iter j w
  | none => .ok ws

/-- Capture of a frame: the fetch checks of every word, then every replay's fields (R139, R165). -/
def capture (s : State) (long : Bool) (f : RepFrame) : Capture :=
  match captureWords s f.base (f.nm1.toNat + 1) with
  | .error (c, a) => .check c a
  | .ok ws => captureFields long f ws

/-- How the capture of a resumed frame ended (R140): its fetch checks were made at the return. -/
def recaptured (long : Bool) (f : RepFrame) : Capture :=
  match f.bad with
  | some (c, a) => .check c a
  | none => captureFields long f f.words

/-- A fetch check at capture: RPTST records the frame, EPC0 its position, TVAL the word (R165). -/
def captureCheck (s : State) (f : RepFrame) (c : Cause) (a : Word) : State :=
  takeTrap (s.mod fun x => { x with frame := some { f with words := [] } }) { code := c, tval := a }

/-- ILL at capture: ACTIVE clear, ITER and SLOT those of the word, TVAL the word; EPC0 names the RPT, also where
a resumed frame is captured again (R141, R165). DEDUCED: the word is as ITER replays it, its staggered fields moved (log
30). -/
def captureIll (s : State) (iter slot : Nat) (w : W32) : State :=
  takeTrap (s.mod fun c => match c.frame with
      | none => c
      | some f => { c with frame := none, queue := Queue.at (f.base - 4) })
    { code := 1, tval := w.zeroExtend 64, rpt := BitVec.ofNat 64 (iter * 2 ^ 4 + slot) }

/-- What is due to issue in a slot. -/
inductive Due where
  /-- a nullified slot of the queue (R136) -/
  | nullified
  /-- an address that fails a fetch check (R104) -/
  | check
  /-- a word that is no instruction here (R124, R137) -/
  | illegal
  /-- a resumed repeat frame whose capture failed (R140, R165) -/
  | recapture
  | ins (i : Instr)
  deriving DecidableEq, Repr

/-- May the instruction not issue from a delay slot (R137)? -/
def notInDelay : Instr → Bool
  | .rpt .. | .cpack .. | .migrate .. => true
  | _ => false

/-- What is due in a slot. -/
def due (s : State) (k : Fin 11) : Due :=
  let c := s.at k
  match c.frame with
  | some f =>
    if f.again && recaptured c.longMode f != .ok f.words then .recapture
    else match frameInstr c.longMode (staggerWord (f.words.getD f.slot.toNat 0) f.sd f.sa f.sb f.iter.toNat) with
      | none => .illegal
      | some i => .ins i
  | none =>
    if c.queue.n0 then .nullified
    else match fetchFault s c.queue.q0 with
      | some _ => .check
      | none =>
        match decode c.longMode (fetchWord s c.queue.q0) with
        | .error _ => .illegal
        | .ok i => if c.queue.d0 && notInDelay i then .illegal else .ins i

/-! Stalls on registers (R129, R130, R134). -/

/-- Is a register pending? A q register is not: the LVU queue keeps its order (R213). -/
def Ctx.isPending (c : Ctx) : Reg → Bool
  | .g r => c.pend.g.getLsbD r.toNat
  | .f r => c.pend.f.getLsbD (r.toNat % 16)
  | .v r => c.pend.v.getLsbD r.toNat
  | .k r => c.pend.k.getLsbD (r.toNat % 8)
  | .q _ => false

/-- Is any register of the context pending (R129, R85)? -/
def Ctx.anyPending (c : Ctx) : Bool := c.pend.g != 0 || c.pend.f != 0 || c.pend.v != 0 || c.pend.k != 0

/-- Is a stream the one in a register? -/
def Stream.isIn (st : Stream) : Reg → Bool
  | .g r => st.cls == 0 && st.reg == r
  | .v r => st.cls == 1 && st.reg == r
  | _ => false

/-- The active stream in a register (R134). -/
def Ctx.streamIn (c : Ctx) (r : Reg) : Option Stream := c.streams.find? fun st => st.isIn r

/-- The elements of a pattern (R133). -/
def patCount (pat : BitVec 256) : Nat :=
  nfld pat.toNat 160 16 * nfld pat.toNat 176 16 * nfld pat.toNat 192 16

/-- Has the stream no element to pop, though one is to come (R129)? -/
def Stream.starved (st : Stream) : Bool :=
  st.buf.isEmpty && st.fault.isNone && decide (st.popped < patCount st.pat)

/-- The SOPEN operand that must not be pending: the register to be a stream (R272). -/
def alsoReads : Instr → List Reg
  | .sopen _ _ r cls => [if cls = 0 then .g r else .v r]
  | _ => []

/-- Does an instruction stall on a pending register or a stream element (R130)? -/
def regStall (c : Ctx) (i : Instr) : Bool :=
  (reads i ++ writes i ++ alsoReads i).any c.isPending
    || (reads i).any fun r => match c.streamIn r with
      | some st => st.starved
      | none => false

/-- Does the instruction due in a slot stall on a register? -/
def dueStalls (s : State) (k : Fin 11) : Bool :=
  match due s k with
  | .ins i => regStall (s.at k) i
  | _ => false

/-! Pops (R134, R135). -/

/-- The owner of a stream's range lock. -/
def streamOwner (k : Fin 11) (st : Stream) : Nat := 2 ^ 20 + 64 * k.val + 32 * st.cls.toNat + st.reg.toNat

/-- Write a stream register with a popped element. -/
def Ctx.setReg (c : Ctx) (r : Reg) (x : VReg) : Ctx :=
  match r with
  | .g n => c.setG n (x.truncate 64)
  | .v n => c.setV n x
  | _ => c

/-- Replace a stream by what it becomes, or end it. -/
def Ctx.setStream (c : Ctx) (r : Reg) (st : Option Stream) : Ctx :=
  { c with streams := c.streams.filterMap fun x => if x.isIn r then st else some x }

/-- Pop one element into a stream register: past the last it reads zero and sets END; the pop of the last
ends the stream; a pop of a faulted refill fails (R134, R135). -/
def popStream (s : State) (k : Fin 11) (r : Reg) : Except (Cause × Word) State :=
  match (s.at k).streamIn r with
  | none => .ok s
  | some st =>
    let c := s.at k
    if patCount st.pat ≤ st.popped then
      .ok (s.setAt k ((c.setReg r 0).setStream r (some { st with ending := true })))
    else match st.buf, st.fault with
      | x :: rest, _ =>
        if patCount st.pat ≤ st.popped + 1 then
          .ok (unlockRange (s.setAt k ((c.setReg r x).setStream r none)) (streamOwner k st))
        else
          .ok (send (s.setAt k ((c.setReg r x).setStream r (some { st with popped := st.popped + 1, buf := rest })))
            (.streamRefill (BitVec.ofNat 4 k.val) st.cls st.reg))
      | [], some e => .error e
      | [], none => .ok s

/-- The registers of a list, each once. -/
def distinct : List Reg → List Reg
  | [] => []
  | r :: rest => if rest.contains r then distinct rest else r :: distinct rest

/-- Pop the streams among some registers. -/
def popAll (k : Fin 11) : List Reg → State → Except (Cause × Word) State
  | [], s => .ok s
  | r :: rest, s =>
    match popStream s k r with
    | .error e => .error e
    | .ok s1 => popAll k rest s1

/-- Pop the streams that the instruction due in a slot reads (R134). -/
def popDue (s : State) (k : Fin 11) : State :=
  match due s k with
  | .ins i =>
    match popAll k (distinct (reads i)) s with
    | .ok s1 => s1
    | .error _ => s
  | _ => s

/-! Breakpoints. -/

/-- The breakpoint that fires at an address in a slot: the lowest number (R380, R381). -/
def breakpointAt (s : State) (k : Fin 11) (pc : Word) : Option Nat :=
  let fires (n : Nat) (b : Word) : Option Nat :=
    if b.getLsbD 63 && (fld b 52 11 == 0 || b.getLsbD (52 + k.val)) && fld b 2 13 == fld pc 2 13 then some n
    else none
  let b := s.core.sys.bpa
  (fires 0 b[0]).orElse fun _ => (fires 1 b[1]).orElse fun _ => (fires 2 b[2]).orElse fun _ => fires 3 b[3]

/-- The BRK of an address breakpoint (R381). -/
def breakpointTrap (s : State) (n : Nat) : State :=
  takeTrap s { code := 22, tval := BitVec.ofNat 64 (fld s.ctx.pc 0 15 * 2 ^ 32), detail := n + 1 }

end Sys2Proof.Machine
end

