-- ==== Sys2Proof/Machine/Context.lean ====
section
/-!
DEFINITION. Contexts: HSTART, HEXIT, CPACK, CRESUME, MIGRATE and HSTAT, and the residence of
kernel text (R36, R64, R79 to R89, R166 to R170).
-/

namespace Sys2Proof.Machine

/-- The status word of R166. -/
def ctxStatus (code slot detail : Nat) : Word := BitVec.ofNat 64 (detail * 2 ^ 16 + slot * 2 ^ 8 + code)

/-- The item of a queue entry (R80). -/
def itemKey (it : Item) : ItemKey := { lref := it.lref, wid := it.wid }

/-- The item that holds the cluster, or whose entry at the head of core 0's queue keeps it free (R80). -/
def clusterHolder (s : State) : Option ItemKey :=
  match s.cluster.hold with
  | some k => some k
  | none =>
    match s.core.itemQ with
    | it :: _ => if s.loc.core = 0 ∧ it.gran = 2 then some (itemKey it) else none
    | [] => none

/-- Does another item hold the cluster (R80)? -/
def heldByOther (s : State) (k : Option ItemKey) : Bool :=
  match clusterHolder s with
  | some h => k != some h
  | none => false

/-! Kernel text (R36, R46). -/

/-- The loaded object of an id. -/
def codeOf (s : State) (id : W32) : Option CodeObj := s.engine.code.find? fun c => c.id == id

/-- The launch context of an LREF: this die's, or one that came with a record of another die (R84, R86). -/
def launchCtxOf (s : State) (lref : W32) : Option LaunchCtx :=
  (s.engine.ctxs ++ s.engine.foreign).find? fun l => l.lref == lref

/-- Keep a launch context of another die as that die has it now (R84, R86; log 38). -/
def keepForeign (s : State) (l : Option LaunchCtx) : State :=
  match l with
  | none => s
  | some l =>
    if s.engine.ctxs.any fun x => x.lref == l.lref then s
    else { s with engine := { s.engine with foreign := (s.engine.foreign.filter fun x => x.lref != l.lref) ++ [l] } }

/-- The TCM offset of a text section (log 22). -/
def textBase (id : W32) (sect : Nat) : Nat := 64 * (Config.textUnit id sect).toNat

/-- What a kernel has in TCM: its text and the data of its TCM data area, each as an offset, a size and bytes (R22,
R36; log 22, log 75). -/
def kernelRanges (s : State) (id : W32) (kidx : BitVec 16) : List (Nat × Nat × List Byte) :=
  match codeOf s id with
  | none => []
  | some c =>
    match c.kernels[kidx.toNat]? with
    | none => []
    | some k =>
      let n := nfld k.toNat 96 16
      c.text.filterMap fun t =>
        if t.2.1 = 3 ∨ t.2.1 = 4 then some (t.1, t.2.2.length, t.2.2)
        else if t.1 = nfld k.toNat 32 16 then some (textBase id t.1, n, t.2.2.take n)
        else none

/-- Do two kernels' places in TCM overlap? -/
def rangesMeet (xs ys : List (Nat × Nat × List Byte)) : Bool :=
  xs.any fun x => ys.any fun y => decide (x.1 < y.1 + y.2.1) && decide (y.1 < x.1 + x.2.1)

/-- Write the pieces of a kernel to TCM. -/
def writeRanges (s : State) : List (Nat × Nat × List Byte) → State
  | [] => s
  | x :: rest => writeRanges (writeBytes s (tcmBase s + x.1) (x.2.2.take (32768 - x.1))) rest

/-- Bring a kernel's text and data into TCM before the core runs an item of it, unless they are there; a kernel whose
place they overlay is resident no more (R36; log 22). -/
def bringText (s : State) (id : W32) (kidx : BitVec 16) : State :=
  if s.core.resident.contains (id, kidx) then s
  else
    let mine := kernelRanges s id kidx
    (writeRanges s mine).modCore fun c => { c with resident :=
      (c.resident.filter fun r => !rangesMeet mine (kernelRanges s r.1 r.2)) ++ [(id, kidx)] }

/-- Bring the text of the kernel of a launch. -/
def bringTextOf (s : State) (lref : W32) : State :=
  match launchCtxOf s lref with
  | some l => bringText s l.objid l.kidx
  | none => s

/-- The kernel that runs in a slot. -/
def kernelIn (s : State) (i : Fin 11) : Option (W32 × BitVec 16) :=
  if (s.at i).slotState = .free then none
  else (launchCtxOf s (s.at i).act.lref).map fun l => (l.objid, l.kidx)

/-- Must the kernel of a launch wait for its place in TCM: would it overlay one that runs in a slot (R19, R36)? -/
def textBusy (s : State) (lref : W32) : Bool :=
  match launchCtxOf s lref with
  | none => false
  | some l =>
    !s.core.resident.contains (l.objid, l.kidx) && helperSlots.any fun i =>
      match kernelIn s i with
      | none => false
      | some k => k != (l.objid, l.kidx) && rangesMeet (kernelRanges s l.objid l.kidx) (kernelRanges s k.1 k.2)

/-- Is a helper slot FREE and reserved for nobody? -/
def freeSlotAt (s : State) (i : Fin 11) : Bool :=
  (s.at i).slotState == .free && (s.at i).act.reservedFor.isNone

/-- Is a helper slot FREE and reserved for an item (R80, R167)? -/
def reservedSlotAt (s : State) (k : ItemKey) (i : Fin 11) : Bool :=
  (s.at i).slotState == .free && (s.at i).act.reservedFor == some k

/-- The slot for a helper that HSTART starts for an item: the lowest reserved for it, or else the lowest unreserved
(R167). -/
def slotForItem (s : State) (k : Option ItemKey) : Option (Fin 11) :=
  ((k.bind fun key => helperSlots.find? (reservedSlotAt s key))).orElse fun _ =>
    helperSlots.find? (freeSlotAt s)

/-- The slot for a record of an item: the lowest FREE slot that no other item has reserved (R80, R86). -/
def slotForRecord (s : State) (k : ItemKey) : Option (Fin 11) :=
  helperSlots.find? fun i => reservedSlotAt s k i || freeSlotAt s i

/-- Does an item's start find the slots it needs FREE: n_s, 10, or all 80 of the cluster (R79, R80)? -/
def enoughSlots (s : State) (it : Item) : Bool :=
  let free := (helperSlots.filter (freeSlotAt s)).length
  match it.gran.toNat with
  | 0 => decide (max 1 it.slots ≤ free)
  | 1 => decide (10 ≤ free)
  | _ => decide (10 ≤ free) && othersFree s

/-- The local slots an item's start takes with its first (R79). -/
def slotNeed (it : Item) : Nat := if it.gran = 0 then max 1 it.slots else 10

/-- Put a fresh activity into a slot at level H, READY; its access count goes on. -/
def placeActivity (s : State) (i : Fin 11) (pc : Word) (f : Ctx → Ctx) : State :=
  let c := Ctx.reset .h .ready
  s.setAt i (f { c with queue := Queue.at pc, act := { c.act with seq := (s.at i).act.seq } })

/-- Reserve slots for an item (R79, R80). -/
def reserveSlots (k : ItemKey) : List (Fin 11) → State → State
  | [], s => s
  | i :: rest, s => reserveSlots k rest (s.modAct i fun a => { a with reservedFor := some k })

/-- The state an item's first activity starts with (R46). -/
def startItem (it : Item) (c : Ctx) : Ctx :=
  (({ c with
      user := { c.user with wid := it.wid, widx := it.widx, restb := it.restb, xroot := it.xroot
                            rankLo := it.rankLo, rankHi := it.rankHi }
      act := { c.act with lref := it.lref, compl := it.compl, item := some (itemKey it)
                          reservedFor := some (itemKey it) } }).setG 1 it.arg)

/-- The item that starts is counted with its first helper, and holds the cluster where it asks for it (R80, R82). -/
def startCount (s : State) (it : Item) : State :=
  let s1 := s.modCore fun c => { c with live := setAssoc (itemKey it) 1 c.live }
  if it.gran = 2 then s1.modCluster fun c => { c with hold := some (itemKey it) } else s1

/-- HSTART from the item queue: removal, reservation and obligation are one step (R167); the kernel's text is
there before (R36). DESIGN CHOICE: it stalls while that text would overlay one that runs (R19; log 22). -/
def hstartItem (d : BitVec 5) (s : State) : State :=
  match s.core.itemQ with
  | [] => retire (wg s d (ctxStatus 2 0 0))
  | it :: rest =>
    if heldByOther s (some (itemKey it)) ∨ !enoughSlots s it then retire (wg s d (ctxStatus 1 0 0))
    else if textBusy s it.lref then stall s
    else match helperSlots.find? (freeSlotAt s) with
      | none => retire (wg s d (ctxStatus 1 0 0))
      | some i =>
        let more := ((helperSlots.filter (freeSlotAt s)).drop 1).take (slotNeed it - 1)
        let s1 := placeActivity (bringTextOf s it.lref) i it.pc (startItem it)
        match install s1 i it.compl .signal with
        | .full => trap s 11 it.compl
        | .check => machineCheck s 0 s.core.sys.owedb true
        | .ok s2 =>
          let s3 := (reserveSlots (itemKey it) more s2).modCore fun c => { c with itemQ := rest }
          retire (wg (startCount s3 it) d (ctxStatus 0 i.val 0))

/-- HSTART for the item of a parent slot (R79, R81, R167). -/
def hstartChild (d : BitVec 5) (pc g1 : Word) (p : Fin 11) (s : State) : State :=
  let parent := s.at p
  if parent.slotState = .free then retire (wg s d (ctxStatus 11 0 0))
  else if heldByOther s parent.act.item then retire (wg s d (ctxStatus 1 0 0))
  else match slotForItem s parent.act.item with
    | none => retire (wg s d (ctxStatus 1 0 0))
    | some i =>
      let (lo, hi) := parent.act.window.getD (0, 0)
      let s1 := placeActivity s i pc fun c =>
        ({ c with
          user := { c.user with wid := parent.user.wid, widx := parent.user.widx
                                restb := parent.user.restb, xroot := parent.user.xroot
                                rankLo := lo, rankHi := hi }
          act := { c.act with lref := parent.act.lref, compl := parent.act.compl, item := parent.act.item
                              reservedFor := (s.at i).act.reservedFor } }).setG 1 g1
      let s2 := s1.modAct p fun a => { a with window := none }
      let s3 := match parent.act.item with
        | some key => countHelper s2 key true
        | none => s2
      retire (wg s3 d (ctxStatus 0 i.val 0))

/-- HSTART (R79, R167). -/
def execHstart (d a b c : BitVec 5) (s : State) : Host.Outcome State Fault Refusal :=
  .next (match s.ctx.level with
    | .h => trapPriv s
    | _ =>
      if c = 0 then hstartItem d s
      else match slotOf c.toNat with
        | some p => hstartChild d (gv s a) (gv s b) p s
        | none => retire (wg s d (ctxStatus 11 0 0)))

/-! Obligations of a context, in order. -/

/-- Order of R169: rank, then handle, then kind. -/
def oblBefore (x y : Obl) : Bool :=
  let kx := (rankOf x.h, x.h.toNat, oblCode x.kind)
  let ky := (rankOf y.h, y.h.toNat, oblCode y.kind)
  decide (kx.1 < ky.1) || (kx.1 == ky.1 && (decide (kx.2.1 < ky.2.1)
    || (kx.2.1 == ky.2.1 && decide (kx.2.2 ≤ ky.2.2))))

/-- Insertion into an ordered list. -/
def insertObl (x : Obl) : List Obl → List Obl
  | [] => [x]
  | y :: ys => if oblBefore x y then x :: y :: ys else y :: insertObl x ys

/-- The obligations of a context in the order of R169. -/
def sortObls : List Obl → List Obl
  | [] => []
  | x :: xs => insertObl x (sortObls xs)

/-- Obligations counted by multiplicity. -/
def countObls : List Obl → Nat
  | [] => 0
  | o :: rest => o.mult + countObls rest

/-- Take the first n by multiplicity: those, and what remains. -/
def takeObls : Nat → List Obl → List (Word × OblKind) × List Obl
  | _, [] => ([], [])
  | n, o :: rest =>
    if n = 0 then ([], o :: rest)
    else if o.mult ≤ n then
      let (xs, ys) := takeObls (n - o.mult) rest
      (List.replicate o.mult (o.h, o.kind) ++ xs, ys)
    else (List.replicate n (o.h, o.kind), { o with mult := o.mult - n } :: rest)

/-- Regroup entries by handle and kind (R169); a group holds up to 65,535. -/
def regroup : List Obl → List Obl
  | [] => []
  | o :: rest =>
    match regroup rest with
    | [] => [o]
    | p :: more =>
      if o.h = p.h ∧ o.kind = p.kind then
        if o.mult + p.mult ≤ 65535 then { o with mult := o.mult + p.mult } :: more
        else { o with mult := 65535 } :: { p with mult := o.mult + p.mult - 65535 } :: more
      else o :: p :: more

/-- The lowest-ranked obligation of a slot (R365, UNSETTLED). -/
def lowestObl (s : State) (i : Fin 11) : Word :=
  match sortObls (oblsOf s i) with
  | o :: _ => o.h
  | [] => 0

/-- Drop every obligation of a slot, with its owed area (R169). -/
def dropObls (s : State) (i : Fin 11) : State :=
  let had := s.core.spilled.any fun o => o.owner.toNat == i.val
  let s1 := s.modCore fun c =>
    { c with reeve := c.reeve.filter (fun o => o.owner.toNat != i.val)
             spilled := c.spilled.filter (fun o => o.owner.toNat != i.val) }
  if had then (owedWrite s1 i).getD s1 else s1

/-! HEXIT. -/

/-- May the level and slot run HEXIT, CPACK and MIGRATE: a helper at H level (R166)? -/
def helperLevel (s : State) : Bool := s.ctx.level == .h && s.core.cur != 0

/-- HEXIT, its stalls and errors past (R64, R82): settle, discharge, free. -/
def exitHelper (s : State) : State :=
  let i := s.core.cur
  let compl := s.ctx.act.compl
  let marked := holds s i compl .signal
  let s1 := if marked then (removeObl s i compl .signal).getD s else s
  if (oblsOf s1 i).isEmpty then
    let s2 := if marked then send s1 (.discharge compl .signal .ok (.ctx (me s))) else s1
    (freeSlot s2 i).modCore fun c => { c with undo := none }
  else trapIn (undoIssue s) i { code := 10, tval := lowestObl s i } .unsettled

/-- HEXIT: it waits for every entry of the context, as for a pending q register (R64, R168, R173, R213, R255,
R343). -/
def execHexit (s : State) : Host.Outcome State Fault Refusal :=
  .next (if !helperLevel s then trapPriv s
    else if s.ctx.anyPending ∨ s.ctx.xch.running ∨ (s.core.lvu.any fun e => e.slot.toNat == s.core.cur.val) then
      stall s
    else afterAccesses s fun s => exitHelper (endLlk s s.core.cur))

/-! Spans of memory that a context instruction writes or reads. -/

/-- How the check of a span ends. -/
inductive Span where
  | ok (s : State) (pas : List Nat)
  | fault (s : State) (c : Cause) (ea : Word)
  /-- a lessor copies the page (R243) -/
  | held (s : State)

/-- Check the blocks of a span: `size` bytes at each of n addresses `size` apart. -/
def checkSpan (acc : AccType) (size : Nat) : Nat → State → Word → Span
  | 0, s, _ => .ok s []
  | n + 1, s, ea =>
    match checkAccess s ea size acc with
    | (s1, .error c) => .fault s1 c ea
    | (s1, .ok p) =>
      match leaseRoute s1 p.pa p.lease with
      | .held => .held s1
      | .failed => .fault s1 14 ea
      | .at pa =>
        if !physExists s1 pa p.layout then .fault s1 15 ea
        else match checkSpan acc size n s1 (ea + BitVec.ofNat 64 size) with
          | .ok s2 pas => .ok s2 (pa :: pas)
          | other => other

/-- Write bytes over the blocks of a span. -/
def writeSpan (size : Nat) : List Nat → List Byte → State → State
  | [], _, s => s
  | pa :: pas, bs, s => writeSpan size pas (bs.drop size) (writeBytes s pa (bs.take size))

/-- Read the blocks of a span. -/
def readSpan (s : State) (size : Nat) : List Nat → List Byte
  | [] => []
  | pa :: pas => Memory.bytes s.mem pa size ++ readSpan s size pas

/-! Records (R83). -/

/-- The live values of a mask, in increasing register number. -/
def liveValues (c : Ctx) (m : Nat) : List Word :=
  ((List.range 32).filter fun i => m.testBit i).map fun i => c.g (BitVec.ofNat 5 i)

/-- Words packed 64 bits apart. -/
def packWords : List Word → Nat
  | [] => 0
  | w :: ws => w.toNat + 2 ^ 64 * packWords ws

/-- Kind codes packed 2 bits apart. -/
def packKinds : List OblKind → Nat
  | [] => 0
  | k :: ks => oblCode k + 4 * packKinds ks

/-- A continuation record (R83), without VALID. -/
def recordBits (c : Ctx) (m : Nat) (pc spill : Word) (inl : List (Word × OblKind))
    (window : BitVec 21 × BitVec 21) : Nat :=
  fld spill 6 49 * 2 ^ 1480 + c.act.lref.toNat * 2 ^ 1448 + c.user.wid.toNat * 2 ^ 1384
    + window.2.toNat * 2 ^ 1356 + window.1.toNat % 2 ^ 20 * 2 ^ 1336 + packKinds (inl.map (·.2)) * 2 ^ 1328
    + inl.length * 2 ^ 1325 + fld pc 2 13 * 2 ^ 1312 + m * 2 ^ 1280 + packWords (inl.map (·.1)) * 2 ^ 1024
    + packWords (liveValues c m)

/-- The bytes of a spill block (R83). -/
def spillBytes (os : List Obl) : List Byte :=
  bytesLE 8 os.length ++ bytesLE 8 0 ++ os.flatMap fun o => oblBytes o 0

/-- Is a unit's fence state other than IN (R392)? -/
def unitFenced (s : State) (u : FenceUnit) : Bool := s.hw.fences.any fun f => f.unit == u && f.state != 0

/-- Is a core of the device fenced, itself or with its cluster (R393)? -/
def coreFenced (s : State) (n : Nat) : Bool := unitFenced s (.core n) || unitFenced s (.cluster (n / 8))

/-- The core of the cluster with the lowest load, the lowest number on a tie (R87). -/
def idlestCore (s : State) : Nat :=
  ([1, 2, 3, 4, 5, 6, 7] : List Nat).foldl
    (fun best k => if fld s.cluster.clustld (8 * k) 8 < fld s.cluster.clustld (8 * best) 8 then k else best) 0

/-- The target of MIGRATE: g0 names the idlest core of the cluster (R87). -/
def migrateTarget (s : State) (a : BitVec 5) : Word :=
  if a = 0 then
    BitVec.ofNat 64 (setFld ((me s).toNat % 2 ^ 32) 7 3 (idlestCore s))
  else gv s a

/-- Why a target is refused: 1 absent, as every core of a host's id is (R11), 2 fenced, 3 malformed (R87, R166). -/
def targetDetail (s : State) (t : Word) : Option Nat :=
  let dev := BitVec.ofNat 12 (fld t 20 12)
  if fld t 32 32 ≠ 0 ∨ fld t 0 7 ≠ 0 then some 3
  else if !deviceThere s dev ∨ (dev ≠ s.loc.dev ∧ Config.isHost dev) ∨ presentClusters (gradeOf s dev) ≤ fld t 10 7 then some 1
  else if (if dev = s.loc.dev then coreFenced s (1024 * fld t 17 3 + 8 * fld t 10 7 + fld t 7 3)
      else s.hw.fencedAway.contains (t.truncate 32)) then some 2
  else none

/-- The refusals of CPACK and MIGRATE in their order (R169), but for the target. -/
def packRefusal (s : State) (m b : Word) : Option Nat :=
  let c := s.ctx
  if fld m 32 32 ≠ 0 ∨ m.getLsbD 0 ∨ 16 < popN 32 m.toNat then some 5
  else if c.anyPending then some 6
  else if !c.streams.isEmpty then some 7
  else if c.longMode then some 8
  else if 4 < countObls (oblsOf s s.core.cur) ∧ b = 0 then some 9
  else none

/-- The check of a record's place, where there is one (R85). -/
def recordSpan (s : State) (toTarget : Option Word) (ea : Word) : Span :=
  if toTarget.isNone then checkSpan .write 64 3 s ea else .ok s []

/-- The check of a spill block's place, where one is needed (R85). -/
def spillSpan (s : State) (n : Nat) (ea : Word) : Span :=
  if n = 0 then .ok s [] else checkSpan .write 16 (1 + n) s ea

/-- Pack, its refusals past: the writes are checked, then the record is made, every obligation leaves
the Reeve and the slot is freed in one step (R85, R169). -/
def packHelper (d a b : BitVec 5) (toTarget : Option Word) (s : State) : State :=
  let c := s.ctx
  let i := s.core.cur
  let m := gv s d
  let os := sortObls (oblsOf s i)
  let (inl, more) := takeObls 4 os
  let rest := regroup more
  let spillEa := gv s b
  if toTarget.isNone ∧ fld (gv s a) 0 6 ≠ 0 then trap s 3 (gv s a)
  else if fld spillEa 0 6 ≠ 0 then trap s 3 spillEa
  else if spillEa ≠ 0 ∧ fld spillEa 56 8 ≠ 0x10 then trap s 4 spillEa
  else
    match recordSpan s toTarget (gv s a) with
    | .fault s1 cause ea => trap s1 cause ea
    | .held s1 => stall s1
    | .ok s1 recPas =>
      match spillSpan s1 rest.length spillEa with
      | .fault s2 cause ea => trap s2 cause ea
      | .held s2 => stall s2
      | .ok s2 spillPas =>
        let c1 := c.setG d (ctxStatus 0 0 0)
        let window := c.act.window.getD (c.user.rankLo, c.user.rankHi)
        let bits := 2 ^ 1535 + recordBits c1 (m.toNat % 2 ^ 32) (c.pc + 4)
          (if rest.isEmpty then 0 else spillEa) inl window
        let s3 := writeSpan 16 spillPas (spillBytes rest) s2
        let s4 := writeSpan 64 recPas (bytesLE 192 bits) s3
        let s5 := (freeSlot (dropObls s4 i) i false).modCore fun k => { k with undo := none }
        match toTarget with
        | none => s5
        | some t =>
          send s5 (.continuationMessage (t.truncate 32) (BitVec.ofNat 1536 bits) (launchCtxOf s c.act.lref))

/-- CPACK and MIGRATE after their level check and stalls (R169, R173). -/
def pack (d a b : BitVec 5) (migrate : Bool) (s : State) : State :=
  match packRefusal s (gv s d) (gv s b) with
  | some code => retire (wg s d (ctxStatus code 0 0))
  | none =>
    if migrate then
      let t := migrateTarget s a
      match targetDetail s t with
      | some detail => retire (wg s d (ctxStatus 10 0 detail))
      | none => packHelper d a b (some t) s
    else packHelper d a b none s

/-- CPACK and MIGRATE: the level, the phase's end, the errors that earlier accesses have left, the refusals that the helper
itself gives cause for, and then the accesses, all of them stores by then (R85, R166, R169, R173, R255, R343). -/
def packStart (d a b : BitVec 5) (migrate : Bool) (s : State) : State :=
  if !helperLevel s then trapPriv s
  else if s.ctx.xch.running then stall s
  else afterErrors s fun s => match packRefusal s (gv s d) (gv s b) with
    | some code => retire (wg (endLlk s s.core.cur) d (ctxStatus code 0 0))
    | none => afterAccesses s fun s => pack d a b migrate (endLlk s s.core.cur)

/-- CPACK (R85, R169). -/
def execCpack (d a b : BitVec 5) (s : State) : Host.Outcome State Fault Refusal :=
  .next (packStart d a b false s)

/-- MIGRATE (R87, R169). -/
def execMigrate (d a b : BitVec 5) (s : State) : Host.Outcome State Fault Refusal :=
  .next (packStart d a b true s)

/-! CRESUME. -/

/-- The obligations a record carries inline (R83). -/
def inlineObls (r : Nat) : List (Word × OblKind × Nat) :=
  (List.range (min 4 (nfld r 1325 3))).map fun i =>
    (BitVec.ofNat 64 (nfld r (1024 + 64 * i) 64), oblOfCode (nfld r (1328 + 2 * i) 2), 1)

/-- The entries of a spill block (R67, R83). -/
def spillObls : Nat → List Byte → List (Word × OblKind × Nat)
  | 0, _ => []
  | n + 1, bs =>
    (BitVec.ofNat 64 (natLE (bs.take 8)), oblOfCode (natLE ((bs.drop 8).take 1)), natLE ((bs.drop 10).take 2))
      :: spillObls n (bs.drop 16)

/-- Install a multiplicity, one by one. -/
def installMany (i : Fin 11) (h : Word) (k : OblKind) : Nat → State → Install
  | 0, s => .ok s
  | n + 1, s =>
    match install s i h k with
    | .ok s1 => installMany i h k n s1
    | other => other

/-- Install a record's obligations; the handle that found no place (R86, check 4). -/
def installAll (i : Fin 11) : List (Word × OblKind × Nat) → State → Install × Word
  | [], s => (.ok s, 0)
  | (h, k, n) :: rest, s =>
    match installMany i h k n s with
    | .ok s1 => installAll i rest s1
    | other => (other, h)

/-- The general registers a record restores: the live ones, and zero (R86). -/
def recordRegs (r : Nat) : Nat → Nat → Ctx → Ctx
  | 0, _, c => c
  | n + 1, j, c =>
    let i := 31 - n
    if r.testBit (1280 + i) then
      recordRegs r n (j + 1) (c.setG (BitVec.ofNat 5 i) (BitVec.ofNat 64 (nfld r (64 * j) 64)))
    else recordRegs r n j c

/-- Place a record in a slot (R86). -/
def placeRecord (s : State) (i : Fin 11) (r : Nat) (l : LaunchCtx) : State :=
  let key : ItemKey := { lref := l.lref, wid := BitVec.ofNat 64 (nfld r 1384 64) }
  placeActivity s i (BitVec.ofNat 64 (nfld r 1312 13 * 4)) fun c =>
    recordRegs r 32 0
      { c with
        user := { c.user with wid := key.wid, widx := l.widxv, restb := l.restb, xroot := l.xroot
                              rankLo := BitVec.ofNat 21 (nfld r 1336 20)
                              rankHi := BitVec.ofNat 21 (nfld r 1356 21) }
        act := { c.act with lref := l.lref, compl := l.compl, item := some key
                            reservedFor := (s.at i).act.reservedFor } }

/-- The entries of the spill block a record names. -/
inductive SpillRead where
  | ok (s : State) (os : List (Word × OblKind × Nat))
  | fault (s : State) (c : Cause) (ea : Word)
  | held (s : State)

/-- Read a record's spill block. -/
def readSpill (s : State) (r : Nat) : SpillRead :=
  if nfld r 1480 49 = 0 then .ok s []
  else
    let ea := BitVec.ofNat 64 (0x10 * 2 ^ 56 + nfld r 1480 49 * 2 ^ 6)
    match checkSpan .read 16 1 s ea with
    | .fault s1 c e => .fault s1 c e
    | .held s1 => .held s1
    | .ok s1 pas =>
      let n := natLE ((readSpan s1 16 pas).take 8) % 2 ^ 16
      match checkSpan .read 16 n s1 (ea + 16) with
      | .fault s2 c e => .fault s2 c e
      | .held s2 => .held s2
      | .ok s2 pas2 => .ok s2 (spillObls n (readSpan s2 16 pas2))

/-- CRESUME after VALID was found set: checks 2 to 4, and the placement (R86). `done` clears VALID or
takes the entry from the queue. -/
def resumeRecord (d : BitVec 5) (r : Nat) (done : State → State) (s : State) : State :=
  let lref := BitVec.ofNat 32 (nfld r 1448 32)
  let key : ItemKey := { lref := lref, wid := BitVec.ofNat 64 (nfld r 1384 64) }
  match slotForRecord s key with
  | none => retire (wg s d (ctxStatus 1 0 0))
  | some i =>
    if heldByOther s (some key) then retire (wg s d (ctxStatus 1 0 0))
    else match launchCtxOf s lref with
      | none => retire (wg s d (ctxStatus 4 0 0))
      | some l =>
        if !s.core.resident.contains (l.objid, l.kidx) then retire (wg s d (ctxStatus 4 0 0))
        else match readSpill s r with
          | .fault s1 c ea => trap s1 c ea
          | .held s1 => stall s1
          | .ok s1 os =>
            match installAll i (inlineObls r ++ os) (placeRecord s1 i r l) with
            | (.ok s2, _) => retire (wg (done s2) d (ctxStatus 0 i.val 0))
            | (.full, h) => trap s1 11 h
            | (.check, _) => machineCheck s1 0 s1.core.sys.owedb true

/-- CRESUME from memory: the context's earlier accesses are performed before the record is read (R174), and the swap
at its location decides STALE (R170). -/
def resumeMemory (d : BitVec 5) (ea : Word) (s : State) : State :=
  if fld ea 0 6 ≠ 0 then trap s 3 ea
  else if accessesOut s (me s) then stall s
  else match checkSpan .read 64 3 s ea with
    | .fault s1 c e => trap s1 c e
    | .held s1 => stall s1
    | .ok s1 pas =>
      match checkSpan .atomic 8 1 s1 (ea + 184) with
      | .fault s2 c e => trap s2 c e
      | .held s2 => stall s2
      | .ok s2 swap =>
        let r := natLE (readSpan s2 64 pas)
        if !r.testBit 1535 then retire (wg s2 d (ctxStatus 3 0 0))
        else resumeRecord d r
          (fun t => writeSpan 8 swap (bytesLE 8 (nfld r 1472 63)) t) s2

/-- An entry left the continuation queue: the spill ring may go on (R88, R378). -/
def contTaken (s : State) : State :=
  let s1 := s.modCore fun c => { c with contQ := c.contQ.drop 1 }
  if s1.core.spill.isEmpty then s1 else send s1 .spillRedelivery

/-- CRESUME (R86, R170). -/
def execCresume (d a : BitVec 5) (s : State) : Host.Outcome State Fault Refusal :=
  .next (match s.ctx.level with
    | .h => trapPriv s
    | _ =>
      if a = 0 then
        match s.core.contQ with
        | [] => retire (wg s d (ctxStatus 2 0 0))
        | r :: _ =>
          if !r.getLsbD 1535 then retire (wg s d (ctxStatus 3 0 0))
          else resumeRecord d r.toNat contTaken s
      else resumeMemory d (gv s a) s)

/-- Does what is due in a slot stall for results: on a register, at a HEXIT that waits for every pending register
(R168), or at a QFENCE that waits for the slot's LVU entries (R216)? -/
def dueWaits (s : State) (i : Fin 11) : Bool :=
  dueStalls s i || (match due s i with
    | .ins .hexit => (s.at i).anyPending || s.core.lvu.any fun e => e.slot.toNat == i.val
    | .ins .qfence => s.core.lvu.any fun e => e.slot.toNat == i.val
    | _ => false)

/-- The state HSTAT reports: a slot whose instruction stalls on a register is WAITING (R73, R130). -/
def hstatCode (s : State) (i : Fin 11) : Nat :=
  let st := (s.at i).slotState
  if st = .ready ∧ dueWaits s i then 2 else slotCode st

/-- HSTAT (R168). -/
def execHstat (d slot : BitVec 5) (s : State) : Host.Outcome State Fault Refusal :=
  .next (match s.ctx.level with
    | .h => trapPriv s
    | _ => retire (wg s d (match slotOf slot.toNat with
      | some i => BitVec.ofNat 64 (hstatCode s i)
      | none => 0)))

end Sys2Proof.Machine
end

