-- ==== Sys2Proof/Machine/System.lean ====
section
/-!
DEFINITION. System instructions (R149 to R153) and control registers (R154, R155 and the maps of R32,
R52, R78, R89, R105, R141, R161, R182 to R184, R215, R227, R320, R342, R355, R366, R371, R374, R380).
-/

namespace Sys2Proof.Machine

/-- NOP changes nothing (R150). -/
def execNop (s : State) : Host.Outcome State Fault Refusal := .next (retire s)

/-- HALT stops issue in every slot, after the HALT, with frames in the resume fields (R138, R150). -/
def execHalt (s : State) : Host.Outcome State Fault Refusal :=
  .next (match s.ctx.level with
    | .s => stopCore (retire s) false
    | _ => trapPriv s)

/-- Does one of the conditions hold that end an IDLE (R150)? -/
def idleEnds (s : State) : Bool :=
  (s.at 0).upcall.pend != 0 || !s.core.events.isEmpty || !s.core.itemQ.isEmpty || !s.core.contQ.isEmpty
    || !s.core.spill.isEmpty || s.core.sysMsg

/-- IDLE (R150). -/
def execIdle (s : State) : Host.Outcome State Fault Refusal :=
  .next (match s.ctx.level with
    | .h => trapPriv s
    | _ => ((retire s).mod fun c => { c with idle := !idleEnds s }).modCore fun c => { c with sysMsg := false })

/-- Does a store of the context wait to be performed? -/
def storePending (s : State) : Bool :=
  s.agenda.any fun m => match m with
    | .accessAtHome a | .lockRetry a _ => a.who == me s && decide (a.kind ≠ .load)
    | _ => false

/-- ERET (R152, R373, R375). A reload of a frame reads what the control context's earlier stores left there, so
an ERET with a RESUME bit waits for them (DEDUCED, log 14). -/
def execEret (s : State) : Host.Outcome State Fault Refusal :=
  .next (match s.ctx.level with
    | .h => trapPriv s
    | .c =>
      if !eretAllowed s then trap s 6 (upcallOf s (s.at 0))
      else if fld (upcallOf s (s.at 0)) 33 10 ≠ 0 ∧ storePending s then stall s
      else eretControl s
    | .s => eretSystem s)

/-- TVAL of TRAP and BRK (R151). -/
def trapTval (s : State) (code : BitVec 15) : Word :=
  BitVec.ofNat 64 (fld s.ctx.pc 0 15 * 2 ^ 32 + code.toNat)

/-- TRAP completes before its interruption is taken (R151). -/
def execTrap (code : BitVec 15) (s : State) : Host.Outcome State Fault Refusal :=
  .next (trapIn (retire s) s.core.cur { code := 23, tval := trapTval s code })

/-- BRK (R151, R382). -/
def execBrk (code : BitVec 15) (s : State) : Host.Outcome State Fault Refusal :=
  .next (trapIn (retire s) s.core.cur { code := 22, tval := trapTval s code })

/-- YIELD: the next issue decision passes the context over (R150). -/
def execYield (s : State) : Host.Outcome State Fault Refusal :=
  .next ((retire s).mod fun c => { c with yielded := true })

/-- Does a store of the context to its core's TCM wait to be performed? DESIGN CHOICE: FENCEI waits for the accesses of
ST, VST, MST, atomics and SUL, and not for a QST or QSCT in the LVU queue (R108; log 71). -/
def tcmStorePending (s : State) : Bool :=
  s.agenda.any fun m => match m with
    | .accessAtHome a | .lockRetry a _ =>
      a.who == me s && decide (a.kind ≠ .load) && decide (tcmBase s ≤ a.pa) && decide (a.pa < tcmBase s + 2 ^ 15)
    | _ => false

/-- FENCEI stalls until the context's TCM stores are complete; the model fetches each word as it issues,
so there is no look-ahead to discard (R108, R153). -/
def execFencei (s : State) : Host.Outcome State Fault Refusal :=
  .next (if tcmStorePending s then stall s else retire s)

/-! Control registers. -/

/-- QBUSY (R215). -/
def qbusy (s : State) : Word :=
  let bits (p : Fin 11 → Bool) : Nat := slots.foldl (fun n i => n + (if p i then 2 ^ i.val else 0)) 0
  BitVec.ofNat 64 (s.core.lvu.length % 32 * 2 ^ 32 + bits (fun i => (s.at i).longMode) * 2 ^ 16
    + bits (fun i => s.core.lvu.any fun e => e.slot.toNat == i.val))

/-- PENDQ (R78). -/
def pendq (s : State) : Word :=
  BitVec.ofNat 64 (min 256 s.core.spill.length * 2 ^ 32 + s.core.contQ.length % 32 * 2 ^ 8
    + s.core.itemQ.length % 32)

/-- BELLC (R355). -/
def bellc (s : State) : Word :=
  BitVec.ofNat 64 (s.clock.ref / 1250 % 2 ^ 32 * 2 ^ 32 + s.bell.ann.toNat * 2 ^ 23 + s.bell.next.toNat * 2 ^ 17
    + s.bell.ceil.toNat * 2 ^ 11 + s.bell.state.toNat)

/-- The value of a control register for the issuing context. -/
def cregValue (s : State) (n : BitVec 12) : Word :=
  let c := s.ctx
  let k := s.core.sys
  match n.toNat with
  | 0x001 => c.user.fmode
  | 0x002 => c.user.fflags
  | 0x003 => c.user.lfsr.zeroExtend 64
  | 0x010 => c.user.wid
  | 0x011 => c.user.widx
  | 0x012 => (me s).zeroExtend 64
  | 0x020 => c.user.rankLo.zeroExtend 64
  | 0x021 => c.user.rankHi.zeroExtend 64
  | 0x022 => BitVec.ofNat 64 (minHeld s s.core.cur)
  | 0x030 => c.user.scope
  | 0x031 => c.user.restb
  | 0x040 => xcycOf s c
  | 0x041 => bellc s
  | 0x100 => c.trap.epc0
  | 0x101 => c.trap.epc1
  | 0x102 => c.trap.epc2
  | 0x103 => c.trap.cause
  | 0x104 => c.trap.tval
  | 0x105 => c.trap.rptst
  | 0x110 => if s.core.cur = 0 then upcallOf s c else 0
  | 0x200 => k.xbound
  | 0x201 => k.qwgt.zeroExtend 64
  | 0x202 => qbusy s
  | 0x203 => pendq s
  | 0x204 => k.bpa[0]
  | 0x205 => k.bpa[1]
  | 0x206 => k.bpa[2]
  | 0x207 => k.bpa[3]
  | 0x300 => s.cluster.clustld
  | 0x800 => 1
  | 0x810 => k.owedb
  | 0x811 => k.saveb
  | 0x812 => k.svec
  | 0x813 => k.kepc0
  | 0x814 => k.kepc1
  | 0x815 => k.kepc2
  | 0x816 => k.kcause
  | 0x817 => k.ktval
  | 0x818 => k.krptst
  | 0x819 => k.dbghost
  | 0x820 => c.user.xroot
  | _ => 0

/-- May a level read the register (R155, R227, R374, R380)? UPCALL reads zero in a helper slot (R371; log 79). -/
def cregReadable (n : BitVec 12) (l : Level) : Bool :=
  let k := n.toNat
  if k = 0x203 ∨ k = 0x810 then decide (l ≠ .h)
  else if 0x811 ≤ k then decide (l = .s)
  else true

/-- May a level write the register (R155, R227, R374, R380)? A write of UPCALL in a helper slot faults ILL by its value
check (R371; log 79). -/
def cregWritable (n : BitVec 12) (l : Level) : Bool :=
  let k := n.toNat
  if k = 0x001 ∨ k = 0x002 ∨ k = 0x003 ∨ k = 0x030 ∨ k = 0x110 then true
  else if k = 0x031 ∨ (0x100 ≤ k ∧ k < 0x110) ∨ k = 0x200 ∨ k = 0x201 ∨ (0x204 ≤ k ∧ k ≤ 0x207) then
    decide (l ≠ .h)
  else if k = 0x020 ∨ k = 0x021 ∨ k = 0x041 ∨ 0x810 ≤ k then decide (l = .s)
  else false

/-- The value check: does the value keep the register's map (R155)? -/
def cregAllows (s : State) (n : BitVec 12) (v : Word) : Bool :=
  match n.toNat with
  | 0x001 => fld v 15 49 == 0 && decide (fld v 12 2 < 2) && fld v 5 3 == 0 && decide (fld v 0 3 ≤ 4)
  | 0x002 => fld v 5 59 == 0
  | 0x020 | 0x021 => decide (v.toNat ≤ 0x100000)
  | 0x030 => !scopeMalformed v
  | 0x031 => fld v 0 6 == 0
  | 0x041 => decide (20 ≤ fld v 23 6) && decide (fld v 23 6 ≤ 40)
  | 0x103 => fld v 48 16 == 0 && decide (fld v 44 4 ≤ 10) && fld v 42 2 == 0 && decide (fld v 40 2 < 3)
      && decide (fld v 37 3 ≤ 2)
  | 0x105 => fld v 47 10 == 0
  | 0x110 => s.core.cur == 0 && fld v 53 11 == 0 && fld v 15 6 == 0 && fld v 0 2 == 0
  | 0x200 => fld v 32 32 == 0 && fld v 16 6 == 0 && fld v 0 6 == 0 && decide (fld v 0 16 ≤ 32768)
      && decide (fld v 16 16 ≤ fld v 0 16)
  | 0x201 => fld v 4 60 == 0
  | 0x204 | 0x205 | 0x206 | 0x207 => fld v 15 37 == 0 && fld v 0 2 == 0
  | 0x810 => fld v 0 12 == 0
  | 0x811 => fld v 0 17 == 0
  | 0x812 => fld v 0 2 == 0 && fld v 15 49 == 0
  | 0x819 => fld v 13 51 == 0
  | 0x820 => fld v 1 7 == 0
  | _ => true

/-- UPCALL as a write leaves it: PEND and EVT are not written (R371). -/
def upcallWrite (u : Upcall) (v : Word) : Upcall :=
  { u with free := BitVec.ofNat 10 (fld v 43 10), resume := BitVec.ofNat 10 (fld v 33 10)
           inHandler := v.getLsbD 21, vec := BitVec.ofNat 15 (fld v 0 15) }

/-- Store a value in a control register. -/
def cregStore (s : State) (n : BitVec 12) (v : Word) : State :=
  let user (f : User → User) : State := s.mod fun c => { c with user := f c.user }
  let trp (f : TrapRegs → TrapRegs) : State := s.mod fun c => { c with trap := f c.trap }
  let sys (f : SysRegs → SysRegs) : State := s.modCore fun k => { k with sys := f k.sys }
  match n.toNat with
  | 0x001 => user fun u => { u with fmode := v }
  | 0x002 => user fun u => { u with fflags := v }
  | 0x003 => user fun u => { u with lfsr := v.truncate 32 }
  | 0x020 => user fun u => { u with rankLo := v.truncate 21 }
  | 0x021 => user fun u => { u with rankHi := v.truncate 21 }
  | 0x030 => user fun u => { u with scope := v }
  | 0x031 => user fun u => { u with restb := v }
  | 0x041 => { s with bell := { s.bell with ann := BitVec.ofNat 6 (fld v 23 6) } }
  | 0x100 => trp fun t => { t with epc0 := v }
  | 0x101 => trp fun t => { t with epc1 := v }
  | 0x102 => trp fun t => { t with epc2 := v }
  | 0x103 => trp fun t => { t with cause := v }
  | 0x104 => trp fun t => { t with tval := v }
  | 0x105 => trp fun t => { t with rptst := v }
  | 0x110 => s.mod fun c => { c with upcall := upcallWrite c.upcall v }
  | 0x200 => sys fun k => { k with xbound := v }
  | 0x201 => sys fun k => { k with qwgt := v.truncate 4 }
  | 0x204 => sys fun k => { k with bpa := k.bpa.set 0 v }
  | 0x205 => sys fun k => { k with bpa := k.bpa.set 1 v }
  | 0x206 => sys fun k => { k with bpa := k.bpa.set 2 v }
  | 0x207 => sys fun k => { k with bpa := k.bpa.set 3 v }
  | 0x810 => sys fun k => { k with owedb := v }
  | 0x811 => sys fun k => { k with saveb := v }
  | 0x812 => sys fun k => { k with svec := v }
  | 0x813 => sys fun k => { k with kepc0 := v }
  | 0x814 => sys fun k => { k with kepc1 := v }
  | 0x815 => sys fun k => { k with kepc2 := v }
  | 0x816 => sys fun k => { k with kcause := v }
  | 0x817 => sys fun k => { k with ktval := v }
  | 0x818 => sys fun k => { k with krptst := v }
  | 0x819 => sys fun k => { k with dbghost := v }
  | 0x820 => user fun u => { u with xroot := v }
  | _ => s

/-- A read and write of a control register as one step: levels, then the value, then the effect (R154,
R155). `reads` says whether the old value goes to g[g]. -/
def cregWrite (s : State) (g : BitVec 5) (n : BitVec 12) (reads' : Bool) (v : Word) : State :=
  if (reads' && !cregReadable n s.ctx.level) || !cregWritable n s.ctx.level then trapPriv s
  else if !cregAllows s n v then trap s 1 v
  else
    let s1 := cregStore s n v
    retire (if reads' then wg s1 g (cregValue s n) else s1)

/-- MFC (R154). -/
def execMfc (g : BitVec 5) (n : BitVec 12) (s : State) : Host.Outcome State Fault Refusal :=
  .next (if cregReadable n s.ctx.level then retire (wg s g (cregValue s n)) else trapPriv s)

/-- MTC (R154). -/
def execMtc (g : BitVec 5) (n : BitVec 12) (s : State) : Host.Outcome State Fault Refusal :=
  .next (cregWrite s g n false (gv s g))

/-- MXC (R154). -/
def execMxc (g : BitVec 5) (n : BitVec 12) (s : State) : Host.Outcome State Fault Refusal :=
  .next (cregWrite s g n true (gv s g))

/-- MSET (R154). -/
def execMset (g : BitVec 5) (n : BitVec 12) (s : State) : Host.Outcome State Fault Refusal :=
  .next (cregWrite s g n true (cregValue s n ||| gv s g))

/-- MCLR (R154). -/
def execMclr (g : BitVec 5) (n : BitVec 12) (s : State) : Host.Outcome State Fault Refusal :=
  .next (cregWrite s g n true (cregValue s n &&& ~~~ gv s g))

end Sys2Proof.Machine
end

