-- ==== Sys2Proof/Machine/Oblig.lean ====
section
/-!
DEFINITION. Obligations at the core: the OBL and WT instructions, the answers and wakes of the home
engines, transfers, refills and the spill ring (R52, R53, R57 to R69, R274 to R283, R378).
-/

namespace Sys2Proof.Machine

/-! The spill ring (R378) and held events (R372). -/

/-- Does a message for the core go to its spill ring: it is pre-empted, or the ring is not empty? -/
def spilling (s : State) : Bool := s.core.preempted || !s.core.spill.isEmpty

/-- Words of the save area that the spec gives no layout for (log 18). -/
def freeWords (pa : Nat) : Nat → State → State
  | 0, s => s
  | n + 1, s =>
    let (x, s1) := takeFree s
    freeWords (pa + 8) n (writeNat s1 pa 8 x.toNat)

/-- Write the place at the ring's tail, and the tail count (R368): the target word is this core's SELFID; the layout of
the rest is not given (log 18). -/
def ringWrite (s : State) : State :=
  match saveAddr s (0x7000 + 256 * (s.core.spillTail.toNat % 256)) with
  | none => machineCheck s 0 s.core.sys.saveb false
  | some pa =>
    saveSync ((freeWords (pa + 8) 31 (writeNat s pa 8 ((selfId s 0).toNat % 2 ^ 32))).modCore fun c =>
      { c with spillTail := c.spillTail + 1 }) 0x5828 (bytesLE 8 (s.core.spillTail + 1).toNat)

/-- A message joins the ring, or waits in the fabric behind 256 others (R378). -/
def toSpill (s : State) (m : Spilled) : State :=
  let s1 := if s.core.spill.length < 256 then ringWrite s else s
  s1.modCore fun c => { c with spill := c.spill ++ [m] }

/-- The head of the ring leaves, the head count rises, and a message that the fabric holds takes its place. -/
def dropSpill (s : State) : State :=
  let s1 := if 256 < s.core.spill.length then ringWrite s else s
  saveSync (s1.modCore fun c => { c with spill := c.spill.drop 1, spillHead := c.spillHead + 1 }) 0x5820
    (bytesLE 8 (s.core.spillHead + 1).toNat)

/-- An event takes its place in the event list of the save area (R368, R372). -/
def keepEvent (s : State) (e : Event) : State :=
  saveSync (s.modCore fun c => { c with events := c.events ++ [e] }) (0x5900 + 16 * s.core.events.length) e.bytes

/-- An event for the control context: held, or in the ring when the 16 places are full (R372). -/
def holdEvent (s : State) (e : Event) : State :=
  if spilling s ∨ 16 ≤ s.core.events.length then toSpill s (.event e) else keepEvent s e

/-- The CAUSE word and TVAL of an event (R365, R366). -/
def eventOf (code detail : Nat) (tval : Word) : Event :=
  { cause := BitVec.ofNat 64 (detail * 2 ^ 8 + code), tval := tval }

/-- An entry has come to the item or the continuation queue: it ends an IDLE, or raises an upcall (R78). -/
def arrival (s : State) : State := if (s.at 0).idle then s else holdEvent s (eventOf 0x40 0 (pendq s))

/-! Installing what a wait acquired (R51, R53). -/

/-- The entry to spill whose context has room in its owed area. -/
def victimWithRoom (s : State) : Option (Fin 11 × Obl) :=
  (firstSpilled (s.core.reeve.filter fun o =>
      !keptBack s.core.reeve o && (slotOf o.owner.toNat).any fun j => owedFree s j != 0)).bind fun o =>
    (slotOf o.owner.toNat).map fun j => (j, o)

/-- An entry goes to the owed-area place that its context had reserved (R53). -/
def intoReserved (s : State) (i : Fin 11) (o : Obl) : State :=
  match owedUpdate s i (· ++ [o]) with
  | some t => t
  | none => machineCheck s 0 s.core.sys.owedb true

/-- An obligation with a reserved place where the Reeve's own victim finds its owed area full: the context spills the
highest entry of its own that it need not keep back, the new one among them, into that place. With no resident entry,
it takes the place of another context's entry that has room, or waits in its owed area for a refill (log 19). -/
def installReserved (s : State) (i : Fin 11) (o : Obl) : State :=
  let swap (v : Obl) : State := s.modCore fun c => { c with reeve := c.reeve.filter (fun p => p != v) ++ [o] }
  if (lowRank i s.core.reeve).isSome then
    match spillVictim ((s.core.reeve.filter fun p => p.owner == o.owner) ++ [o]) with
    | none => intoReserved s i o
    | some v => if v = o then intoReserved s i o else intoReserved (swap v) i v
  else match victimWithRoom s with
    | some (j, v) => intoReserved (swap v) j v
    | none => send (intoReserved s i o) (.refill (BitVec.ofNat 4 i.val))

/-- Install an obligation that has its place (R51, R53). -/
def installKept (s : State) (i : Fin 11) (h : Word) (k : OblKind) : State :=
  match install s i h k with
  | .ok s1 => s1
  | .check => machineCheck s 0 s.core.sys.owedb true
  | .full =>
    installReserved (s.modCore fun c => { c with installs := c.installs + 1 }) i
      { h := h, kind := k, owner := BitVec.ofNat 4 i.val, mult := 1, order := s.core.installs }

/-- Install what an answer or a wake brings. -/
def installAcq (s : State) (i : Fin 11) : Option (Word × OblKind) → State
  | none => s
  | some (h, k) => installKept s i h k

/-- Write a result, and the message registers: ENQ and DEQ get an address, a MAILBOX wait a message and a
reply (R281, R310). -/
def writeAnswer (s : State) (i : Fin 11) (a : Asked) (r : Word) (msg : Option (Word × Word)) : State :=
  match a.d with
  | none => s
  | some d =>
    let s1 := deliverG s i d r
    match msg with
    | none => s1
    | some (m, reply) =>
      let s2 := deliverG s1 i (d + 1) m
      if a.op = some .enq ∨ a.op = some .deq then s2 else deliverG s2 i (d + 2) reply

/-- Release the owed-area place of a request, if it reserved one. -/
def release (s : State) (i : Fin 11) (a : Asked) : State := if a.reserved then unreserve s i else s

/-- A wait's end has acquire effect (R281). -/
def acquire (s : State) (i : Fin 11) (a : Asked) : State :=
  if a.op.isSome then s.modAct i fun x => { x with after := x.seq } else s

/-- The result word of a wait (R56). -/
def waitResult (status detail value : Nat) : Word :=
  BitVec.ofNat 64 (status * 2 ^ 60 + detail % 2 ^ 28 * 2 ^ 32 + value % 2 ^ 32)

/-- The frame of a slot shows no queued wait any more (R369, R370). -/
def frameWaitEnds (s : State) (i : Fin 11) : State :=
  if (s.at i).framed then
    match saveAddr s (0x800 * i.val) with
    | none => machineCheck s 0 s.core.sys.saveb false
    | some pa => writeNat s (pa + 0x650) 1 ((readNat s (pa + 0x650) 1) &&& 0xBF)
  else s

/-- A queued wait ends: the obligation with the wake, the result, the slot READY, or HELD where a HOLD
waits for this (R51, R56, R63). -/
def endWait (s : State) (i : Fin 11) (r : Word) (msg : Option (Word × Word))
    (acq : Option (Word × OblKind)) : State :=
  match (s.at i).act.wait with
  | none => s
  | some a =>
    let s1 := installAcq (release s i a) i acq
    let s2 := frameWaitEnds (acquire (writeAnswer s1 i a r msg) i a) i
    let c := s2.at i
    s2.setAt i { c with
      act := { c.act with wait := none }
      slotState := if c.heldFrom.isSome then .held else .ready
      heldFrom := if c.heldFrom.isSome then some .ready else none }

/-! R58. -/

/-- Does a handle's home lie on this device (R11)? A handle of rank 0 names no object anywhere and is
refused here (R48, R276). -/
def homeHere (s : State) (h : Word) : Bool := fld h 32 12 == s.loc.dev.toNat || rankOf h == 0

/-- The object at a handle's index (R47). -/
def objAt (s : State) (h : Word) : Option Obj :=
  s.signals.objects.find? fun o => o.dev.toNat == fld h 32 12 && o.index.toNat == fld h 8 24

/-- The live object a handle names: GEN and RANK match its record (R54, check 1). -/
def objOf (s : State) (h : Word) : Option Obj :=
  (objAt s h).filter fun o => o.gen.toNat == fld h 0 8 && o.rank.toNat == rankOf h

/-- Put an object's record back. -/
def setObj (s : State) (o : Obj) : State :=
  { s with signals := { s.signals with objects :=
    (s.signals.objects.map fun p => if p.dev = o.dev ∧ p.index = o.index then o else p) } }

/-- The home removes a waiter of its object; false where it is queued no more. -/
def removeWaiter (s : State) (h : Word) (who : Agent) : State × Bool :=
  match objOf s h with
  | none => (s, false)
  | some o =>
    if o.waiters.any fun w => w.who == who then
      (setObj s { o with waiters := o.waiters.filter fun w => w.who != who }, true)
    else (s, false)

/-- An obligation of a rank arrives at a slot in a wait: a wait of that rank or above ends with status 4,
detail 2, unless its home has satisfied it already (R58). A home elsewhere gets a cancel, and the wait ends with the one
wake that it answers (log 20). -/
def rankAbort (s : State) (i : Fin 11) (sigma : Nat) : State :=
  match (s.at i).act.wait with
  | none => s
  | some a =>
    if rankOf a.h < sigma then s
    else if homeHere s a.h then
      match removeWaiter s a.h (.ctx (selfId s i)) with
      | (s1, true) => endWait s1 i (waitResult 4 2 0) none none
      | (s1, false) => s1
    else out s (.event (.cancel a.h (selfId s i) 2))

/-! Transfers (R61). -/

/-- An obligation for a target that cannot take it: the control context, and then the system owed area, whose
overflow is a machine check (R61, R69). -/
def installAside (s : State) (h : Word) (k : OblKind) : State :=
  let s1 := rankAbort s 0 (rankOf h)
  match install s1 0 h k with
  | .ok s2 => s2
  | .check => machineCheck s1 0 s.core.sys.owedb true
  | .full =>
    let s2 := s.modCore fun c => { c with
      sysOwed := c.sysOwed ++ [{ h := h, kind := k, owner := 0, mult := 1, order := c.installs }]
      installs := c.installs + 1 }
    if Config.sysOwedSize < s2.core.sysOwed.length then machineCheck s2 11 h true else s2

/-- A transfer reaches its slot (R61): a wait of the slot at its rank or above ends where the slot takes it (R58). -/
def deliverTransfer (s : State) (i : Fin 11) (h : Word) (k : OblKind) : State :=
  if (s.at i).slotState = .free then
    holdEvent (installAside s h k) (eventOf 0x44 (oblCode k) h)
  else
    let s1 := rankAbort s i (rankOf h)
    match install s1 i h k with
    | .ok s2 => s2
    | .check => machineCheck s1 0 s.core.sys.owedb true
    | .full => installAside s h k

/-! The instructions of chapter 12's OBL and WT majors. -/

/-- Send a request to a home and stay at the instruction (R54, R275). -/
def askHome (s : State) (a : Asked) (m : Msg) : State :=
  send ((undoIssue s).modAct s.core.cur fun x => { x with blocked := some a }) m

/-- Ask without a reservation. -/
def askFor (s : State) (h : Word) (d : Option (BitVec 5)) (op : HomeOp) : State :=
  askHome s { h := h, d := d, op := none, kind := none, reserved := false } (.homeOperation op (.ctx (me s)))

/-- Reserve an owed-area place (R53). -/
def reserve (s : State) : State :=
  s.modAct s.core.cur fun a => { a with reserved := a.reserved + 1 }

/-- Does the g[b] of ONEW keep its map (R276)? -/
def onewMap (b : Word) (kind : BitVec 5) : Bool :=
  fld b 52 12 == 0 && fld b 25 7 == 0 && (kind == 5 || !b.getLsbD 24)
    && (if kind = 5 then decide (1 ≤ fld b 0 24)
        else if kind = 6 then decide (1 ≤ fld b 0 24) && decide (fld b 0 24 ≤ 4096)
        else fld b 0 24 == 0)

/-- ONEW: the map, the rank, the scope (R276, R321). -/
def execOnew (d a b kind : BitVec 5) (s : State) : Host.Outcome State Fault Refusal :=
  let x := gv s b
  let rank := fld x 32 20
  let scope := scopeOperand s a
  .next (if !onewMap x kind then trap s 6 x
    else if rank < 1 ∨ rank < s.ctx.user.rankLo.toNat ∨ s.ctx.user.rankHi.toNat ≤ rank then
      trap s 7 (BitVec.ofNat 64 rank)
    else if scopeMalformed scope ∨ !scopeHolds scope s.loc.dev (me s) then trap s 6 scope
    else askFor s 0 (some d) (.onew scope x kind))

/-- OFREE (R65, R277). -/
def execOfree (a : BitVec 5) (s : State) : Host.Outcome State Fault Refusal :=
  .next (askFor s (gv s a) none (.ofree (gv s a)))

/-- OBLIG (R50, R277). -/
def execOblig (d a : BitVec 5) (s : State) : Host.Outcome State Fault Refusal :=
  .next (askFor s (gv s a) (some d) (.oblig (gv s a)))

/-- OQRY (R283). -/
def execOqry (d a field : BitVec 5) (s : State) : Host.Outcome State Fault Refusal :=
  .next (askFor s (gv s a) (some d) (.oqry (gv s a) field))

/-- POLL reserves as a wait does and makes no rank check (R282). -/
def execPoll (d a : BitVec 5) (s : State) : Host.Outcome State Fault Refusal :=
  let h := gv s a
  .next (if owedFree s s.core.cur = 0 then trap s 11 h
    else askHome (reserve s) { h := h, d := some d, op := none, kind := none, reserved := true }
      (.homeOperation (.poll h) (.ctx (me s))))

/-- MINHELD of a context without one of its obligations, resident or spilled (R53). -/
def minHeldWithout (s : State) (i : Fin 11) (h : Word) (k : OblKind) : Nat :=
  let all := s.core.reeve ++ s.core.spilled
  (lowRank i ((unbump i h k all).getD all)).getD 0xFFFFFFFF

/-- Does a DEQ name the DATA of a stage queue whose SPACE the context owes? DEDUCED: R319 requires RANK there, which the
comparison of R53 alone does not give (log 63). -/
def owesSpaceOf (s : State) (i : Fin 11) (h : Word) : Bool :=
  s.signals.queues.any fun q => q.data == h && holds s i q.space .release

/-- WaitIssue (R53), with the row of R319 on DEQ. -/
def waitIssue (s : State) (d : BitVec 5) (h : Word) (op : WaitOp) : State :=
  let i := s.core.cur
  let barw := op == .barw
  if barw && !holds s i h .arrive then trap s 6 h
  else
    let held := if barw then minHeldWithout s i h .arrive else minHeld s i
    if held ≤ rankOf h ∨ (op = .deq ∧ owesSpaceOf s i h) then trap s 7 h
    else if owedFree s i = 0 then trap s 11 h
    else
      let s1 := endLlk (reserve (undoIssue s)) i
      let s2 := if barw then (removeObl s1 i h .arrive).getD s1 else s1
      askHome s2 { h := h, d := some d, op := some op, kind := none, reserved := true }
        (.waitRequest h op (.ctx (me s)))

/-- WAIT (R281). -/
def execWait (d a : BitVec 5) (s : State) : Host.Outcome State Fault Refusal :=
  .next (waitIssue s d (gv s a) .wait)

/-- BARW (R281). -/
def execBarw (d a : BitVec 5) (s : State) : Host.Outcome State Fault Refusal :=
  .next (waitIssue s d (gv s a) .barw)

/-- The first kind of a list that the context holds on an object. -/
def heldKind (s : State) (h : Word) : List OblKind → Option OblKind
  | [] => none
  | k :: rest => if holds s s.core.cur h k then some k else heldKind s h rest

/-- Discharge one obligation of the issuing context (R278). -/
def discharge (s : State) (h : Word) (k : OblKind) (how : DisHow) : State :=
  send ((removeObl s s.core.cur h k).getD s) (.discharge h k how (.ctx (me s)))

/-- OSIG: SIGNAL or ARRIVE (R278). -/
def execOsig (a : BitVec 5) (s : State) : Host.Outcome State Fault Refusal :=
  let h := gv s a
  .next (match heldKind s h [.signal, .arrive] with
    | none => trap s 6 h
    | some k => retire (discharge s h k .ok))

/-- OREL: RELEASE (R278). -/
def execOrel (a : BitVec 5) (s : State) : Host.Outcome State Fault Refusal :=
  let h := gv s a
  .next (match heldKind s h [.release] with
    | none => trap s 6 h
    | some k => retire (discharge s h k .ok))

/-- OFAIL: any kind, with a code (R278). -/
def execOfail (a b : BitVec 5) (s : State) : Host.Outcome State Fault Refusal :=
  let h := gv s a
  .next (match heldKind s h [.signal, .release, .send, .arrive] with
    | none => trap s 6 h
    | some k =>
      if fld (gv s b) 28 36 ≠ 0 then trap s 6 (gv s b)
      else retire (discharge s h k (.fail ((gv s b).truncate 28))))

/-- OSEND: with a reply mailbox, the reply's home reserves a slot before anything is discharged (R279). -/
def execOsend (d a b c : BitVec 5) (s : State) : Host.Outcome State Fault Refusal :=
  let h := gv s a
  .next (if !holds s s.core.cur h .send then trap s 6 h
    else if c = 0 then retire (wg (discharge s h .send (.send (gv s b) 0)) d 0)
    else askHome s { h := h, d := some d, op := none, kind := some .send, reserved := false }
      (.homeOperation (.osend h (gv s b) (gv s c)) (.ctx (me s))))

/-- OTRN (R61, R280). -/
def execOtrn (a b kind : BitVec 5) (s : State) : Host.Outcome State Fault Refusal :=
  let h := gv s a
  let t := gv s b
  let k := oblOfCode kind.toNat
  .next (if !holds s s.core.cur h k then trap s 6 h
    else if fld t 36 28 ≠ 0 ∨ 10 < fld t 32 4 ∨ (targetDetail s (zextN t 32)).isSome then trap s 6 h
    else if t.toNat = (me s).toNat then retire s
    else retire (send ((removeObl s s.core.cur h k).getD s)
      (.obligationTransfer h k (BitVec.ofNat 36 t.toNat) (.ctx (me s)))))

/-- May a slot's obligations be seized (R62)? -/
def seizable (s : State) (i : Fin 11) : Bool :=
  i != 0 && ((s.at i).slotState == .trapped || (s.at i).slotState == .unsettled || (s.at i).slotState == .held)

/-- OSEIZE (R62, R280): the obligations move in one step; another core answers an S-level seizure with all of
them. -/
def execOseize (d a : BitVec 5) (s : State) : Host.Outcome State Fault Refusal :=
  let t := gv s a
  let i := s.core.cur
  .next (match s.ctx.level with
    | .h => trapPriv s
    | l =>
      match (if fld t 36 28 = 0 then localSlot s (BitVec.ofNat 36 t.toNat) else none) with
      | some j =>
        if !seizable s j then trapPriv s
        else
          let os := sortObls (oblsOf s j)
          match installAll i (os.map fun o => (o.h, o.kind, o.mult)) (dropObls s j) with
          | (.ok s1, _) => retire (wg s1 d (BitVec.ofNat 64 (countObls os)))
          | (.full, h) => trap s 11 h
          | (.check, _) => machineCheck s 0 s.core.sys.owedb true
      | none =>
        if l = .s ∧ fld t 36 28 = 0 ∧ (targetDetail s (zextN t 32)).isNone ∧ 1 ≤ fld t 32 4 ∧ fld t 32 4 ≤ 10 then
          out ((undoIssue s).modAct i fun x => { x with
            blocked := some { h := t, d := some d, op := none, kind := none, reserved := false } })
            (.event (.seizure (me s) (t.truncate 36)))
        else trapPriv s)

/-- RSPLIT (R59, R81, R280). -/
def execRsplit (a b : BitVec 5) (s : State) : Host.Outcome State Fault Refusal :=
  let lo := gv s a
  let hi := gv s b
  .next (if lo.toNat < hi.toNat ∧ s.ctx.user.rankLo.toNat ≤ lo.toNat ∧ hi.toNat ≤ s.ctx.user.rankHi.toNat then
      retire (s.modAct s.core.cur fun x => { x with window := some (lo.truncate 21, hi.truncate 21) })
    else trap s 7 lo)

/-! Events at the core. -/

/-- The request of a slot ends without an effect: its trap is precise (R54, R275). -/
def answerFault (s : State) (i : Fin 11) (a : Asked) (c : Cause) (tval : Word) (giveBack : Bool) : State :=
  let s1 := release s i a
  let word : Word := (tcmWord s (fld (s.at i).queue.q0 0 15)).zeroExtend 64
  trapIn (if giveBack then installKept s1 i a.h .arrive else s1) i { code := c, tval := if c = 2 then word else tval }

/-- An answer lands in its registers, and the context goes on after its request (R275). -/
def answerFinish (s : State) (i : Fin 11) (a : Asked) (r : Word) (msg : Option (Word × Word)) : State :=
  let t := acquire (writeAnswer (popDue s i) i a r msg) i a
  t.setAt i (t.at i).advance

/-- A discharge or transfer that its home has taken gives the obligation up (R275, R278). -/
def payAsked (s : State) (i : Fin 11) (a : Asked) (r : Word) : State :=
  match a.kind with
  | some k => if r = 0 then (removeObl s i a.h k).getD s else s
  | none => s

/-- The request is answered: the obligations move, the results are written, and the instruction is done
(R51, R275). -/
def answerDone (s : State) (i : Fin 11) (a : Asked) (r : Word) (msg : Option (Word × Word))
    (acq : Option (Word × OblKind)) : State :=
  let s1 := payAsked s i a r
  if a.reserved then answerFinish (installAcq (release s1 i a) i acq) i a r msg
  else match acq with
    | none => answerFinish s1 i a r msg
    | some (h, k) =>
      match install s1 i h k with
      | .ok s2 => answerFinish s2 i a r msg
      | .check => machineCheck s1 0 s.core.sys.owedb true
      | .full =>
        trapIn (send s1 (.homeOperation (.withdraw h) (.ctx (selfId s i)))) i { code := 11, tval := h }

/-- What a seizure of another core's context took is installed in one step; where it finds no place, OWEDFULL is
precise and it goes back (R62, R69). -/
def answerSeized (s : State) (i : Fin 11) (a : Asked) (os : List (Word × OblKind × Nat)) : State :=
  match installAll i os s with
  | (.ok s1, _) => answerFinish s1 i a (BitVec.ofNat 64 (os.map fun o => o.2.2).sum) none
  | (.check, _) => machineCheck s 0 s.core.sys.owedb true
  | (.full, h) =>
    trapIn { s with outbox := s.outbox ++ os.flatMap fun o =>
        List.replicate o.2.2 (.event
          (.obligationTransfer o.1 o.2.1 (a.h.truncate 36) (.ctx (selfId s i)))) } i { code := 11, tval := h }

/-- The wait is queued: the instruction is done but for its result (R54, R281). -/
def answerQueued (s : State) (i : Fin 11) (a : Asked) : State :=
  let s1 := popDue s i
  let c := (s1.at i).advance
  let c1 := match a.d with
    | some d => c.pendG d true
    | none => c
  let s2 := s1.setAt i { c1 with slotState := .waiting, act := { c1.act with wait := some a } }
  if minHeld s2 i ≤ rankOf a.h then rankAbort s2 i 0 else s2

/-- HOME_ANSWER (R275). -/
def execHomeAnswer (s : State) : Host.Outcome State Fault Refusal :=
  .next (match s.event with
    | some (.homeAnswer ans who) =>
      match localSlot s who with
      | none => out s (.event (.homeAnswer ans who))
      | some i =>
        match (s.at i).act.blocked with
        | none => s
        | some a =>
          let s1 := s.modAct i fun x => { x with blocked := none }
          match ans with
          | .done r msg acq => answerDone s1 i a r msg acq
          | .queued => answerQueued s1 i a
          | .fault c tval giveBack => answerFault s1 i a c tval giveBack
          | .seized os => answerSeized s1 i a os
    | _ => s)

/-- Deliver the head of the ring; none where it must stay (R88, R378). -/
def deliverSpilled (s : State) : Spilled → Option State
  | .event e => if 16 ≤ s.core.events.length then none else some (keepEvent s e)
  | .msg (.wake r msg acq who) =>
    match localSlot s who with
    | some i => some (endWait s i r msg acq)
    | none => some s
  | .msg (.obligationTransfer h k t _) =>
    match localSlot s t with
    | some i => some (deliverTransfer s i h k)
    | none => some s
  | .msg (.continuationMessage _ r l) =>
    if 16 ≤ s.core.contQ.length then none
    else some (arrival ((keepForeign s l).modCore fun c => { c with contQ := c.contQ ++ [r] }))
  | .msg _ => some s

/-- Redeliver the ring from its head, as far as it can be delivered; what a delivery sends to the core joins the tail
while messages are left (R378). -/
def redeliver : Nat → State → State
  | 0, s => s
  | n + 1, s =>
    match s.core.spill with
    | [] => s
    | m :: _ =>
      match deliverSpilled (dropSpill s) m with
      | none => s
      | some s1 => redeliver n s1

/-- SPILL_REDELIVERY (R378). -/
def execSpillRedelivery (s : State) : Host.Outcome State Fault Refusal :=
  .next (match s.event with
    | some .spillRedelivery => if s.core.preempted then s else redeliver s.core.spill.length s
    | _ => s)

/-- A wait's end has reached the spill ring: a slot that a HOLD waits for is HELD (R63). -/
def heldBySpill (s : State) (i : Fin 11) : State :=
  let c := s.at i
  if c.heldFrom.isSome ∧ c.act.wait.isSome then s.setAt i { c with slotState := .held } else s

/-- WAKE (R56, R281, R378). -/
def execWake (s : State) : Host.Outcome State Fault Refusal :=
  .next (match s.event with
    | some (.wake r msg acq who) =>
      match localSlot s who with
      | none => out s (.event (.wake r msg acq who))
      | some i =>
        if spilling s then heldBySpill (toSpill s (.msg (.wake r msg acq who))) i else endWait s i r msg acq
    | _ => s)

/-- An S-level OSEIZE of another core: what the context holds leaves in one step, or PRIV (R62). -/
def seizedFrom (s : State) (who target : BitVec 36) (j : Fin 11) : State :=
  if seizable s j then
    out (dropObls s j) (.event (.homeAnswer
      (.seized ((sortObls (oblsOf s j)).map fun o => (o.h, o.kind, o.mult))) who))
  else out s (.event (.homeAnswer (.fault 2 (target.zeroExtend 64) false) who))

/-- OBLIGATION_TRANSFER (R61), and the seizure of another core's system level (R62). -/
def execObligationTransfer (s : State) : Host.Outcome State Fault Refusal :=
  .next (match s.event with
    | some (.obligationTransfer h k t src) =>
      match localSlot s t with
      | none => out s (.event (.obligationTransfer h k t src))
      | some i =>
        if spilling s then toSpill s (.msg (.obligationTransfer h k t src)) else deliverTransfer s i h k
    | some (.seizure who t) =>
      match localSlot s t with
      | none => out s (.event (.seizure who t))
      | some i => seizedFrom s who t i
    | _ => s)

/-- The lowest-ranked spilled entry of a slot, the earliest installed of a rank. -/
def lowestSpilled (s : State) (i : Fin 11) : Option Obl :=
  (s.core.spilled.filter fun o => o.owner.toNat == i.val).foldl
    (fun best o => match best with
      | none => some o
      | some b => if rankOf o.h < rankOf b.h ∨ (rankOf o.h = rankOf b.h ∧ o.order < b.order) then some o
        else some b) none

/-- Room in the Reeve for one more entry: a victim goes to its owed area (R68), or the first victim that has room there
where that is full (log 59). None where none has. -/
def makeRoom (s : State) : Option State :=
  let spill (j : Fin 11) (v : Obl) : Install :=
    toOwed (s.modCore fun c => { c with reeve := c.reeve.filter fun p => p != v }) j v
  if s.core.reeve.length < 256 then some s
  else match (spillVictim s.core.reeve).bind fun v => (slotOf v.owner.toNat).map fun j => spill j v with
    | some (.ok t) => some t
    | some .full =>
      match (victimWithRoom s).map fun p => spill p.1 p.2 with
      | some (.ok t) => some t
      | _ => none
    | _ => none

/-- The Reeve reloads a spilled entry from the owed area (R67, R68). DESIGN CHOICE: where the Reeve is full and its
every victim's owed area is too, the refill ends in a machine check; OWEDFULL is an instruction's (log 59). -/
def refill (s : State) (i : Fin 11) : State :=
  match owedLoad s i with
  | none => machineCheck s 0 s.core.sys.owedb true
  | some s1 =>
    match lowestSpilled s1 i with
    | none => s1
    | some o =>
      match makeRoom (s1.modCore fun c => { c with spilled := c.spilled.filter fun p => p != o }) with
      | none => machineCheck s 0 s.core.sys.owedb true
      | some t =>
        match owedWrite (t.modCore fun c => { c with reeve := c.reeve ++ [o] }) i with
        | some u => u
        | none => machineCheck s 0 s.core.sys.owedb true

/-- REFILL (R68). -/
def execRefill (s : State) : Host.Outcome State Fault Refusal :=
  .next (match s.event with
    | some (.refill slot) =>
      match slotOf slot.toNat with
      | some i => if refilling s i then refill s i else s
      | none => s
    | _ => s)

end Sys2Proof.Machine
end

