-- ==== Sys2Proof/Machine/Agents.lean ====
section
/-!
DEFINITION. The agents of memory: page walkers, translation agents, migration, and Commons leases (R229 to
R235, R240 to R244).
-/

namespace Sys2Proof.Machine

/-! Translation (R229 to R232). -/

/-- PAGE_WALK: a walk fills the TLBs; one that faults fills none (R229, R230). -/
def execPageWalk (s : State) : Host.Outcome State Fault Refusal :=
  .next (match s.event with
    | some (.pageWalk xroot va) => if xroot.getLsbD 0 then (findLeaf s xroot (fld va 0 55)).1 else s
    | _ => s)

/-- Does a TLB entry translate a page of a domain? -/
def TlbEntry.covers (t : TlbEntry) (domain : BitVec 8) (va : Nat) : Bool :=
  t.domain == domain && t.vpage == (if t.large then va / 2 ^ 29 else va / 2 ^ 16)

/-- TLB_INVALIDATION: no TLB of a core in the scope holds the old entry, and the agent acknowledges (R231). -/
def execTlbInvalidation (s : State) : Host.Outcome State Fault Refusal :=
  .next (match s.event with
    | some (.tlbInvalidation domain va scope) =>
      let v := fld va 0 55
      let holds' (k : BitVec 3) : Bool := scopeHolds scope s.loc.dev (0#4 ++ s.loc.dev ++ s.loc.die ++ s.loc.cluster ++ k ++ 0#7)
      let drop (l : List TlbEntry) : List TlbEntry := l.filter fun t => !t.covers domain v
      let s1 := if holds' s.loc.core then s.modCore fun c => { c with tlb1 := drop c.tlb1 } else s
      let s2 := if ([0, 1, 2, 3, 4, 5, 6, 7] : List (BitVec 3)).any holds' then
          s1.modCluster fun c => { c with tlb2 := drop c.tlb2 }
        else s1
      out s2 (.invalidated va)
    | _ => s)

/-- A notice for the control context: it is addressed to the core, and so ends an IDLE (R150, R232). -/
def notice (s : State) (page : Word) : State :=
  (holdEvent s (eventOf 0x43 0 page)).modCore fun c => { c with sysMsg := true }

/-- COMPLETION_NOTICE (R232). -/
def execCompletionNotice (s : State) : Host.Outcome State Fault Refusal :=
  .next (match s.event with
    | some (.completionNotice page) => notice s page
    | _ => s)

/-! Migration (R233 to R235). -/

/-- Is a page the one that an address and a PTE name: two root tables may have pages at one address? -/
def MigPage.is (p : MigPage) (va pte : Word) : Bool := p.va == va && p.pte == pte

/-- The page at its home agent. DEDUCED: one that the agent has not moved yet lies where its PTE says, on the device
when the PTE is valid and names this device, else on the host (log 51). -/
def migPage (s : State) (va pte : Word) : MigPage :=
  (s.hw.mig.find? fun p => p.is va pte).getD
    (let e := readNat s pte.toNat 8
     let pa := BitVec.ofNat 64 (nfld e 52 12 * 2 ^ 52 + nfld e 16 36 * 2 ^ 16)
     let here := e % 2 == 1 && nfld e 52 12 == s.loc.dev.toNat
     { va := va, pte := pte, dev := if here then pa else 0, host := if here then 0 else pa
       onDevice := here, remote := false, pinned := false, moves := [] })

/-- Bytes of a page: a large one has 512 MiB (R228). -/
def migBytes (s : State) (p : MigPage) : Nat := if (readNat s p.pte.toNat 8).testBit 12 then 2 ^ 29 else 2 ^ 16

/-- The PTE of a page on the device's side: invalid where the page is on the host alone, else naming where it lies,
with PINR as it stands (R228, R233, R234). -/
def migPte (old : Nat) (p : MigPage) : Nat :=
  let pa := if p.onDevice then p.dev else p.host
  let e := setFld (setFld old 16 36 (nfld pa.toNat 16 36)) 52 12 (nfld pa.toNat 52 12)
  let e1 := setFld e 10 1 (p.remote && p.pinned && !p.onDevice).toNat
  setFld e1 0 1 (p.onDevice || p.remote).toNat

/-- Put the page back, with its mappings changed on both sides: the PTE written and its old translations invalidated on
the device's side, and the host's mapping sent to it, with PINR where it is remote and pinned (R231, R233, R234). -/
def setMig (s : State) (p : MigPage) : State :=
  let va := fld p.va 0 55
  let drop (l : List TlbEntry) : List TlbEntry := l.filter fun t => !t.covers t.domain va
  let s1 := if p.pte = 0 then s else writeBytes s p.pte.toNat (bytesLE 8 (migPte (readNat s p.pte.toNat 8) p))
  let s2 := (s1.modCore fun c => { c with tlb1 := drop c.tlb1 }).modCluster fun c => { c with tlb2 := drop c.tlb2 }
  out { s2 with hw := { s2.hw with mig := (s2.hw.mig.filter fun q => !q.is p.va p.pte) ++ [p] } }
    (.moved p.va (if p.onDevice then p.dev else p.host) p.onDevice p.remote (p.remote && p.pinned && p.onDevice))

/-- The agent's copy of a page's bytes; none where an error stops it, or a side has no place for it (R233). -/
def migCopy (s : State) (p : MigPage) (toDevice : Bool) : Option State :=
  let n := migBytes s p
  let src := (if toDevice then p.host else p.dev).toNat
  let dst := (if toDevice then p.dev else p.host).toNat
  if src = 0 ∨ dst = 0 ∨ !physExists s src ∨ !physExists s dst ∨ eccBad s src n then none
  else some (writeBytes (eccClear s dst n) dst (Memory.bytes s.mem src n))

/-- 10 ms in reference cycles. -/
def ref10ms : Nat := 1562500

/-- The moves of a page within the last 10 ms. -/
def MigPage.recent (p : MigPage) (ref : Nat) : List Nat := p.moves.filter fun t => decide (ref < t + ref10ms)

/-- The page stays, mapped on the other side: with PINR when this move is one too many (R234, R235). -/
def remoteMap (s : State) (p : MigPage) : State :=
  let pin := decide (s.hw.control.migmax.toNat < (p.recent s.clock.ref).length + 1)
  let s1 := setMig s { p with remote := true, pinned := p.pinned || pin, moves := p.recent s.clock.ref ++ [s.clock.ref] }
  if pin then after s1 (s.clock.ref + 10 * ref10ms) (.pinrExpiry p.va p.pte) else s1

/-- The page moves: its bytes, then its mappings. DESIGN CHOICE: a copy that fails leaves the page where it is (log
51). -/
def movePage (s : State) (p : MigPage) (toDevice : Bool) : State :=
  match migCopy s p toDevice with
  | none => s
  | some s1 => setMig s1 { p with onDevice := toDevice, remote := false, moves := p.recent s.clock.ref ++ [s.clock.ref] }

/-- One request alone: the page moves, unless it has moved too often or is pinned (R233, R234). -/
def migrateOne (s : State) (p : MigPage) (toDevice : Bool) : State :=
  if p.onDevice = toDevice ∨ p.pinned then s
  else if s.hw.control.migmax.toNat < (p.recent s.clock.ref).length + 1 then remoteMap s p
  else movePage s p toDevice

/-- Does a request ask for the page on the device: does it come from a context? -/
def fromDevice : Agent → Bool
  | .ctx _ => true
  | _ => false

/-- The notice of a request (R232, R235). -/
def migNotice (s : State) (va : Word) : Agent → State
  | .ctx sel => if ofCore s sel then send s (.completionNotice va) else out s (.event (.completionNotice va))
  | .host dev => out s (.notice dev va)
  | _ => s

/-- A request for a page by the other side. -/
def opposes (va pte : Word) (src : Agent) : Msg → Bool
  | .migrationRequest va' src' pte' _ => va' == va && pte' == pte && fromDevice src' != fromDevice src
  | _ => false

/-- The agent's page with the place that a request brings for its side. -/
def MigPage.withPlace (p : MigPage) (toDevice : Bool) (place : Word) : MigPage :=
  if place = 0 ∨ p.onDevice = toDevice then p else if toDevice then { p with dev := place } else { p with host := place }

/-- A migration request at its home agent: opposite requests for one page find it where it is, and the other side gets
a remote mapping; every request gets a notice (R233, R235). -/
def migrate (s : State) (va : Word) (src : Agent) (pte place : Word) : State :=
  let p := migPage s va pte
  match s.agenda.find? (opposes va pte src) with
  | some (.migrationRequest va' src' pte' place') =>
    let s1 := { s with agenda := s.agenda.erase (.migrationRequest va' src' pte' place') }
    migNotice (migNotice (if p.pinned then s1 else remoteMap s1 p) va src) va src'
  | _ => migNotice (migrateOne s (p.withPlace (fromDevice src) place) (fromDevice src)) va src

/-- MIGRATION_REQUEST: at the agent of die VA[18:16] of the device that maps the page; and a write of MIGMAX, from 1 to
255 (R233 to R235). -/
def execMigrationRequest (s : State) : Host.Outcome State Fault Refusal :=
  .next (match s.event with
    | some (.migrationRequest va src pte place) =>
      if fld va 16 3 = s.loc.die.toNat then migrate s va src pte place
      else out s (.event (.migrationRequest va src pte place))
    | some (.migrationConfig max) =>
      if max = 0 then s else { s with hw := { s.hw with control := { s.hw.control with migmax := max } } }
    | _ => s)

/-- PINR_EXPIRY (R234). -/
def execPinrExpiry (s : State) : Host.Outcome State Fault Refusal :=
  .next (match s.event with
    | some (.pinrExpiry va pte) =>
      match s.hw.mig.find? fun p => p.is va pte with
      | some p => setMig s { p with pinned := false }
      | none => s
    | _ => s)

/-! Leases (R240 to R244). -/

/-- A field of a lease record. -/
def Lease.fld (l : Lease) (lo n : Nat) : Nat := nfld l.record.toNat lo n

/-- LEASEID. -/
def Lease.id (l : Lease) : Nat := l.fld 280 12

/-- A lease with its STATE changed. -/
def Lease.setSt (l : Lease) (st : Nat) : Lease := { l with record := BitVec.ofNat 512 (setFld l.record.toNat 316 4 st) }

/-- LESSOR. -/
def Lease.lessor (l : Lease) : Nat := l.fld 292 12

/-- The lease of a lessor's id (R240). -/
def leaseOf (s : State) (lessor id : BitVec 12) : Option Lease :=
  s.hw.leases.find? fun l => l.id == id.toNat && l.lessor == lessor.toNat

/-- Put a lease back. -/
def setLease (s : State) (l : Lease) : State :=
  { s with hw := { s.hw with
    leases := (s.hw.leases.filter fun x => !(x.id == l.id && x.lessor == l.lessor)) ++ [l] } }

/-- The core that an UPLOC names is this one. -/
def upHere (s : State) (core : BitVec 32) : Bool := core == (selfId s 0).truncate 32

/-- A tier-demotion event for the UPLOC core's control context: the start with DETAIL 0, completion with DETAIL 1; the
runtime gets what the completion carries. For another core it leaves (R242, R365). -/
def demotionEvent (s : State) (core : BitVec 32) (id : BitVec 12) (done : Bool) (failed bitmap : Nat) : State :=
  if upHere s core then
    let s1 := holdEvent s (eventOf 0x42 done.toNat (id.zeroExtend 64))
    if done then out s1 (.demotion id failed bitmap) else s1
  else out s (.event (.demotionEvent core id done failed bitmap))

/-- The event of a lease at its lessor. -/
def leaseEvent (s : State) (l : Lease) (done : Bool) : State :=
  demotionEvent s (BitVec.ofNat 32 (l.fld 224 32)) (BitVec.ofNat 12 l.id) done l.failed.length l.bitmap

/-- LEASE_SETUP: a record, or a record that ends its lease (R240). -/
def execLeaseSetup (s : State) : Host.Outcome State Fault Refusal :=
  .next (match s.event with
    | some (.leaseSetup record bitmap) =>
      let l : Lease := { record := record, copied := 0, failed := [], reached := false, bitmap := bitmap.toNat }
      if l.fld 316 4 = 3 then
        match leaseOf s (BitVec.ofNat 12 l.lessor) (BitVec.ofNat 12 l.id) with
        | some x => setLease s (x.setSt 3)
        | none => s
      else if 3 < l.fld 316 4 ∨ l.id = 0 then s
      else setLease s l
    | _ => s)

/-- The pages of a lease. -/
def Lease.pages (l : Lease) : Nat := l.fld 320 9 * 2 ^ 14

/-- The eviction bound in reference cycles: SIZE × 2^30 / (BW × 10^9) s + 1 ms (R241). -/
def Lease.bound (l : Lease) : Nat :=
  let bw := max 1 (l.fld 336 16)
  (l.fld 320 9 * 2 ^ 30 * 5 + 32 * bw - 1) / (32 * bw) + 156250

/-- Page copies from one page on, 16 at once (R242). -/
def demoteFrom (id : BitVec 12) (total : Nat) : Nat → Nat → State → State
  | 0, _, s => s
  | n + 1, p, s => if p < total then demoteFrom id total n (p + 1) (send s (.demotionPageCopy id p)) else s

/-- No page has failed yet (R242). -/
def clearBitmap (s : State) (l : Lease) : State :=
  if l.bitmap = 0 then s else writeBytes s l.bitmap (List.replicate (l.pages / 8) 0)

/-- A page's bit in the bitmap of failed pages (R242). -/
def failPage (s : State) (l : Lease) (page : Nat) : State :=
  let a := l.bitmap + page / 8
  if l.bitmap = 0 then s else writeBytes s a [Memory.get s.mem a ||| BitVec.ofNat 8 (2 ^ (page % 8))]

/-- RECLAIM: step 1 and the start of step 2; and an event of step 1 or 3 that comes from the lessor (R242). -/
def execReclaim (s : State) : Host.Outcome State Fault Refusal :=
  .next (match s.event with
    | some (.reclaim id) =>
      match leaseOf s s.loc.dev id with
      | none => s
      | some l =>
        if l.fld 316 4 ≠ 0 then s
        else
          let s1 := leaseEvent (setLease (clearBitmap s l) (l.setSt 1)) l false
          demoteFrom id l.pages 16 0 (after s1 (s.clock.ref + l.bound) (.boundReached s.loc.dev id))
    | some (.demotionEvent core id done failed bitmap) => demotionEvent s core id done failed bitmap
    | _ => s)

/-- Copy one 64 KiB page of a lease; none where it fails. -/
def copyPage (s : State) (l : Lease) (page : Nat) : Option State :=
  let src := l.fld 384 64 + 65536 * page
  let dst := l.fld 448 64 + 65536 * page
  if !physExists s src ∨ !physExists s dst ∨ eccBad s src 65536 then none
  else some (writeBytes (eccClear s dst 65536) dst (Memory.bytes s.mem src 65536))

/-- DEMOTION_PAGE_COPY: pages end in increasing offset; with the last, step 3 (R242, R243). -/
def execDemotionPageCopy (s : State) : Host.Outcome State Fault Refusal :=
  .next (match s.event with
    | some (.demotionPageCopy id page) =>
      match leaseOf s s.loc.dev id with
      | none => s
      | some l =>
        if l.fld 316 4 ≠ 1 then s
        else if page ≠ l.copied then send s (.demotionPageCopy id page)
        else
          let (s1, l1) := match copyPage s l page with
            | some t => (t, { l with copied := page + 1 })
            | none => (failPage s l page, { l with copied := page + 1, failed := l.failed ++ [page] })
          if page + 1 < l.pages then demoteFrom id l.pages 1 (page + 16) (setLease s1 l1)
          else leaseEvent (setLease s1 (l1.setSt 2)) l1 true
    | _ => s)

/-- LEASE_ACKNOWLEDGEMENT: step 4 (R242). -/
def execLeaseAcknowledgement (s : State) : Host.Outcome State Fault Refusal :=
  .next (match s.event with
    | some (.leaseAcknowledgement id) =>
      match leaseOf s s.loc.dev id with
      | some l => if l.fld 316 4 = 2 then setLease s (l.setSt 3) else s
      | none => s
    | _ => s)

/-- BOUND_REACHED: it goes to the lessee's translation agents; a lease that has ended never faults (R244). -/
def execBoundReached (s : State) : Host.Outcome State Fault Refusal :=
  .next (match s.event with
    | some (.boundReached lessor id) =>
      match leaseOf s lessor id with
      | none => s
      | some l =>
        if l.fld 316 4 = 3 then s
        else
          let s1 := setLease s { l with reached := true }
          if l.fld 304 12 = s.loc.dev.toNat then s1 else out s1 (.event (.boundReached lessor id))
    | _ => s)

end Sys2Proof.Machine
end

