-- ==== Sys2Proof/Machine/Alu.lean ====
section
/-!
DEFINITION. Integer operations: ALU, MUL, BIT and the I forms (R156 to R159), and MOVK, LEA, GCOORD,
WIDF, SELF and CLOAD (R160, R162).
-/

namespace Sys2Proof.Machine

/-- Write(d, v) and retire (R148). -/
def writeG (s : State) (d : BitVec 5) (v : Word) : State := retire (wg s d v)

/-- A three-operand form: g[d] := f(g[a], g[b]). -/
def aluOp (f : Word → Word → Word) (d a b : BitVec 5) (s : State) : State :=
  writeG s d (f (gv s a) (gv s b))

/-- A two-operand form: g[d] := f(g[a]). -/
def unaryOp (f : Word → Word) (d a : BitVec 5) (s : State) : State := writeG s d (f (gv s a))

/-- The shift count of a register (R156). -/
def shiftCount (b : Word) : Nat := fld b 0 6

/-- Signed division (R158). -/
def divSigned (a b : Word) : Word :=
  if b = 0 then BitVec.allOnes 64 else BitVec.ofInt 64 (a.toInt.tdiv b.toInt)

/-- Signed remainder (R158). -/
def remSigned (a b : Word) : Word := if b = 0 then a else BitVec.ofInt 64 (a.toInt.tmod b.toInt)

/-- Unsigned division (R158). -/
def divUnsigned (a b : Word) : Word :=
  if b = 0 then BitVec.allOnes 64 else BitVec.ofNat 64 (a.toNat / b.toNat)

/-- Unsigned remainder (R158). -/
def remUnsigned (a b : Word) : Word := if b = 0 then a else BitVec.ofNat 64 (a.toNat % b.toNat)

/-- High half of the signed product (R156). -/
def mulHigh (a b : Word) : Word := BitVec.ofInt 64 (a.toInt * b.toInt / 2 ^ 64)

/-- High half of the unsigned product (R156). -/
def mulHighU (a b : Word) : Word := BitVec.ofNat 64 (a.toNat * b.toNat / 2 ^ 64)

/-- BSWAP (R159). -/
def bswapW (a : Word) : Word := BitVec.ofNat 64 (natLE (bytesLE 8 a.toNat).reverse)

/-- p and L' of BEXT and BINS (R159). -/
def bitField (b : Word) : Nat × Nat := (fld b 0 6, min (fld b 8 6 + 1) (64 - fld b 0 6))

/-- BEXT (R159). -/
def bextW (a b : Word) : Word := zextN (a >>> (bitField b).1) (bitField b).2

/-- BINS: the old value with the field replaced (R159). -/
def binsW (old a b : Word) : Word :=
  BitVec.ofNat 64 (setFld old.toNat (bitField b).1 (bitField b).2 a.toNat)

/-- The number of bits SEXT and ZEXT keep: n − 1 is h : n (R159). -/
def extWidth (h : BitVec 1) (n : BitVec 5) : Nat := h.toNat * 32 + n.toNat + 1

/-- ADD (R156). -/
def execAdd (d a b : BitVec 5) (s : State) : Host.Outcome State Fault Refusal :=
  .next (aluOp (fun x y => x + y) d a b s)

/-- SUB (R156). -/
def execSub (d a b : BitVec 5) (s : State) : Host.Outcome State Fault Refusal :=
  .next (aluOp (fun x y => x - y) d a b s)

/-- AND (R156). -/
def execAnd (d a b : BitVec 5) (s : State) : Host.Outcome State Fault Refusal :=
  .next (aluOp (fun x y => x &&& y) d a b s)

/-- OR (R156). -/
def execOr (d a b : BitVec 5) (s : State) : Host.Outcome State Fault Refusal :=
  .next (aluOp (fun x y => x ||| y) d a b s)

/-- XOR (R156). -/
def execXor (d a b : BitVec 5) (s : State) : Host.Outcome State Fault Refusal :=
  .next (aluOp (fun x y => x ^^^ y) d a b s)

/-- ANDN (R156). -/
def execAndn (d a b : BitVec 5) (s : State) : Host.Outcome State Fault Refusal :=
  .next (aluOp (fun x y => x &&& ~~~ y) d a b s)

/-- ORN (R156). -/
def execOrn (d a b : BitVec 5) (s : State) : Host.Outcome State Fault Refusal :=
  .next (aluOp (fun x y => x ||| ~~~ y) d a b s)

/-- SHL (R156). -/
def execShl (d a b : BitVec 5) (s : State) : Host.Outcome State Fault Refusal :=
  .next (aluOp (fun x y => x <<< shiftCount y) d a b s)

/-- SHR (R156). -/
def execShr (d a b : BitVec 5) (s : State) : Host.Outcome State Fault Refusal :=
  .next (aluOp (fun x y => x >>> shiftCount y) d a b s)

/-- SAR (R156). -/
def execSar (d a b : BitVec 5) (s : State) : Host.Outcome State Fault Refusal :=
  .next (aluOp (fun x y => x.sshiftRight (shiftCount y)) d a b s)

/-- ROL (R156). -/
def execRol (d a b : BitVec 5) (s : State) : Host.Outcome State Fault Refusal :=
  .next (aluOp (fun x y => x.rotateLeft (shiftCount y)) d a b s)

/-- MIN (R156). -/
def execMin (d a b : BitVec 5) (s : State) : Host.Outcome State Fault Refusal :=
  .next (aluOp (fun x y => if x.toInt ≤ y.toInt then x else y) d a b s)

/-- MAX (R156). -/
def execMax (d a b : BitVec 5) (s : State) : Host.Outcome State Fault Refusal :=
  .next (aluOp (fun x y => if x.toInt ≤ y.toInt then y else x) d a b s)

/-- MINW (R156). -/
def execMinw (d a b : BitVec 5) (s : State) : Host.Outcome State Fault Refusal :=
  .next (aluOp (fun x y => if x.toNat ≤ y.toNat then x else y) d a b s)

/-- MAXW (R156). -/
def execMaxw (d a b : BitVec 5) (s : State) : Host.Outcome State Fault Refusal :=
  .next (aluOp (fun x y => if x.toNat ≤ y.toNat then y else x) d a b s)

/-- SLT (R156). -/
def execSlt (d a b : BitVec 5) (s : State) : Host.Outcome State Fault Refusal :=
  .next (aluOp (fun x y => boolWord (decide (x.toInt < y.toInt))) d a b s)

/-- SLTW (R156). -/
def execSltw (d a b : BitVec 5) (s : State) : Host.Outcome State Fault Refusal :=
  .next (aluOp (fun x y => boolWord (decide (x.toNat < y.toNat))) d a b s)

/-- SEQ (R156). -/
def execSeq (d a b : BitVec 5) (s : State) : Host.Outcome State Fault Refusal :=
  .next (aluOp (fun x y => boolWord (x == y)) d a b s)

/-- SNE (R156). -/
def execSne (d a b : BitVec 5) (s : State) : Host.Outcome State Fault Refusal :=
  .next (aluOp (fun x y => boolWord (x != y)) d a b s)

/-- MUL (R156). -/
def execMul (d a b : BitVec 5) (s : State) : Host.Outcome State Fault Refusal :=
  .next (aluOp (fun x y => x * y) d a b s)

/-- MULH (R156). -/
def execMulh (d a b : BitVec 5) (s : State) : Host.Outcome State Fault Refusal :=
  .next (aluOp (fun x y => mulHigh x y) d a b s)

/-- MULHW (R156). -/
def execMulhw (d a b : BitVec 5) (s : State) : Host.Outcome State Fault Refusal :=
  .next (aluOp (fun x y => mulHighU x y) d a b s)

/-- MULW (R156). -/
def execMulw (d a b : BitVec 5) (s : State) : Host.Outcome State Fault Refusal :=
  .next (aluOp (fun x y => BitVec.ofNat 64 (fld x 0 32 * fld y 0 32)) d a b s)

/-- DIV (R158). -/
def execDiv (d a b : BitVec 5) (s : State) : Host.Outcome State Fault Refusal :=
  .next (aluOp (fun x y => divSigned x y) d a b s)

/-- DIVW (R158). -/
def execDivw (d a b : BitVec 5) (s : State) : Host.Outcome State Fault Refusal :=
  .next (aluOp (fun x y => divUnsigned x y) d a b s)

/-- REM (R158). -/
def execRem (d a b : BitVec 5) (s : State) : Host.Outcome State Fault Refusal :=
  .next (aluOp (fun x y => remSigned x y) d a b s)

/-- REMW (R158). -/
def execRemw (d a b : BitVec 5) (s : State) : Host.Outcome State Fault Refusal :=
  .next (aluOp (fun x y => remUnsigned x y) d a b s)

/-- BEXT (R159). -/
def execBext (d a b : BitVec 5) (s : State) : Host.Outcome State Fault Refusal :=
  .next (aluOp (fun x y => bextW x y) d a b s)

/-- CMOV (R156). -/
def execCmov (d a b c : BitVec 5) (s : State) : Host.Outcome State Fault Refusal :=
  .next (writeG s d (if gv s c = 0 then gv s b else gv s a))

/-- CLZ (R159). -/
def execClz (d a : BitVec 5) (s : State) : Host.Outcome State Fault Refusal :=
  .next (unaryOp (fun x => BitVec.ofNat 64 (clzN 64 x.toNat)) d a s)

/-- CTZ (R159). -/
def execCtz (d a : BitVec 5) (s : State) : Host.Outcome State Fault Refusal :=
  .next (unaryOp (fun x => BitVec.ofNat 64 (ctzN 64 x.toNat)) d a s)

/-- POPC (R159). -/
def execPopc (d a : BitVec 5) (s : State) : Host.Outcome State Fault Refusal :=
  .next (unaryOp (fun x => BitVec.ofNat 64 (popN 64 x.toNat)) d a s)

/-- BREV (R159). -/
def execBrev (d a : BitVec 5) (s : State) : Host.Outcome State Fault Refusal :=
  .next (unaryOp (fun x => BitVec.ofNat 64 (brevN 64 x.toNat)) d a s)

/-- BSWAP (R159). -/
def execBswap (d a : BitVec 5) (s : State) : Host.Outcome State Fault Refusal :=
  .next (unaryOp (fun x => bswapW x) d a s)

/-- SEXT (R159). -/
def execSext (d a : BitVec 5) (h : BitVec 1) (n : BitVec 5) (s : State) : Host.Outcome State Fault Refusal :=
  .next (unaryOp (fun x => sextN x (extWidth h n)) d a s)

/-- ZEXT (R159). -/
def execZext (d a : BitVec 5) (h : BitVec 1) (n : BitVec 5) (s : State) : Host.Outcome State Fault Refusal :=
  .next (unaryOp (fun x => zextN x (extWidth h n)) d a s)

/-- BINS reads g[d] as a source (R159). -/
def execBins (d a b : BitVec 5) (s : State) : Host.Outcome State Fault Refusal :=
  .next (writeG s d (binsW (gv s d) (gv s a) (gv s b)))

/-- ADDI (R157). -/
def execAddi (d a : BitVec 5) (k : BitVec 16) (s : State) : Host.Outcome State Fault Refusal :=
  .next (unaryOp (fun x => x + k.signExtend 64) d a s)

/-- ANDI (R157). -/
def execAndi (d a : BitVec 5) (k : BitVec 16) (s : State) : Host.Outcome State Fault Refusal :=
  .next (unaryOp (fun x => x &&& k.zeroExtend 64) d a s)

/-- ORI (R157). -/
def execOri (d a : BitVec 5) (k : BitVec 16) (s : State) : Host.Outcome State Fault Refusal :=
  .next (unaryOp (fun x => x ||| k.zeroExtend 64) d a s)

/-- XORI (R157). -/
def execXori (d a : BitVec 5) (k : BitVec 16) (s : State) : Host.Outcome State Fault Refusal :=
  .next (unaryOp (fun x => x ^^^ k.zeroExtend 64) d a s)

/-- SLTI (R157). -/
def execSlti (d a : BitVec 5) (k : BitVec 16) (s : State) : Host.Outcome State Fault Refusal :=
  .next (unaryOp (fun x => boolWord (decide (x.toInt < k.toInt))) d a s)

/-- SLTWI (R157). -/
def execSltwi (d a : BitVec 5) (k : BitVec 16) (s : State) : Host.Outcome State Fault Refusal :=
  .next (unaryOp (fun x => boolWord (decide (x.toNat < (k.signExtend 64 : Word).toNat))) d a s)

/-- SHLI (R157). -/
def execShli (d a : BitVec 5) (k : BitVec 6) (s : State) : Host.Outcome State Fault Refusal :=
  .next (unaryOp (fun x => x <<< k.toNat) d a s)

/-- SHRI (R157). -/
def execShri (d a : BitVec 5) (k : BitVec 6) (s : State) : Host.Outcome State Fault Refusal :=
  .next (unaryOp (fun x => x >>> k.toNat) d a s)

/-- SARI (R157). -/
def execSari (d a : BitVec 5) (k : BitVec 6) (s : State) : Host.Outcome State Fault Refusal :=
  .next (unaryOp (fun x => x.sshiftRight k.toNat) d a s)

/-- ROLI (R157). -/
def execRoli (d a : BitVec 5) (k : BitVec 6) (s : State) : Host.Outcome State Fault Refusal :=
  .next (unaryOp (fun x => x.rotateLeft k.toNat) d a s)

/-- The value MOVK leaves (R112, R160). -/
def movkValue (old : Word) (pos : BitVec 2) (keep : BitVec 1) (k : BitVec 16) : Word :=
  BitVec.ofNat 64 (setFld (if keep = 1 then old.toNat else 0) (16 * pos.toNat) 16 k.toNat)

/-- MOVK (R160). -/
def execMovk (d : BitVec 5) (pos : BitVec 2) (keep : BitVec 1) (k : BitVec 16) (s : State) :
    Host.Outcome State Fault Refusal :=
  .next (writeG s d (movkValue (gv s d) pos keep k))

/-- LEA never faults (R160). -/
def execLea (d a b : BitVec 5) (sc : BitVec 2) (disp : BitVec 9) (s : State) :
    Host.Outcome State Fault Refusal :=
  .next (writeG s d (eaL s a b sc disp))

/-- The one-core scope of a location, or all ones (R162). -/
def gcoordOf (s : State) (x : Word) : Word :=
  if fld x 32 32 ≠ 0 ∨ fld x 0 7 ≠ 0 then BitVec.allOnes 64
  else if fld x 20 12 = s.loc.dev.toNat ∧ presentClusters s.grade ≤ fld x 10 7 then BitVec.allOnes 64
  else
    let (cx, cy) := coords (fld x 17 3) (fld x 10 7) (fld x 7 3)
    BitVec.ofNat 64 (fld x 20 12 * 2 ^ 44 + fld x 20 12 * 2 ^ 32 + cy * 2 ^ 24 + cx * 2 ^ 16 + cy * 2 ^ 8 + cx)

/-- GCOORD (R162). -/
def execGcoord (d a : BitVec 5) (s : State) : Host.Outcome State Fault Refusal :=
  .next (unaryOp (gcoordOf s) d a s)

/-- The width of a field of WIDX (R32). -/
def widWidth (widx : Word) (i : Nat) : Nat := fld widx (6 * i) 6

/-- The lowest bit of a field of WID (R33). -/
def widStart (widx : Word) : Nat → Nat
  | 0 => 0
  | i + 1 => widStart widx i + widWidth widx i

/-- A field of a work ID, zero-extended; 0 at or above NF (R33, R162). -/
def widField (wid widx : Word) (i : Nat) : Word :=
  if i < fld widx 36 3 then BitVec.ofNat 64 (fld wid (widStart widx i) (widWidth widx i)) else 0

/-- WIDF (R162). -/
def execWidf (d f : BitVec 5) (s : State) : Host.Outcome State Fault Refusal :=
  .next (writeG s d (widField s.ctx.user.wid s.ctx.user.widx f.toNat))

/-- SELF (R162). -/
def execSelf (d : BitVec 5) (s : State) : Host.Outcome State Fault Refusal :=
  .next (writeG s d ((me s).zeroExtend 64))

/-- CLOAD (R162). -/
def execCload (d : BitVec 5) (s : State) : Host.Outcome State Fault Refusal :=
  .next (writeG s d s.cluster.clustld)

end Sys2Proof.Machine
end

