-- ==== Sys2Proof/Machine/Signals.lean ====
section
/-!
DEFINITION. The home signal engines: objects, waits, discharges, stage-queue rings, host obligations (R47
to R59, R65, R70, R71, R275 to R283, R309).
-/

namespace Sys2Proof.Machine

/-! Answers. -/

/-- Answer a request (R275). -/
def answer (s : State) (who : Agent) (a : HomeAns) : State :=
  match who with
  | .ctx sel =>
    if (localSlot s sel).isSome then send s (.homeAnswer a sel) else out s (.event (.homeAnswer a sel))
  | .host dev => out s (.hostAnswer dev a)
  | _ => s

/-- Wake a waiter (R56). -/
def wakeTo (s : State) (who : Agent) (r : Word) (msg : Option (Word × Word))
    (acq : Option (Word × OblKind)) : State :=
  match who with
  | .ctx sel =>
    if (localSlot s sel).isSome then send s (.wake r msg acq sel) else out s (.event (.wake r msg acq sel))
  | .host dev => out s (.hostAnswer dev (.done r msg acq))
  | _ => s

/-! Records (R47, R49). -/

/-- VALUE[35:0]: count, free units, holder, arrivals. -/
def Obj.count (o : Obj) : Nat := fld o.value 0 36

/-- Set VALUE[35:0]. -/
def Obj.setCount (o : Obj) (n : Nat) : Obj := { o with value := BitVec.ofNat 64 (setFld o.value.toNat 0 36 n) }

/-- SET or HELD. -/
def Obj.isSet (o : Obj) : Bool := o.state.getLsbD 0

/-- FAILED. -/
def Obj.failed (o : Obj) : Bool := o.state.getLsbD 1

/-- ONESHOT. -/
def Obj.oneshot (o : Obj) : Bool := o.state.getLsbD 2

/-- The kept failure code: VALUE whole for an EVENT, VALUE[63:36] otherwise (R49). -/
def Obj.code (o : Obj) : Nat := if o.kind = 1 then fld o.value 0 28 else fld o.value 36 28

/-- FAILED with the code of the first failure; an EVENT's VALUE is the code (R49). -/
def Obj.fail (o : Obj) (code : BitVec 28) : Obj :=
  if o.kind = 1 then { o with state := o.state ||| 2, value := code.zeroExtend 64 }
  else if o.kind = 6 then { o with state := o.state ||| 2 }
  else if o.failed then o
  else { o with state := o.state ||| 2, value := BitVec.ofNat 64 (setFld o.value.toNat 36 28 code.toNat) }

/-- RESV of a MAILBOX (R279). -/
def Obj.resv (o : Obj) : Nat := fld o.value 16 12

/-- Set RESV. -/
def Obj.setResv (o : Obj) (n : Nat) : Obj := { o with value := BitVec.ofNat 64 (setFld o.value.toNat 16 12 n) }

/-- A MAILBOX whose ring holds these entries: count, and head moved by what left (R49). -/
def Obj.setMail (o : Obj) (m : List Mail) (left : Nat) : Obj :=
  let head := (fld o.value 40 12 + left) % max 1 o.param.toNat
  { o with mail := m, value := BitVec.ofNat 64 (setFld (setFld o.value.toNat 28 12 m.length) 40 12 head) }

/-- The obligation kind of an object kind (R49). -/
def kindObl (kind : BitVec 4) : OblKind :=
  match kind.toNat with
  | 1 | 2 => .signal
  | 3 | 4 => .release
  | 5 => .arrive
  | _ => .send

/-- The handle of a record (R47): rank, device, index, generation. -/
def Obj.handle (o : Obj) : Word :=
  BitVec.ofNat 64 (o.rank.toNat * 2 ^ 44 + o.dev.toNat * 2 ^ 32 + o.index.toNat * 2 ^ 8 + o.gen.toNat)

/-- Add obligations. -/
def Obj.owe (o : Obj) (n : Nat) : Obj := { o with owed := o.owed + BitVec.ofNat 32 n }

/-! Stage-queue rings (R309). -/

/-- The stage queue of a number. -/
def queueOf (s : State) (id : Nat) : Option StageQueue := s.signals.queues.find? fun q => q.id == id

/-- Put a stage queue back. -/
def setQueue (s : State) (q : StageQueue) : State :=
  { s with signals := { s.signals with queues :=
    (s.signals.queues.map fun p => if p.id = q.id then q else p) } }

/-- The engine stages at a queue look again: its ring has changed (R302, R308). -/
def wakeStages (s : State) (id : Nat) : State :=
  { s with agenda := s.agenda ++ (s.mill.binds.filterMap fun b =>
      if (b.queues.any fun q => q.2 == id) && (b.desc.any fun r => nfld r.toNat 0 4 == 2 || decide (4 ≤ nfld r.toNat 0 4))
      then some (.bankStageEnqueue b.inst b.place) else none) }

/-- The ring entry of a count. -/
def StageQueue.entry (q : StageQueue) (n : Nat) : RingEntry :=
  q.ring.getD (n % q.depth)
    { count := 0, holder := none, consumer := none, filled := false, free := true, code := none }

/-- The generic address of an entry (R310). -/
def StageQueue.addr (q : StageQueue) (n : Nat) : Word := q.base + BitVec.ofNat 64 (64 * (n % q.depth))

/-- Can ENQ (on SPACE) or DEQ (on DATA) take an entry (R309)? -/
def StageQueue.ready (q : StageQueue) (space : Bool) : Bool :=
  if space then (q.entry q.t).free else (q.entry q.h).filled

/-- Take the entry for an agent: the queue after it, its count, the code it carries, and the SEM that the
RELEASE is owed on. -/
def StageQueue.take (q : StageQueue) (space : Bool) (who : Agent) :
    StageQueue × Nat × Option (BitVec 28) × Word :=
  if space then
    let e := q.entry q.t
    ({ q with t := q.t + 1, ring := setAt (q.t % q.depth) { e with
        count := q.t, holder := some who, consumer := none, filled := false, free := false, code := none } q.ring },
      q.t, e.code, q.data)
  else
    let e := q.entry q.h
    ({ q with h := q.h + 1, ring := setAt (q.h % q.depth) { e with
        consumer := some who, filled := false, code := none } q.ring },
      q.h, e.code, q.space)

/-- The place of the oldest of the ring's entries that meet a condition. -/
def oldestEntry (p : RingEntry → Bool) : Nat → List RingEntry → Option (Nat × Nat)
  | _, [] => none
  | i, e :: rest =>
    match oldestEntry p (i + 1) rest with
    | none => if p e then some (i, e.count) else none
    | some (j, n) => if p e && decide (e.count ≤ n) then some (i, e.count) else some (j, n)

/-- The entry that a release by an agent concerns: its own oldest, else the oldest of any holder. -/
def StageQueue.owned (q : StageQueue) (space : Bool) (who : Agent) : Option Nat :=
  let held (e : RingEntry) : Option Agent := if space then e.consumer else e.holder
  ((oldestEntry (fun e => held e == some who) 0 q.ring).orElse fun _ =>
    oldestEntry (fun e => (held e).isSome) 0 q.ring).map (·.1)

/-- OREL or OFAIL on DATA or SPACE: the entry becomes FILLED or FREE, and carries the code (R309). -/
def StageQueue.release (q : StageQueue) (space : Bool) (who : Agent) (code : Option (BitVec 28)) : StageQueue :=
  match q.owned space who with
  | none => q
  | some i =>
    { q with ring := match q.ring[i]? with
      | none => q.ring
      | some e =>
        setAt i (if space then { e with consumer := none, free := true, code := code }
          else { e with holder := none, filled := true, code := code }) q.ring }

/-! Satisfying a wait (R49, R51). -/

/-- Does the condition of R49, or of R309, hold? -/
def Obj.holdsCond (s : State) (o : Obj) : Bool :=
  match o.queue with
  | some (id, space) =>
    match queueOf s id with
    | some q => q.ready space
    | none => false
  | none =>
    match o.kind.toNat with
    | 1 => o.isSet
    | 2 => o.count == 0
    | 3 => decide (0 < o.count)
    | 4 => !o.isSet
    | 5 => o.count == o.param.toNat
    | _ => !o.mail.isEmpty

/-- Record a host's obligation (R71). -/
def hostOwes (s : State) (who : Agent) (h : Word) (k : OblKind) : State :=
  match who with
  | .host dev =>
    let hosts := s.signals.hosts
    let hosts1 := if hosts.any fun x => x.dev == dev && x.h == h && x.kind == k then
        hosts.map fun x => if x.dev = dev ∧ x.h = h ∧ x.kind = k then { x with mult := x.mult + 1 } else x
      else hosts ++ [{ dev := dev, h := h, kind := k, mult := 1 }]
    { s with signals := { s.signals with hosts := hosts1 } }
  | _ => s

/-- The OWED of an object that an obligation is owed on rises by one (R51). -/
def oweOn (s : State) (h : Word) : State :=
  match objOf s h with
  | some o => setObj s (o.owe 1)
  | none => s

/-- The holder value of a LOCK (R49, R71). -/
def holderOf : Agent → Nat
  | .ctx sel => sel.toNat
  | .host dev => 15 * 2 ^ 32 + dev.toNat * 2 ^ 20
  | _ => 0

/-- A reply that a removed message names: RESV - 1 and OWED + 1 at its home (R279). -/
def claimReply (s : State) (h : Word) : State :=
  if homeHere s h then
    match objOf s h with
    | some o => setObj s ((o.setResv (o.resv - 1)).owe 1)
    | none => s
  else out s (.event (.homeOperation (.claim h) .other))

/-- What a satisfied wait ends with: result, message, obligation. -/
abbrev Taken := Word × Option (Word × Word) × Option (Word × OblKind)

/-- Take an entry of a stage queue (R309, R310). -/
def takeEntry (s : State) (o : Obj) (id : Nat) (space : Bool) (who : Agent) : State × Taken :=
  match queueOf s id with
  | none => (s, 0, none, none)
  | some q =>
    let (q1, n, code, sem) := q.take space who
    let s1 := oweOn (setObj (setQueue s q1) (o.setCount (o.count - 1))) sem
    let r := match code with
      | none => waitResult 0 0 n
      | some c => waitResult 1 c.toNat n
    (hostOwes s1 who sem .release, r, some (q.addr n, 0), some (sem, .release))

/-- Remove a message (R49, R279). -/
def takeMail (s : State) (o : Obj) (who : Agent) : State × Taken :=
  match o.mail with
  | [] => (s, 0, none, none)
  | m :: rest =>
    let s1 := setObj s (o.setMail rest 1)
    if m.failed then (s1, waitResult 1 m.msg.toNat 0, some (m.msg, 0), none)
    else if m.reply = 0 then (s1, 0, some (m.msg, 0), none)
    else (hostOwes (claimReply s1 m.reply) who m.reply .send, 0, some (m.msg, m.reply), some (m.reply, .send))

/-- Apply "On satisfying" for one waiter; not for a BARRIER (R49, R51, R56). -/
def satisfy (s : State) (o : Obj) (who : Agent) : State × Taken :=
  match o.queue with
  | some (id, space) => takeEntry s o id space who
  | none =>
    let st := if o.failed then 1 else 0
    let det := if o.failed then o.code else 0
    match o.kind.toNat with
    | 3 =>
      let o1 := (o.setCount (o.count - 1)).owe 1
      (hostOwes (setObj s o1) who o.handle .release, waitResult st det o1.count, none,
        some (o.handle, .release))
    | 4 =>
      let o1 := (({ o with state := o.state ||| 1 }).setCount (holderOf who)).owe 1
      (hostOwes (setObj s o1) who o.handle .release, waitResult st det 0, none, some (o.handle, .release))
    | 6 => takeMail s o who
    | _ => (s, waitResult st det 0, none, none)

/-- Does an operation acquire an ARRIVE for each released party? -/
def wakeAll (r : Word) (msg : Option (Word × Word)) (acq : Option (Word × OblKind)) :
    List Waiter → State → State
  | [], s => s
  | w :: ws, s =>
    let s1 := match acq with
      | some (h, k) => hostOwes s w.who h k
      | none => s
    wakeAll r msg acq ws (wakeTo s1 w.who r msg acq)

/-- A round completes with some released parties: the object after it, and what each ends with (R49, R56). -/
def completeRound (o : Obj) (parties : Nat) : Obj × Word × Option (Word × OblKind) :=
  let st := if o.failed then 1 else 0
  let det := if o.failed then o.code else 0
  let o1 := { o.setCount 0 with waiters := [], rounds := o.rounds + 1 }
  let r := waitResult st det o.rounds.toNat
  if o.oneshot then (o1, r, none) else (o1.owe parties, r, some (o.handle, .arrive))

/-- Re-examine the waiters in queue order (R49). -/
def examine (h : Word) : Nat → State → State
  | 0, s => s
  | n + 1, s =>
    match objOf s h with
    | none => s
    | some o =>
      match o.waiters with
      | [] => s
      | w :: ws =>
        if !o.holdsCond s then s
        else if o.kind = 5 then
          let (o1, r, acq) := completeRound o o.waiters.length
          wakeAll r none acq o.waiters (setObj s o1)
        else
          let (s1, r, msg, acq) := satisfy (setObj s { o with waiters := ws }) { o with waiters := ws } w.who
          examine h n (wakeTo s1 w.who r msg acq)

/-- Re-examine, then end the waiters left where OWED is 0: with status 4, detail 1 (R57), or as `ended` says.
DEDUCED: where an OFAIL leaves OWED 0, R70 gives each waiter it ends status 1 with its code (log 64). -/
def reexamine (s : State) (h : Word) (ended : Word := waitResult 4 1 0) : State :=
  match objOf s h with
  | none => s
  | some o =>
    let s1 := examine h (o.waiters.length + 1) s
    match objOf s1 h with
    | none => s1
    | some o1 =>
      if o1.owed = 0 then wakeAll ended none none o1.waiters (setObj s1 { o1 with waiters := [] })
      else s1

/-! Requests (R54). -/

/-- Does an agent lie inside a scope (R54, check 2)? Engines act for a context that does. -/
def inScope (o : Obj) (who : Agent) : Bool :=
  match who with
  | .ctx sel => scopeHolds o.scope o.dev sel
  | .host dev => scopeDev o.scope o.dev dev
  | _ => true

/-- Does a waiting instruction suit the object (R54, check 3; R309, R310)? -/
def suits (o : Obj) (op : WaitOp) : Bool :=
  match o.queue, op with
  | some (_, space), .enq => space
  | some (_, space), .deq => !space
  | some _, _ => false
  | none, .wait => true
  | none, .barw => o.kind == 5
  | none, _ => false

/-- Queue a waiter. -/
def queueWaiter (s : State) (o : Obj) (who : Agent) (op : WaitOp) : State :=
  answer (setObj s { o with waiters := o.waiters ++ [{ who := who, op := op }] }) who .queued

/-- A party of a BARRIER whose condition holds as it asks ends the round. -/
def endRound (s : State) (o : Obj) (who : Agent) : State :=
  let (o1, r, acq) := completeRound o (o.waiters.length + 1)
  let s1 := wakeAll r none acq o.waiters (setObj s o1)
  let s2 := match acq with
    | some (h, k) => hostOwes s1 who h k
    | none => s1
  answer s2 who (.done r none acq)

/-- BARW, its checks past: the ARRIVE is applied first (R54). -/
def waitBarrier (s : State) (o : Obj) (who : Agent) : State :=
  let o1 := { o.setCount (o.count + 1) with owed := o.owed - 1 }
  if o1.holdsCond s then endRound s o1 who
  else if o1.owed = 0 then
    answer (wakeAll (waitResult 4 1 0) none none o1.waiters (setObj s { o1 with waiters := [] })) who
      (.done (waitResult 4 1 0) none none)
  else queueWaiter s o1 who .barw

/-- A wait request at its home (R54). -/
def waitAt (s : State) (h : Word) (op : WaitOp) (who : Agent) : State :=
  let barw := op == .barw
  match objOf s h with
  | none => answer s who (.fault 9 h barw)
  | some o =>
    if !inScope o who then answer s who (.fault 6 h barw)
    else if !suits o op then answer s who (.fault 9 h barw)
    else if barw then waitBarrier s o who
    else if o.holdsCond s then
      if o.kind = 5 then endRound s o who
      else
        let (s1, r, msg, acq) := satisfy s o who
        answer s1 who (.done r msg acq)
    else if o.owed = 0 then answer s who (.fault 8 h false)
    else queueWaiter s o who op

/-- WAIT_REQUEST (R54). -/
def execWaitRequest (s : State) : Host.Outcome State Fault Refusal :=
  .next (match s.event with
    | some (.waitRequest h op who) =>
      if homeHere s h then waitAt s h op who else out s (.event (.waitRequest h op who))
    | _ => s)

/-! Discharges (R49). -/

/-- The effect of a discharge on a record, OWED apart (R49). -/
def Obj.discharged (o : Obj) (how : DisHow) : Obj :=
  let base := match o.kind.toNat with
    | 1 => { o with state := o.state ||| 1 }
    | 2 => o.setCount (o.count - 1)
    | 3 => o.setCount (o.count + 1)
    | 4 => { o with state := o.state &&& 0xFE }
    | 5 => o.setCount (o.count + 1)
    | _ => o
  match how with
  | .ok => base
  | .standing => o
  | .fail code =>
    if o.kind = 6 then
      (base.fail code).setMail (o.mail ++ [{ msg := code.zeroExtend 64, reply := BitVec.allOnes 64, failed := true }]) 0
    else base.fail code
  | .send msg reply => o.setMail (o.mail ++ [{ msg := msg, reply := reply, failed := false }]) 0

/-- A discharge on a DATA or SPACE SEM (R309). -/
def dischargeRing (s : State) (o : Obj) (id : Nat) (space : Bool) (how : DisHow) (who : Agent) : State :=
  match how, queueOf s id with
  | .standing, _ => setObj s { o with owed := o.owed - 1 }
  | _, none => s
  | _, some q =>
    let code := match how with
      | .fail c => some c
      | _ => none
    wakeStages (setObj (setQueue s (q.release space who code)) { o.setCount (o.count + 1) with owed := o.owed - 1 }) id

/-- The launch contexts of a COMPL live until its VALUE reaches zero (R84): those of this die, and those of the other
engines that asked for its acceptance step. -/
def complDone (s : State) (h : Word) : State :=
  match objOf s h with
  | some o =>
    if o.kind = 2 ∧ o.count = 0 then
      { s with
        engine := { s.engine with
          ctxs := s.engine.ctxs.filter fun l => l.compl != h
          foreign := s.engine.foreign.filter fun l => l.compl != h }
        signals := { s.signals with away := s.signals.away.filter fun x => x.1 != h }
        outbox := s.outbox ++ (s.signals.away.filter fun x => x.1 == h).map fun x =>
          .event (.launchDone x.2.1 x.2.2 h) }
    else s
  | none => s

/-- What ends the waiters that a discharge leaves without an obligation (R57, R70). -/
def endedBy : DisHow → Word
  | .fail c => waitResult 1 c.toNat 0
  | _ => waitResult 4 1 0

/-- A discharge at its home: the effect, OWED - 1, the waiters (R49, R55, R57). -/
def dischargeAt (s : State) (h : Word) (k : OblKind) (how : DisHow) (who : Agent) : State :=
  match objOf s h with
  | none => answer s who (.fault 9 h false)
  | some o =>
    if kindObl o.kind ≠ k then answer s who (.fault 9 h false)
    else
      let s1 := match o.queue with
        | some (id, space) => dischargeRing s o id space how who
        | none => setObj s { o.discharged how with owed := o.owed - 1 }
      complDone (reexamine s1 h (endedBy how)) h

/-- Take one unit of a host's obligation out of the host table (R71). -/
def hostPays (s : State) (dev : BitVec 12) (h : Word) (k : OblKind) : Option State :=
  if s.signals.hosts.any fun x => x.dev == dev && x.h == h && x.kind == k then
    some { s with signals := { s.signals with hosts :=
      (s.signals.hosts.filterMap fun x =>
        if x.dev = dev ∧ x.h = h ∧ x.kind = k then
          (if x.mult ≤ 1 then none else some { x with mult := x.mult - 1 })
        else some x) } }
  else none

/-- DISCHARGE (R49, R60, R71). -/
def execDischarge (s : State) : Host.Outcome State Fault Refusal :=
  .next (match s.event with
    | some (.discharge h k how who) =>
      if !homeHere s h then out s (.event (.discharge h k how who))
      else match who with
        | .host dev =>
          match hostPays s dev h k with
          | some s1 => dischargeAt s1 h k how who
          | none => answer s who (.fault 6 h false)
        | _ => dischargeAt s h k how who
    | _ => s)

/-! Home operations (R275 to R283). -/

/-- Do the limits of R50 allow a creation (R71, R279)? -/
def Obj.mayOwe (o : Obj) : Bool :=
  match o.kind.toNat with
  | 1 | 2 | 3 => true
  | 5 => decide (o.owed.toNat < o.param.toNat)
  | 6 => decide (o.mail.length + o.owed.toNat + o.resv < o.param.toNat)
  | _ => false

/-- The object after a creation (R50). -/
def Obj.created (o : Obj) : Obj := if o.kind = 2 then (o.setCount (o.count + 1)).owe 1 else o.owe 1

/-- The last generation at an index. -/
def lastGen (s : State) (dev : BitVec 12) (index : BitVec 24) : BitVec 8 :=
  match s.signals.gens.find? fun g => g.1 == dev && g.2.1 == index with
  | some g => g.2.2
  | none => 0

/-- Record the generation at an index. -/
def setGen (s : State) (dev : BitVec 12) (index : BitVec 24) (gen : BitVec 8) : State :=
  { s with signals := { s.signals with gens :=
    (s.signals.gens.filter fun g => !(g.1 == dev && g.2.1 == index)) ++ [(dev, index, gen)] } }

/-- The first free index of this device from one onward; none where as many as the fuel are in use. -/
def freeFrom (s : State) : Nat → BitVec 24 → Option (BitVec 24)
  | 0, _ => none
  | n + 1, i =>
    if s.signals.objects.any fun o => o.dev == s.loc.dev && o.index == i then freeFrom s n (i + 1) else some i

/-- Make an object at a free index of this device; none where there is no index or ring space (R59, R276;
log 7). Where a MAILBOX's ring lies, and whether it finds space, are free values. -/
def newObject (s : State) (rank : Nat) (kind : BitVec 4) (state : BitVec 8) (param : BitVec 24)
    (scope : Word) (queue : Option (Nat × Bool)) : Option (State × Obj) :=
  match freeFrom s (s.signals.objects.length + 1) (Config.freeIndex s.fresh) with
  | none => none
  | some index =>
    let dev := s.loc.dev
    let gen := lastGen s dev index + 1
    let (ring, s1) := if kind = 6 then takeFree s else (0, s)
    if ring.getLsbD 12 then none
    else
      let o : Obj :=
        { dev := dev, index := index, gen := gen, rank := BitVec.ofNat 20 rank, kind := kind, state := state
          param := param, value := BitVec.ofNat 64 (fld ring 0 12 * 2 ^ 52), owed := 0, scope := scope
          waiters := [], rounds := 0, mail := [], queue := queue }
      let s2 := { s1 with fresh := s1.fresh + 1 }
      some (setGen { s2 with signals := { s2.signals with objects := s2.signals.objects ++ [o] } } dev index gen, o)

/-- ONEW at the signal engine (R276). -/
def onewAt (s : State) (scope g : Word) (kind : BitVec 5) (who : Agent) : State :=
  let st : BitVec 8 := if g.getLsbD 24 then 4 else 0
  match newObject s (fld g 32 20) (kind.truncate 4) st (BitVec.ofNat 24 (fld g 0 24)) scope none with
  | none => answer { s with fresh := s.fresh + 1 } who (.done 0 none none)
  | some (s1, o) => answer s1 who (.done o.handle none none)

/-- Discard a record: its waiters wake with status 4, detail 3 (R65). DESIGN CHOICE: the generation that OFREE raises is
the one that the next ONEW there gives (R59): the two rules speak of one increment, counted at ONEW (log 77). -/
def dropObject (s : State) (o : Obj) : State :=
  wakeAll (waitResult 4 3 0) none none o.waiters
    { s with signals := { s.signals with objects :=
      (s.signals.objects.filter fun p => !(p.dev == o.dev && p.index == o.index)) } }

/-- POLL (R282). -/
def pollAt (s : State) (o : Obj) (who : Agent) : State :=
  if o.kind ≠ 5 ∧ o.holdsCond s then
    let (s1, r, msg, acq) := satisfy s o who
    answer s1 who (.done r msg acq)
  else
    answer s who (.done (waitResult 6 (if o.owed = 0 then 1 else 0) (if o.kind = 5 then o.value.toNat else 0))
      none none)

/-- A field of OQRY (R283). -/
def Obj.field (o : Obj) (field : BitVec 5) : Word :=
  match field.toNat with
  | 0 => o.scope
  | 1 => BitVec.ofNat 64 o.waiters.length
  | 2 => o.owed.zeroExtend 64
  | 3 => o.value
  | 4 => o.rank.zeroExtend 64
  | 5 => o.gen.zeroExtend 64
  | 6 => o.kind.zeroExtend 64
  | _ => BitVec.ofNat 64 (o.state.toNat * 2 ^ 24 + o.param.toNat)

/-- The reply's home reserves a slot, and the SEND is discharged (R279). -/
def sendReply (s : State) (h msg reply : Word) (who : Agent) : State :=
  match objOf s reply with
  | none => answer s who (.fault 9 reply false)
  | some o =>
    if o.kind ≠ 6 then answer s who (.fault 9 reply false)
    else if o.param.toNat ≤ o.mail.length + o.owed.toNat + o.resv then answer s who (.done 1 none none)
    else
      answer (send (setObj s (o.setResv (o.resv + 1))) (.discharge h .send (.send msg reply) who)) who
        (.done 0 none none)

/-- An OBLIG that found no place is taken back; R57 looks at the waiters, and a COMPL may reach zero (R388). -/
def withdrawAt (s : State) (o : Obj) : State :=
  let o1 := if o.kind = 2 then o.setCount (o.count - 1) else o
  complDone (reexamine (setObj s { o1 with owed := o.owed - 1 }) o.handle) o.handle

/-- An operation on a live record: scope, then the operation (R275). -/
def recordOp (s : State) (o : Obj) (h : Word) (op : HomeOp) (who : Agent) : State :=
  let checks := match op with
    | .withdraw .. | .claim .. | .osend .. => false
    | _ => true
  if checks && !inScope o who then answer s who (.fault 6 h false)
  else match op with
    | .ofree _ =>
      if o.queue.isSome then answer s who (.fault 9 h false)
      else if o.owed ≠ 0 then answer s who (.fault 10 h false)
      else answer (dropObject s o) who (.done 0 none none)
    | .oblig _ =>
      if o.queue.isSome then answer s who (.fault 9 h false)
      else if o.mayOwe then answer (setObj s o.created) who (.done 0 none (some (h, kindObl o.kind)))
      else answer s who (.done 1 none none)
    | .poll _ => if o.queue.isSome then answer s who (.fault 9 h false) else pollAt s o who
    | .oqry _ field => answer s who (.done (o.field field) none none)
    | .withdraw _ => withdrawAt s o
    | .claim _ => setObj s ((o.setResv (o.resv - 1)).owe 1)
    | _ => s

/-- The handle whose home an operation goes to; ONEW goes to the issuing core's die. -/
def homeTarget : HomeOp → Option Word
  | .onew .. => none
  | .ofree h | .oblig h | .poll h | .oqry h _ | .withdraw h | .claim h => some h
  | .osend _ _ reply => some reply

/-- An operation at its home: ONEW makes an object, OSEND delivers a reply, the rest act on a record (R275). -/
def homeOperationAt (s : State) (op : HomeOp) (who : Agent) : State :=
  match homeTarget op with
  | none =>
    match op with
    | .onew scope g kind => onewAt s scope g kind who
    | _ => s
  | some h =>
    if !homeHere s h then out s (.event (.homeOperation op who))
    else match op with
      | .osend h0 msg reply => sendReply s h0 msg reply who
      | _ =>
        match objOf s h with
        | none => answer s who (.fault 9 h false)
        | some o => recordOp s o h op who

/-- HOME_OPERATION (R275). -/
def execHomeOperation (s : State) : Host.Outcome State Fault Refusal :=
  .next (match s.event with
    | some (.homeOperation op who) => homeOperationAt s op who
    | _ => s)

/-- CANCEL: a waiter still queued is removed and its wait ends with status 4, and detail 4 for a HOLD (R63) or 2 for an
obligation that came to it (R58). -/
def execCancel (s : State) : Host.Outcome State Fault Refusal :=
  .next (match s.event with
    | some (.cancel h who detail) =>
      if !homeHere s h then out s (.event (.cancel h who detail))
      else match removeWaiter s h (.ctx who) with
        | (s1, true) => wakeTo s1 (.ctx who) (waitResult 4 detail 0) none none
        | (s1, false) => s1
    | _ => s)

/-- HOST_REGISTRATION (R71). -/
def execHostRegistration (s : State) : Host.Outcome State Fault Refusal :=
  .next (match s.event with
    | some (.hostRegistration h k dev) =>
      if !homeHere s h then out s (.event (.hostRegistration h k dev))
      else match objOf s h with
        | none => answer s (.host dev) (.fault 9 h false)
        | some o =>
          if kindObl o.kind ≠ k ∨ o.queue.isSome then answer s (.host dev) (.fault 9 h false)
          else if !o.mayOwe then answer s (.host dev) (.done 1 none none)
          else answer (hostOwes (setObj s o.created) (.host dev) h k) (.host dev) (.done 0 none none)
    | _ => s)

/-- The discharges of a lost host: each of its obligations with code 1 (R71). -/
def hostGone (dev : BitVec 12) : List HostObl → State → State
  | [], s => s
  | x :: rest, s =>
    let s1 := if x.dev = dev then
        { s with agenda := s.agenda ++ List.replicate x.mult (.discharge x.h x.kind (.fail 1) (.host dev)) }
      else s
    hostGone dev rest s1

/-- HOST_LOST (R71). -/
def execHostLost (s : State) : Host.Outcome State Fault Refusal :=
  .next (match s.event with
    | some (.hostLost dev) => hostGone dev s.signals.hosts s
    | _ => s)

end Sys2Proof.Machine
end

