-- ==== Sys2Proof/Machine/Launch.lean ====
section
/-!
DEFINITION. The launch engine of the issuing core's die: launch messages, placement, delivery and aging
(R38 to R46, R75 to R77, R84, R89), and the residence of kernel text (R36).
-/

namespace Sys2Proof.Machine

/-! Headers (R40). -/

/-- The width of field i of a layout. -/
def layWidth (widxv : Word) (i : Nat) : Nat := fld widxv (6 * i) 6

/-- The number of fields of a layout. -/
def layFields (widxv : Word) : Nat := fld widxv 36 3

/-- Widths of the fields below field i. -/
def layStart (widxv : Word) : Nat → Nat
  | 0 => 0
  | i + 1 => layStart widxv i + layWidth widxv i

/-- The extent of field i (R40). -/
def layExtent (widxv extm1 : Word) (i : Nat) : Nat := fld extm1 (layStart widxv i) (layWidth widxv i) + 1

/-- Is the layout valid (R33)? -/
def layoutOk (widxv extm1 : Word) : Bool :=
  let nf := layFields widxv
  decide (1 ≤ nf) && decide (nf ≤ 6)
    && (List.range 6).all (fun i => if i < nf then decide (1 ≤ layWidth widxv i) else layWidth widxv i == 0)
    && decide (layStart widxv 6 ≤ 64) && decide (fld widxv 39 3 < nf)
    && (if layStart widxv 6 < 64 then fld extm1 (layStart widxv 6) (64 - layStart widxv 6) == 0 else true)

/-- The product of the extents of the first n fields. -/
def layItems (widxv extm1 : Word) : Nat → Nat
  | 0 => 1
  | n + 1 => layItems widxv extm1 n * layExtent widxv extm1 n

/-- The work ID of an item number: field 0 varies fastest (R44). -/
def widOf (widxv extm1 : Word) : Nat → Nat → Nat → Nat
  | 0, _, _ => 0
  | k + 1, i, n =>
    let e := layExtent widxv extm1 i
    n % e * 2 ^ layStart widxv i + widOf widxv extm1 k (i + 1) (n / e)

/-- A field of a header. -/
def hfld (hdr : BitVec 512) (lo n : Nat) : Nat := nfld hdr.toNat lo n

/-- WIDXV of a header. -/
def hdrWidxv (hdr : BitVec 512) : Word := BitVec.ofNat 64 (hfld hdr 320 42)

/-- EXTM1 of a header. -/
def hdrExtm1 (hdr : BitVec 512) : Word := BitVec.ofNat 64 (hfld hdr 384 64)

/-- COMPL of a header. -/
def hdrCompl (hdr : BitVec 512) : Word := BitVec.ofNat 64 (hfld hdr 448 64)

/-- The item count N (R40). -/
def hdrItems (hdr : BitVec 512) : Nat := layItems (hdrWidxv hdr) (hdrExtm1 hdr) (layFields (hdrWidxv hdr))

/-- The kernel record a header names. -/
def kernelOf (s : State) (hdr : BitVec 512) : Option (CodeObj × BitVec 512) :=
  match codeOf s (BitVec.ofNat 32 (hfld hdr 128 32)) with
  | none => none
  | some c =>
    if c.unloading then none
    else match c.kernels[hfld hdr 176 16]? with
      | none => none
      | some k => some (c, k)

/-- The window rule (R42). -/
def windowOk (hdr kernel : BitVec 512) (src : Agent) (slo shi : BitVec 21) : Bool :=
  let lo := hfld hdr 267 21
  let hi := hfld hdr 299 21
  let ranks := nfld kernel.toNat 168 20
  let device := match src with
    | .ctx _ => true
    | _ => false
  (ranks == 0 && lo == 0 && hi == 0)
    || (decide (1 ≤ lo) && decide (lo < hi) && decide (hi ≤ 0x100000) && decide (ranks ≤ hi - lo)
      && decide (hi ≤ rankOf (hdrCompl hdr))
      && (!device || (decide (slo.toNat ≤ lo) && decide (hi ≤ shi.toNat))))

/-- Checks 1 to 7 of R41, which the die's engine makes by itself: the code, or none. -/
def headerRefusal (s : State) (hdr : BitVec 512) (src : Agent) (lo hi : BitVec 21) : Option Nat :=
  let zero (x n : Nat) : Bool := hfld hdr x n == 0
  if !(zero 362 22 && zero 288 11 && zero 256 11 && zero 250 6 && zero 242 6 && zero 160 16 && zero 0 6)
      ∨ hfld hdr 240 2 = 3 then some 1
  else match kernelOf s hdr with
    | none => some 2
    | some (_, k) =>
      if hfld hdr 192 32 % 4 ≠ 0 ∨ nfld k.toNat 96 16 ≤ hfld hdr 192 32 then some 3
      else if !layoutOk (hdrWidxv hdr) (hdrExtm1 hdr) then some 4
      else if hfld hdr 240 2 < nfld k.toNat 136 2 then some 5
      else if hfld hdr 232 8 < hfld hdr 224 8 ∨ presentClusters s.grade ≤ hfld hdr 232 8 then some 6
      else if !windowOk hdr k src lo hi then some 7
      else none

/-- Checks 8 and 9 of R41, which COMPL's home makes: the code, or none. -/
def complRefusal (s : State) (compl : Word) (n : Nat) (src : Agent) : Option Nat :=
  match objOf s compl with
  | none => some 8
  | some o =>
    if o.kind ≠ 2 ∨ !inScope o src then some 8
    else if 2 ^ 32 ≤ n ∨ 2 ^ 32 ≤ o.owed.toNat + n then some 9
    else none

/-- Check 10 of R41: no free queue entry or launch context; the launches that wait for another device's home
keep theirs. -/
def launchBusy (s : State) : Bool :=
  let kept := (s.engine.asking.filter fun a => a.place).length
  decide (256 ≤ s.engine.launches.length + kept) || decide (65536 ≤ s.engine.ctxs.length + kept)
    || s.engine.refusing

/-- The refusal code of a header whose COMPL is homed here, or none (R41). -/
def launchRefusal (s : State) (hdr : BitVec 512) (src : Agent) (lo hi : BitVec 21) : Option Nat :=
  match headerRefusal s hdr src lo hi with
  | some c => some c
  | none =>
    match complRefusal s (hdrCompl hdr) (hdrItems hdr) src with
    | some c => some c
    | none => if launchBusy s then some 10 else none

/-- The lowest index that names no launch context. DESIGN CHOICE: an accepted launch takes it (log 60). -/
def freeLref (used : List LaunchCtx) : Nat → Nat → Nat
  | 0, i => i
  | n + 1, i => if used.any fun l => l.lref.toNat % 2 ^ 16 == i then freeLref used n (i + 1) else i

/-- Answer a launch message: a host's response, or the sender's token (R39). -/
def launchAnswer (s : State) (src : Agent) (token : BitVec 5) (w : Word) (job : Option Nat := none) : State :=
  match src with
  | .host dev => out s (.launchResponse dev w)
  | .ctx sel =>
    send s (.resultArrival { who := sel, cls := 1, num := token, value := w.zeroExtend 256, cause := 0, ea := 0
                             token := true, flags := 0, pair := none, job := job })
  | _ => s

/-- Reference ticks in 1 ms: the reference runs at 156.25 MHz (R15). -/
def refPerMs : Nat := 156250

/-- The acceptance step at COMPL's home: N joins its VALUE and its owed count (R43). -/
def complStep (s : State) (compl : Word) (n : Nat) : State :=
  match objOf s compl with
  | some o => setObj s ((o.setCount (o.count + n)).owe n)
  | none => s

/-- An engine elsewhere keeps a launch context on this COMPL (R84). -/
def complAway (s : State) (compl : Word) (dev : BitVec 12) (die : BitVec 3) : State :=
  if s.signals.away.contains (compl, dev, die) then s
  else { s with signals := { s.signals with away := s.signals.away ++ [(compl, dev, die)] } }

/-- An accepted launch enters the queue, with its launch context (R43, R84). -/
def enterLaunch (s : State) (hdr : BitVec 512) (xroot : Word) (slots : Nat) (entry : Word) : State :=
  let lref := BitVec.ofNat 32 (s.loc.dev.toNat * 2 ^ 20 + s.loc.die.toNat * 2 ^ 17
    + freeLref s.engine.ctxs s.engine.ctxs.length 0)
  let l : Launch :=
    { id := s.engine.order, hdr := hdr, lref := lref, kslots := slots, prio := hfld hdr 248 2
      accepted := s.clock.ref, order := s.engine.order, next := 0, total := hdrItems hdr, xroot := xroot
      entry := entry }
  let c : LaunchCtx :=
    { lref := lref, restb := BitVec.ofNat 64 (hfld hdr 0 64), widxv := hdrWidxv hdr
      objid := BitVec.ofNat 32 (hfld hdr 128 32), kidx := BitVec.ofNat 16 (hfld hdr 176 16), xroot := xroot
      compl := hdrCompl hdr, hdr := hdr, kslots := slots }
  let s2 := { s with engine := { s.engine with
    launches := s.engine.launches ++ [l], ctxs := s.engine.ctxs ++ [c], order := s.engine.order + 1 } }
  after (send s2 .placementDecision) (s.clock.ref + refPerMs) (.launchAging l.id)

/-- Acceptance: the counts, the launch context and the queue entry in one step (R43, R84). -/
def acceptLaunch (s : State) (hdr : BitVec 512) (xroot : Word) (slots : Nat) (entry : Word) : State :=
  enterLaunch (complStep s (hdrCompl hdr) (hdrItems hdr)) hdr xroot slots entry

/-- The address at which an item of a launch starts (R46). -/
def entryPc (c : CodeObj) (k hdr : BitVec 512) : Word :=
  BitVec.ofNat 64 (textBase c.id (nfld k.toNat 32 16) + hfld hdr 192 32)

/-- A launch message at its engine, COMPL being homed here: one step (R39, R41, R43). -/
def launchHere (s : State) (hdr : BitVec 512) (src : Agent) (token : BitVec 5) (lo hi : BitVec 21)
    (job : Option Nat := none) : State :=
  match launchRefusal s hdr src lo hi with
  | some code => launchAnswer s src token (tokenWord 1 code 0) job
  | none =>
    match kernelOf s hdr with
    | none => s
    | some (c, k) =>
      launchAnswer (acceptLaunch s hdr c.xroot (nfld k.toNat 128 4) (entryPc c k hdr)) src token
        (tokenWord 0 0 (hdrItems hdr)) job

/-- A launch message whose COMPL is homed on another device: checks 1 to 7 here, then the acceptance step is asked
of that home, a queue entry being kept where there is one (R41, R43; log 61). -/
def launchAway (s : State) (hdr : BitVec 512) (src : Agent) (token : BitVec 5) (lo hi : BitVec 21)
    (job : Option Nat := none) : State :=
  match headerRefusal s hdr src lo hi with
  | some code => launchAnswer s src token (tokenWord 1 code 0) job
  | none =>
    match kernelOf s hdr with
    | none => s
    | some (c, k) =>
      let a : Asking :=
        { id := s.engine.order, hdr := hdr, src := src, token := token, xroot := c.xroot
          slots := nfld k.toNat 128 4, entry := entryPc c k hdr, place := !launchBusy s, job := job }
      out { s with engine := { s.engine with asking := s.engine.asking ++ [a], order := s.engine.order + 1 } }
        (.event (.launchStep (hdrCompl hdr) (hdrItems hdr) src s.loc.dev s.loc.die a.id a.place))

/-- The home of COMPL answers: the launch is refused, or enters the queue (R39, R43). -/
def launchAnswered (s : State) (id code : Nat) : State :=
  match s.engine.asking.find? fun a => a.id == id with
  | none => s
  | some a =>
    let s1 := { s with engine := { s.engine with asking := s.engine.asking.filter fun x => x.id != id } }
    if code ≠ 0 then launchAnswer s1 a.src a.token (tokenWord 1 code 0) a.job
    else if !a.place then launchAnswer s1 a.src a.token (tokenWord 1 10 0) a.job
    else launchAnswer (enterLaunch s1 a.hdr a.xroot a.slots a.entry) a.src a.token
      (tokenWord 0 0 (hdrItems a.hdr)) a.job

/-- LAUNCH_MESSAGE (R38 to R43): the message at its die's engine, the acceptance step that another engine asks of
COMPL's home here, and the answer to one that this engine asked; and what another die says of its launch contexts
(R84, R86; log 38). -/
def execLaunchMessage (s : State) : Host.Outcome State Fault Refusal :=
  .next (match s.event with
    | some (.launchMessage hdr src token lo hi job) =>
      if homeHere s (hdrCompl hdr) then launchHere s hdr src token lo hi job
      else launchAway s hdr src token lo hi job
    | some (.launchStep h n src dev die id take) =>
      if !homeHere s h then out s (.event (.launchStep h n src dev die id take))
      else match complRefusal s h n src with
        | some code => out s (.event (.launchStepAnswer dev die id code))
        | none => out (if take then complAway (complStep s h n) h dev die else s)
            (.event (.launchStepAnswer dev die id 0))
    | some (.launchStepAnswer dev die id code) =>
      if dev = s.loc.dev ∧ die = s.loc.die then launchAnswered s id code
      else out s (.event (.launchStepAnswer dev die id code))
    | some (.foreignLaunch l live) =>
      if live then keepForeign s (some l)
      else { s with engine := { s.engine with foreign := s.engine.foreign.filter fun x => x.lref != l.lref } }
    | some (.launchDone dev die compl) =>
      if dev = s.loc.dev ∧ die = s.loc.die then
        { s with engine := { s.engine with ctxs := s.engine.ctxs.filter fun l => l.compl != compl } }
      else out s (.event (.launchDone dev die compl))
    | _ => s)

/-! Placement (R44, R76, R77). -/

/-- The cores of a launch's range on a die that are not fenced, in order: cluster and core. -/
def launchCores (s : State) (die : Nat) (hdr : BitVec 512) : List (Nat × Nat) :=
  (List.range presentMax).flatMap fun c =>
    if hfld hdr 224 8 ≤ c ∧ c ≤ hfld hdr 232 8 ∧ c < presentClusters s.grade then
      (List.range 8).filterMap fun k =>
        if coreFenced s (1024 * die + 8 * c + k) then none else some (c, k)
    else []
where presentMax : Nat := 128

/-- The placement units of a launch in order: the cluster and the core that take each one's items (R76). DESIGN
CHOICE: a cluster is a cluster-granularity unit as long as its core 0 is not fenced (log 62). -/
def launchUnits (s : State) (die : Nat) (hdr : BitVec 512) (kslots : Nat) : List (Nat × Nat) :=
  let cores := launchCores s die hdr
  match hfld hdr 240 2 with
  | 0 => cores.flatMap (List.replicate (10 / max 1 kslots))
  | 2 => cores.filter fun p => p.2 == 0
  | _ => cores

/-- The cluster and core of the unit of a launch's next item (R76). -/
def unitOf (s : State) (l : Launch) : Option (Nat × Nat) :=
  let us := launchUnits s s.loc.die.toNat l.hdr l.kslots
  us[l.next * us.length / l.total]?

/-- The item number of a work ID: field 0 varies fastest (R44). -/
def itemNo (widxv extm1 : Word) : Nat → Nat → Nat → Nat
  | 0, _, _ => 0
  | k + 1, i, wid =>
    nfld wid (layStart widxv i) (layWidth widxv i) + layExtent widxv extm1 i * itemNo widxv extm1 k (i + 1) wid

/-- The queue entry of a launch's next item (R46, R75). -/
def itemOf (l : Launch) (cluster core : Nat) : Item :=
  { lref := l.lref
    wid := BitVec.ofNat 64 (widOf (hdrWidxv l.hdr) (hdrExtm1 l.hdr) (layFields (hdrWidxv l.hdr)) 0 l.next)
    widx := hdrWidxv l.hdr, restb := BitVec.ofNat 64 (hfld l.hdr 0 64), xroot := l.xroot
    arg := BitVec.ofNat 64 (hfld l.hdr 64 64), rankLo := BitVec.ofNat 21 (hfld l.hdr 267 21)
    rankHi := BitVec.ofNat 21 (hfld l.hdr 299 21), pc := l.entry, compl := hdrCompl l.hdr
    gran := BitVec.ofNat 2 (hfld l.hdr 240 2), slots := l.kslots, cluster := BitVec.ofNat 7 cluster
    core := BitVec.ofNat 3 core }

/-- The items sent to another core of the die that have not started there. -/
def sentTo (s : State) (cluster core : Nat) : Nat := (assoc (8 * cluster + core) s.engine.sent).getD 0

/-- Has the target core's item queue a place, with what is on its way (R77)? -/
def queueOpen (s : State) (cluster core : Nat) : Bool :=
  if cluster = s.loc.cluster.toNat ∧ core = s.loc.core.toNat then
    decide (s.core.itemQ.length + (s.agenda.filter fun m => match m with
      | .itemDelivery _ => true
      | _ => false).length < 16)
  else decide (sentTo s cluster core < 16)

/-- Count the items sent to another core. -/
def setSent (s : State) (cluster core n : Nat) : State :=
  { s with engine := { s.engine with sent := setAssoc (8 * cluster + core) n s.engine.sent } }

/-- Does launch a come before launch b (R44)? -/
def launchBefore (a b : Launch) : Bool :=
  decide (a.prio < b.prio) || (a.prio == b.prio && decide (a.order < b.order))

/-- The launch of a decision: the first in the order whose target queue has a place (R44, R77). -/
def chooseLaunch (s : State) : Option (Launch × Nat × Nat) :=
  s.engine.launches.foldl
    (fun best l =>
      match unitOf s l with
      | none => best
      | some (c, k) =>
        if !queueOpen s c k then best
        else match best with
          | none => some (l, c, k)
          | some (b, c0, k0) => if launchBefore l b then some (l, c, k) else some (b, c0, k0)) none

/-- PLACEMENT_DECISION: one item (R44). -/
def execPlacementDecision (s : State) : Host.Outcome State Fault Refusal :=
  .next (match s.event with
    | some .placementDecision =>
      let more (t : State) : State := if t.engine.launches.isEmpty then t else send t .placementDecision
      match chooseLaunch s with
      | none => more s
      | some (l, c, k) =>
        let item := itemOf l c k
        let l1 := { l with next := l.next + 1 }
        let s1 := { s with engine := { s.engine with launches :=
          (s.engine.launches.filterMap fun x =>
            if x.id = l.id then (if l.total ≤ l1.next then none else some l1) else some x) } }
        if c = s.loc.cluster.toNat ∧ k = s.loc.core.toNat then more (send s1 (.itemDelivery item))
        else more (out (setSent s1 c k (sentTo s c k + 1)) (.event (.itemDelivery item)))
    | _ => s)

/-- LAUNCH_AGING: one level up, and again after 1 ms (R45). -/
def execLaunchAging (s : State) : Host.Outcome State Fault Refusal :=
  .next (match s.event with
    | some (.launchAging id) =>
      match s.engine.launches.find? fun l => l.id == id with
      | none => s
      | some l =>
        let s1 := { s with engine := { s.engine with launches :=
          (s.engine.launches.map fun x => if x.id = id then { x with prio := x.prio - 1 } else x) } }
        if 1 < l.prio then after s1 (s.clock.ref + refPerMs) (.launchAging id) else s1
    | _ => s)

/-! Delivery (R75). -/

/-- ITEM_DELIVERY: the entry joins the item queue (R75, R78); or an item has left the queue of another core of the
die, which has a place again (R77); or a helper of an item that started here has started or exited elsewhere
(R82). -/
def execItemDelivery (s : State) : Host.Outcome State Fault Refusal :=
  .next (match s.event with
    | some (.itemDelivery item) =>
      if item.cluster ≠ s.loc.cluster ∨ item.core ≠ s.loc.core then out s (.event (.itemDelivery item))
      else if 16 ≤ s.core.itemQ.length then send s (.itemDelivery item)
      else arrival (s.modCore fun c => { c with itemQ := c.itemQ ++ [item] })
    | some (.itemStarted c k) => setSent s c k (sentTo s c k - 1)
    | some (.helperCount key starts) =>
      if (assoc key s.core.live).isSome then countHelper s key starts else out s (.event (.helperCount key starts))
    | _ => s)

/-! Loads (R89) and continuations (R88). -/

/-- The load byte of this core (R89). -/
def loadByte (s : State) : Nat :=
  (helperSlots.filter fun i => (s.at i).slotState != .free).length * 16
    + min 15 (s.core.itemQ.length + s.core.contQ.length + min 256 s.core.spill.length)

/-- CLUSTLD_UPDATE: the loads of all eight cores are sampled in one cycle (R89); or the other cores say how they
stand now, and core 0 which item holds the cluster (R80). -/
def execClustldUpdate (s : State) : Host.Outcome State Fault Refusal :=
  .next (match s.event with
    | some .clustldUpdate => s.modCluster fun c =>
      { c with clustld := BitVec.ofNat 64 (setFld c.others.toNat (8 * s.loc.core.toNat) 8 (loadByte s)) }
    | some (.coreLoads others hold) => s.modCluster fun c =>
      { c with others := others, hold := if s.loc.core = 0 then c.hold else hold }
    | _ => s)

/-- CONTINUATION_MESSAGE (R88). -/
def execContinuationMessage (s : State) : Host.Outcome State Fault Refusal :=
  .next (match s.event with
    | some (.continuationMessage t r l) =>
      if t ≠ (selfId s 0).truncate 32 then out s (.event (.continuationMessage t r l))
      else if spilling s ∨ 16 ≤ s.core.contQ.length then toSpill s (.msg (.continuationMessage t r l))
      else arrival ((keepForeign s l).modCore fun c => { c with contQ := c.contQ ++ [r] })
    | _ => s)

end Sys2Proof.Machine
end

