-- ==== Sys2Proof/Machine/Copy.lean ====
section
/-!
DEFINITION. Engine accesses, the cluster job queue, copies and streams (R133 to R135, R191, R192, R245 to
R248, R264 to R273, R284, R290).
-/

namespace Sys2Proof.Machine

/-! Engine accesses (R229). -/

/-- What an engine access meets. -/
inductive EngRes where
  | ok (pa : Nat) (lay : BitVec 2)
  | fault (c : Cause)
  /-- a lessor copies the page (R243) -/
  | held
  deriving DecidableEq, Repr

/-- Where an engine access of one byte goes: translation, replica, lease, home (R229, R237, R239, R244). -/
def engPlace (s : State) (xroot : Word) (level : Level) (ea : Word) (writes : Bool) : State × EngRes :=
  match translate s xroot level ea (if writes then .engineWrite else .engineRead) with
  | (s1, .error c) => (s1, .fault c)
  | (s1, .ok p) =>
    if writes && p.layout == 2 then (s1, .fault 13)
    else if level ≠ .s ∧ inClusterSystemArea p.pa then (s1, .fault 6)
    else if leaseReached s1 p then (s1, .fault 14)
    else if isSystemSpace p.pa then (s1, .fault 6)
    else match leaseRoute s1 p.pa p.lease with
      | .held => (s1, .held)
      | .failed => (s1, .fault 14)
      | .at pa => if physExists s1 pa p.layout then (s1, .ok pa p.layout) else (s1, .fault 15)

/-- How an engine's access to some bytes ends. -/
inductive EngOut (α : Type) where
  | ok (s : State) (x : α)
  | fault (s : State) (c : Cause) (ea : Word)
  | held (s : State)

/-- The places of the bytes at some addresses; a padding byte has none. -/
def engPlaces (xroot : Word) (level : Level) (writes : Bool) :
    List (Option Word) → State → EngOut (List (Option Nat))
  | [], s => .ok s []
  | none :: rest, s =>
    match engPlaces xroot level writes rest s with
    | .ok s1 ps => .ok s1 (none :: ps)
    | other => other
  | some ea :: rest, s =>
    match engPlace s xroot level ea writes with
    | (s1, .fault c) => .fault s1 c ea
    | (s1, .held) => .held s1
    | (s1, .ok pa lay) =>
      if !writes ∧ eccBad s1 pa 1 then .fault (logEcc s1 pa lay) 17 ea
      else match engPlaces xroot level writes rest s1 with
        | .ok s2 ps => .ok s2 (some pa :: ps)
        | other => other

/-- The bytes at places; a padding byte is zero. -/
def bytesAt (s : State) : List (Option Nat) → List Byte
  | [] => []
  | none :: rest => 0 :: bytesAt s rest
  | some pa :: rest => Memory.get s.mem pa :: bytesAt s rest

/-- Write bytes at places. -/
def putAt : List (Option Nat) → List Byte → State → State
  | some pa :: ps, b :: bs, s => putAt ps bs { s with mem := Memory.put s.mem pa b }
  | none :: ps, _ :: bs, s => putAt ps bs s
  | _, _, s => s

/-- Consecutive addresses. -/
def addrs (ea : Word) (n : Nat) : List (Option Word) := (List.range n).map fun i => some (ea + BitVec.ofNat 64 i)

/-- Read n bytes as an engine. -/
def engRead (s : State) (xroot : Word) (level : Level) (ea : Word) (n : Nat) : EngOut (List Byte) :=
  match engPlaces xroot level false (addrs ea n) s with
  | .ok s1 ps => .ok s1 (bytesAt s1 ps)
  | .fault s1 c e => .fault s1 c e
  | .held s1 => .held s1

/-- Read n bytes as an engine of the issuing context, its earlier stores, QST and QSCT entries and acquires performed
(R324, R326). -/
def engReadNow (s : State) (ea : Word) (n : Nat) : EngOut Nat :=
  if writesOut s (me s) ∨ qmemStalls s false ∨ acquireOut s (me s) s.ctx.act.after then .held s
  else match engRead s s.ctx.user.xroot s.ctx.level ea n with
  | .ok s1 bs => .ok s1 (natLE bs)
  | .fault s1 c e => .fault s1 c e
  | .held s1 => .held s1

/-- Status and detail of a token for a cause (R264). -/
def engDetail (c : Cause) : Nat × Nat :=
  match c.toNat with
  | 3 => (1, 1)
  | 4 => (1, 2)
  | 14 => (3, 3)
  | 5 => (1, 4)
  | 13 => (1, 6)
  | 17 => (1, 7)
  | 15 => (2, 1)
  | _ => (1, 5)

/-! Tokens and jobs (R131, R192, R290). -/

/-- An operation that fails at issue writes its token with count 0 (R265). -/
def failToken (s : State) (d : BitVec 5) (status detail : Nat) : State :=
  retire (wg s d (tokenWord status detail 0))

/-- Fail at issue with a cause. -/
def failCause (s : State) (d : BitVec 5) (c : Cause) : State := failToken s d (engDetail c).1 (engDetail c).2

/-- Write the token of an operation of a context, after its flags (R131, R192). -/
def giveToken (s : State) (who : BitVec 36) (token : BitVec 5) (flags : BitVec 5) (w : Word)
    (job : Option Nat := none) : State :=
  applyResult s { who := who, cls := 1, num := token, value := w.zeroExtend 256, cause := 0, ea := 0, token := true
                  flags := flags, pair := none, job := job }

/-- The jobs of a core in the queue, counting remote ones (R290). -/
def jobsOf (s : State) (core : Nat) : Nat :=
  (s.cluster.jobs.filter fun j => j.who.toNat % 2 ^ 32 == core).length
    + (s.cluster.remote.filter fun r => r.2.1.toNat % 2 ^ 32 == core).length

/-- Is there no place of the job queue for a job now: it is full, or those that have waited longer take what is free
(R290)? -/
def queueFull (s : State) (who : BitVec 36) (rid : Option Nat) : Bool :=
  decide (32 ≤ s.cluster.jobs.length + s.cluster.waiting.findIdx fun w => w.1 == who && w.2 == rid)

/-- A job waits for a place, behind those that wait already (R290). -/
def waitsForPlace (s : State) (who : BitVec 36) (rid : Option Nat) : State :=
  if s.cluster.waiting.contains (who, rid) then s
  else s.modCluster fun c => { c with waiting := c.waiting ++ [(who, rid)] }

/-- It waits no longer. -/
def notWaiting (s : State) (who : BitVec 36) (rid : Option Nat) : State :=
  s.modCluster fun c => { c with waiting := c.waiting.filter fun w => w != (who, rid) }

/-- Does a job instruction of this core stall (R129, R290)? -/
def jobStall (s : State) : Bool :=
  decide (4 ≤ jobsOf s ((me s).toNat % 2 ^ 32)) || queueFull s (me s) none

/-- Put a job of the issuing context into the queue; its token becomes pending (R131, R290). -/
def queueJob (s : State) (d : BitVec 5) (op : JobOp) (locks : List (Word × Word × Bool)) (start : Msg) : State :=
  let (id, s1) := newId (notWaiting s (me s) none)
  let j : Job :=
    { id := id, who := me s, token := d, op := op, mode := s.ctx.user.fmode, seed := s.ctx.user.lfsr
      level := s.ctx.level, started := false, startRef := 0, rows := 0, xroot := s.ctx.user.xroot
      seq := s.ctx.act.seq, after := max s.ctx.act.after s.ctx.act.afterWr, flags := 0 }
  let s2 := s1.modCluster fun c =>
    { c with jobs := c.jobs ++ [j]
             ranges := c.ranges ++ locks.map fun l => { owner := id, lo := l.1, hi := l.2.1, write := l.2.2 } }
  retire (send (startToken s2 d) start)

/-- A job ends: its locks go, its flags and its token are written (R131, R246, R290). -/
def endJob (s : State) (j : Job) (flags : BitVec 5) (status detail count : Nat) : State :=
  giveToken (dropJob s j.id) j.who j.token flags (tokenWord status detail count)

/-- Free places of the range-lock table: it has 64 entries (R9, R246). -/
def lockRoom (s : State) : Nat := 64 - s.cluster.ranges.length

/-! Geometry of a copy (R245, R248, R264 to R268). -/

/-- Signed 32-bit stride. -/
def stride (desc : Nat) (lo : Nat) : Int := signedN (nfld desc lo 32) 32

/-- A pattern's extents and strides: N0, N1, N2 and S0, S1, S2. -/
structure Pat where
  n0 : Nat
  n1 : Nat
  n2 : Nat
  s0 : Int
  s1 : Int
  s2 : Int
  deriving DecidableEq, Repr

/-- The offset of element e (R133). -/
def Pat.off (p : Pat) (e : Nat) : Int :=
  (e % p.n0 : Nat) * p.s0 + (e / p.n0 % p.n1 : Nat) * p.s1 + (e / (p.n0 * p.n1) : Nat) * p.s2

/-- The lowest offset. -/
def Pat.lo (p : Pat) : Int :=
  min 0 ((p.n0 - 1 : Nat) * p.s0) + min 0 ((p.n1 - 1 : Nat) * p.s1) + min 0 ((p.n2 - 1 : Nat) * p.s2)

/-- The highest offset. -/
def Pat.hi (p : Pat) : Int :=
  max 0 ((p.n0 - 1 : Nat) * p.s0) + max 0 ((p.n1 - 1 : Nat) * p.s1) + max 0 ((p.n2 - 1 : Nat) * p.s2)

/-- The elements. -/
def Pat.count (p : Pat) : Nat := p.n0 * p.n1 * p.n2

/-- Do the offsets of all elements keep an alignment? -/
def Pat.aligned (p : Pat) (n : Nat) : Bool :=
  (p.n0 == 1 || p.s0 % n == 0) && (p.n1 == 1 || p.s1 % n == 0) && (p.n2 == 1 || p.s2 % n == 0)

/-- The source pattern of a CPY2 or CPY3 descriptor (R266). -/
def srcPat (desc : Nat) : Pat :=
  { n0 := nfld desc 368 16, n1 := nfld desc 384 16, n2 := nfld desc 400 16
    s0 := stride desc 0, s1 := stride desc 32, s2 := stride desc 64 }

/-- The destination pattern (R266). -/
def dstPat (desc : Nat) : Pat :=
  { n0 := nfld desc 368 16, n1 := nfld desc 384 16, n2 := nfld desc 400 16
    s0 := stride desc 96, s1 := stride desc 128, s2 := stride desc 160 }

/-- An address at a signed offset. -/
def wordAdd (a : Word) (x : Int) : Word := a + BitVec.ofInt 64 x

/-- What a copy moves: the function, its addresses, its g[c] and its descriptor. -/
structure Geo where
  fn : BitVec 3
  dst : Word
  src : Word
  ctl : Word
  desc : Nat
  deriving DecidableEq, Repr

/-- G × F × U and the parts of an interleave (R248, R267). -/
def Geo.planes (g : Geo) : Nat := nfld g.desc 192 8

/-- Unit size U. -/
def Geo.unit (g : Geo) : Nat := nfld g.desc 96 16 + 1

/-- Units N. -/
def Geo.units (g : Geo) : Nat := nfld g.desc 0 32

/-- G = ceil(N / F). -/
def Geo.groups (g : Geo) : Nat := (g.units + g.planes - 1) / max 1 g.planes

/-- The plane stride. -/
def Geo.pstride (g : Geo) : Nat := nfld g.desc 128 64

/-- The bytes of a copy, in copy order. -/
def Geo.total (g : Geo) : Nat :=
  match g.fn.toNat with
  | 1 | 2 => (srcPat g.desc).count * nfld g.desc 416 24
  | 3 => g.groups * g.planes * g.unit
  | _ => fld g.ctl 0 38

/-- Source and destination of byte i in copy order; none for a byte that is padding (R245, R248). -/
def Geo.move (g : Geo) (i : Nat) : Option Word × Option Word :=
  match g.fn.toNat with
  | 1 | 2 =>
    let elem := nfld g.desc 416 24
    let e := i / elem
    let r : Int := (i % elem : Nat)
    (some (wordAdd g.src ((srcPat g.desc).off e + r)), some (wordAdd g.dst ((dstPat g.desc).off e + r)))
  | 3 =>
    let j := i / g.unit
    let r := i % g.unit
    let k := j % max 1 g.planes
    let pl (base : Word) : Word := base + BitVec.ofNat 64 (k * g.pstride + j / max 1 g.planes * g.unit + r)
    let sq (base : Word) : Option Word := if j < g.units then some (base + BitVec.ofNat 64 (j * g.unit + r)) else none
    if g.desc.testBit 200 then (some (pl g.src), sq g.dst) else (sq g.src, some (pl g.dst))
  | _ => (some (g.src + BitVec.ofNat 64 i), some (g.dst + BitVec.ofNat 64 i))

/-- The lowest and highest source offsets and destination offsets touched (R246); lengths of zero count as
one byte (R265). -/
def Geo.spans (g : Geo) : (Int × Int) × (Int × Int) :=
  let s : Int := g.src.toNat
  let d : Int := g.dst.toNat
  match g.fn.toNat with
  | 1 | 2 =>
    let e : Int := nfld g.desc 416 24
    ((s + (srcPat g.desc).lo, s + (srcPat g.desc).hi + e - 1),
      (d + (dstPat g.desc).lo, d + (dstPat g.desc).hi + e - 1))
  | 3 =>
    let sq : Int := (max 1 (g.units * g.unit) - 1 : Nat)
    let pl : Int := ((g.planes - 1) * g.pstride + g.groups * g.unit - 1 : Nat)
    if g.desc.testBit 200 then ((s, s + pl), (d, d + sq)) else ((s, s + sq), (d, d + pl))
  | _ =>
    let n : Int := (max 1 (fld g.ctl 0 38) - 1 : Nat)
    ((s, s + n), (d, d + n))

/-! Checks at issue (R265). -/

/-- The element size of a CPYR format; 0 for a format that is none (R268). -/
def redSize (fmt : Nat) : Nat :=
  match fmt with
  | 1 => 8 | 2 => 4 | 3 => 2 | 0x0A => 4 | 0x0B => 8 | _ => 0

/-- Is a launch port the destination: aperture 0xF4, this domain's device and die, offset zero (R38)? -/
def launchPort (ea : Word) : Bool := fld ea 56 8 == 0xF4 && fld ea 0 41 == 0

/-- FORMAT of R265: the descriptor, length or control value keeps its map (R38, R264 to R268). -/
def Geo.formatOk (g : Geo) : Bool :=
  let z (lo n : Nat) : Bool := nfld g.desc lo n == 0
  match g.fn.toNat with
  | 0 => fld g.ctl 38 26 == 0 && decide (fld g.ctl 0 38 ≤ 2 ^ 37)
      && (!launchPort g.dst || (fld g.ctl 0 38 == 64 && fld g.src 0 6 == 0))
  | 1 => z 440 72 && z 192 176 && !z 416 24 && !z 384 16 && !z 368 16 && nfld g.desc 400 16 == 1 && z 160 32 && z 64 32
  | 2 => z 440 72 && z 192 176 && !z 416 24 && !z 384 16 && !z 368 16 && !z 400 16
  | 3 => z 201 311 && decide (2 ≤ g.planes) && decide (g.planes ≤ 64) && z 112 16 && z 32 64 && !z 0 32
  | _ => fld g.ctl 38 18 == 0 && redSize (fld g.ctl 56 8) != 0 && fld g.ctl 0 38 % redSize (fld g.ctl 56 8) == 0

/-- ALIGN of R265: a reducing copy's addresses (R268). -/
def Geo.alignOk (g : Geo) : Bool :=
  g.fn.toNat != 4 || (g.src.toNat % redSize (fld g.ctl 56 8) == 0 && g.dst.toNat % redSize (fld g.ctl 56 8) == 0)

/-- Does an address keep R224? -/
def legalEa (s : State) (x : Int) : Bool :=
  if x < 0 ∨ (2 ^ 64 : Nat) ≤ x then false
  else
    let ea := BitVec.ofInt 64 x
    if fld ea 56 8 = 0x10 then !ea.getLsbD 55
    else match resolve s ea with
      | .ok _ => true
      | .error _ => false

/-- Does a span keep R224 at both ends, in one aperture (R272)? -/
def spanEnds (s : State) (p : Int × Int) : Bool :=
  legalEa s p.1 && legalEa s p.2 && p.1 / (2 ^ 56 : Nat) == p.2 / (2 ^ 56 : Nat)

/-- The aperture of a span. -/
def spanAp (p : Int × Int) : Nat := (p.1 / (2 ^ 56 : Nat)).toNat

/-- The bits of an offset within one scratchpad, one die's SRAM, one part of a bank slot: past its limit the aperture
has a gap (R224). -/
def apertureUnit (ap : Nat) : Nat := match ap with
  | 2 => 21
  | 3 => 26
  | 4 => 18
  | _ => 56

/-- Does every address of a span keep R224 (R265)? -/
def spanLegal (s : State) (p : Int × Int) : Bool :=
  spanEnds s p && p.1 / (2 ^ apertureUnit (spanAp p) : Nat) == p.2 / (2 ^ apertureUnit (spanAp p) : Nat)

/-- Does a legal span reach into a cluster's system area (R24)? -/
def spanSystem (p : Int × Int) : Bool :=
  (spanAp p == 1 || spanAp p == 2) && decide ((0x17FA00 : Int) ≤ p.2 % (2 ^ 21 : Nat))

/-- Does a span touch TCM below BOUND (R106)? -/
def spanBound (s : State) (p : Int × Int) : Bool := spanAp p == 0 && decide (p.1 < fld s.core.sys.xbound 0 16)

/-- PROT of R265: aperture 0x04 written, the system window other than a launch port, TCM below BOUND at H level, a
cluster's system area below S level (R24). -/
def Geo.protOk (g : Geo) (s : State) (level : Level) : Bool :=
  let (sp, dp) := g.spans
  spanAp dp != 4 && decide (spanAp sp < 0xF0)
    && (decide (spanAp dp < 0xF0) || (launchPort g.dst && g.fn == 0))
    && !(level == .h && (spanBound s sp || spanBound s dp))
    && (level == .s || !(spanSystem sp || (spanSystem dp && !launchPort g.dst)))

/-- A span with aperture 0x01 written as 0x02 (R246). -/
def normSpan (s : State) (p : Int × Int) : Int × Int :=
  let lo := (normEa s (BitVec.ofInt 64 p.1)).toNat
  (lo, (lo : Int) + (p.2 - p.1))

/-- Do two spans share a byte? -/
def spansMeet (s : State) (p q : Int × Int) : Bool :=
  let a := normSpan s p
  let b := normSpan s q
  decide (a.1 ≤ b.2) && decide (b.1 ≤ a.2)

/-- OVERLAP of R265 and R267. -/
def Geo.overlaps (g : Geo) (s : State) : Bool :=
  let (sp, dp) := g.spans
  g.total != 0 && !launchPort g.dst
    && (spansMeet s sp dp || (g.fn.toNat == 3 && decide (g.pstride < g.groups * g.unit)))

/-- The first check of R265 that a copy fails, as its detail. -/
def Geo.refusal (g : Geo) (s : State) (level : Level) : Option Nat :=
  let (sp, dp) := g.spans
  if !g.formatOk then some 9
  else if !g.alignOk then some 1
  else if !spanLegal s sp ∨ !spanLegal s dp then some 2
  else if !g.protOk s level then some 5
  else if g.overlaps s then some 8
  else none

/-- The locks of a span (R246). -/
def spanLock (s : State) (p : Int × Int) (write : Bool) : Word × Word × Bool :=
  let q := normSpan s p
  (BitVec.ofInt 64 q.1, BitVec.ofInt 64 q.2, write)

/-- A copy at issue, its operands read (R246, R265, R270). -/
def issueCopy (d : BitVec 5) (g : Geo) (start : Nat) (s : State) : State :=
  match g.refusal s s.ctx.level with
  | some detail => failToken s d 1 detail
  | none =>
    if g.total = 0 then failToken s d 0 0
    else
      let locks := if launchPort g.dst then [spanLock s g.spans.1 false] else [spanLock s g.spans.1 false, spanLock s g.spans.2 true]
      if lockRoom s < locks.length then stall s
      else
        let s1 := queueJob s d (.copy g.fn g.dst g.src g.ctl (BitVec.ofNat 512 g.desc) start) locks .copyStart
        if g.fn.toNat = 4 then s1.setAt s.core.cur
          (let c := s1.at s.core.cur; { c with user := { c.user with lfsr := lfsrStep c.user.lfsr } }) else s1

/-- Read a descriptor of n bytes and go on with it. -/
def withBytes (d : BitVec 5) (ea : Word) (n : Nat) (s : State) (k : Nat → State → State) : State :=
  match engReadNow s ea n with
    | .ok s1 x => k x s1
    | .fault s1 c _ => failCause s1 d c
    | .held s1 => stall s1

/-- Read a descriptor of n bytes, aligned to n, and go on with it. -/
def withDesc (d : BitVec 5) (ea : Word) (n : Nat) (s : State) (k : Nat → State → State) : State :=
  if ea.toNat % n ≠ 0 then failToken s d 1 1 else withBytes d ea n s k

/-- The copy of a function, with the descriptor of those that have one. -/
def copyOf (fn : BitVec 3) (d : BitVec 5) (dst src ctl : Word) (start : Nat) (s : State) : State :=
  let g : Geo := { fn := fn, dst := dst, src := src, ctl := ctl, desc := 0 }
  if fn.toNat = 1 ∨ fn.toNat = 2 ∨ fn.toNat = 3 then
    withDesc d ctl 64 s fun x s1 => issueCopy d { g with desc := x } start s1
  else issueCopy d g start s

/-- A copy instruction (R264). -/
def copyIns (fn : BitVec 3) (d a b c : BitVec 5) (s : State) : State :=
  if jobStall s then stall s else copyOf fn d (gv s a) (gv s b) (gv s c) 0 s

/-- CPY (R264, R265). -/
def execCpy (d a b c : BitVec 5) (s : State) : Host.Outcome State Fault Refusal := .next (copyIns 0 d a b c s)

/-- CPY2 (R266). -/
def execCpy2 (d a b c : BitVec 5) (s : State) : Host.Outcome State Fault Refusal := .next (copyIns 1 d a b c s)

/-- CPY3 (R266). -/
def execCpy3 (d a b c : BitVec 5) (s : State) : Host.Outcome State Fault Refusal := .next (copyIns 2 d a b c s)

/-- CPYI (R248, R267). -/
def execCpyi (d a b c : BitVec 5) (s : State) : Host.Outcome State Fault Refusal := .next (copyIns 3 d a b c s)

/-- CPYR (R268). -/
def execCpyr (d a b c : BitVec 5) (s : State) : Host.Outcome State Fault Refusal := .next (copyIns 4 d a b c s)

/-- CPYRS (R270). -/
def execCpyrs (d a b c : BitVec 5) (s : State) : Host.Outcome State Fault Refusal :=
  .next (if jobStall s then stall s
    else withDesc d (gv s c) 16 s fun x s1 =>
      let fn := nfld x 60 4
      if 4 < fn ∨ nfld x 32 28 ≠ 0 then failToken s1 d 1 9
      else copyOf (BitVec.ofNat 3 fn) d (gv s a) (gv s b) (BitVec.ofNat 64 (nfld x 64 64)) (nfld x 0 32) s1)

/-! Running a copy (R245 to R248, R268). -/

/-- Is the job one of the copy family? -/
def Job.isCopy (j : Job) : Bool := match j.op with
  | .copy .. | .launch .. => true
  | _ => false

/-- Is the job an MXB? -/
def Job.isMxb (j : Job) : Bool := match j.op with
  | .mxb .. => true
  | _ => false

/-- Copies in flight: started copies and MXBs (R245, R290). -/
def inFlight (s : State) : Nat := (s.cluster.jobs.filter fun j => j.started && (j.isCopy || j.isMxb)).length

/-- Mark a job as started. -/
def startJob (s : State) (id : Nat) : State :=
  s.modCluster fun c => { c with jobs := c.jobs.map fun j =>
    if j.id = id then { j with started := true, startRef := s.clock.ref } else j }

/-- Start copies in queue order, while fewer than 16 are in flight. -/
def startCopies : List Job → State → State
  | [], s => s
  | j :: rest, s =>
    if j.isCopy && !j.started && decide (inFlight s < 16) then
      startCopies rest (send (startJob s j.id) (.copyComplete j.id))
    else startCopies rest s

/-- COPY_START: a place may also free an MXB (R286, R290). -/
def execCopyStart (s : State) : Host.Outcome State Fault Refusal :=
  .next (match s.event with
    | some .copyStart =>
      let s1 := startCopies s.cluster.jobs s
      if s1.cluster.jobs.any fun j => j.isMxb && !j.started then send s1 .mxbStart else s1
    | _ => s)

/-- One element of a reducing copy; under RS the seed steps once for it, whatever the result (R268). -/
def reduceOne (fmt : Nat) (st : FEnv) (dst src : Nat) : Nat × FEnv :=
  match fmt with
  | 0x0A => ((dst + src) % 2 ^ 32, st)
  | 0x0B => ((dst + src) % 2 ^ 64, st)
  | _ =>
    match fmtOfCode fmt with
    | none => (dst, st)
    | some f =>
      let (r, st1) := fadd st f (fread st.md f dst) (fread st.md f src)
      (r, if rmOf st.md = .rs then { st1 with lfsr := lfsrStep st.lfsr } else st1)

/-- The elements of a block of a reducing copy, in copy order. -/
def reduceAll (fmt : Nat) : List Nat → List Nat → FEnv → List Nat × FEnv
  | d :: ds, x :: xs, st =>
    let (r, st1) := reduceOne fmt st d x
    let (rs, st2) := reduceAll fmt ds xs st1
    (r :: rs, st2)
  | _, _, st => ([], st)

/-- The bank port of the copy unit (R253). -/
def copyPort : Nat := 9

/-- One block of a copy: every source byte, then every destination, is checked before it is written; a bank may refuse
the write for now (R252). -/
def copyBlock (j : Job) (g : Geo) (b : Nat) (s : State) (st : FEnv) : EngOut FEnv :=
  let port := copyPort
  let moves := (List.range (min 64 (g.total - 64 * b))).map fun i => g.move (64 * b + i)
  match engPlaces j.xroot j.level false (moves.map (·.1)) s with
  | .fault s1 c e => .fault s1 c e
  | .held s1 => .held s1
  | .ok s1 sp =>
    match engPlaces j.xroot j.level true (moves.map (·.2)) s1 with
    | .fault s2 c e => .fault s2 c e
    | .held s2 => .held s2
    | .ok s2 dp =>
      match (if g.fn.toNat = 4 then engPlaces j.xroot j.level false (moves.map (·.2)) s2 else .ok s2 dp) with
      | .fault s2 c e => .fault s2 c e
      | .held s2 => .held s2
      | .ok s2 dp =>
      if engineRefused s2 port (byteKeys dp) then .held (engineLost s2 port (byteKeys dp))
      else
        let s3 := engineServed s2 port (byteKeys dp)
        if g.fn.toNat = 4 then
          let fmt := fld g.ctl 56 8
          let n := redSize fmt
          let (rs, st1) := reduceAll fmt (numsLE n (moves.length / n) (bytesAt s3 dp))
            (numsLE n (moves.length / n) (bytesAt s3 sp)) st
          .ok (putAt dp (rs.flatMap (bytesLE n)) s3) st1
        else .ok (putAt dp (bytesAt s3 sp) s3) st

/-- How a run of blocks ends: done, at a fault after k blocks, or held by a lessor after k. -/
inductive CopyOut where
  | done (s : State) (st : FEnv)
  | fault (s : State) (st : FEnv) (k : Nat) (c : Cause)
  | held (s : State) (st : FEnv) (k : Nat)

/-- Blocks in copy order (R245, R247). -/
def copyBlocks (j : Job) (g : Geo) : Nat → Nat → State → FEnv → CopyOut
  | 0, _, s, st => .done s st
  | n + 1, b, s, st =>
    match copyBlock j g b s st with
    | .ok s1 st1 => copyBlocks j g n (b + 1) s1 st1
    | .fault s1 c _ => .fault s1 st b c
    | .held s1 => .held s1 st b

/-- The window of a context of this core, for a launch it sends (R42). -/
def senderWindow (s : State) (who : BitVec 36) : BitVec 21 × BitVec 21 :=
  match localSlot s who with
  | some i => ((s.at i).user.rankLo, (s.at i).user.rankHi)
  | none => (0, 0)

/-- A copy to a launch port: the message goes to the launch engine, which writes the token; the copy keeps its entry and
its lock until then (R38, R39, R246, R290). -/
def copyLaunch (s : State) (j : Job) (g : Geo) : State :=
  match engRead s j.xroot j.level g.src 64 with
  | .held s1 => send s1 (.copyComplete j.id)
  | .fault s1 c _ => endJob s1 j 0 (engDetail c).1 (engDetail c).2 0
  | .ok s1 bs =>
    let (lo, hi) := senderWindow s1 j.who
    let m : Msg := .launchMessage (BitVec.ofNat 512 (natLE bs)) (.ctx j.who) j.token lo hi (some j.id)
    let s2 := s1.modCluster fun c => { c with jobs := c.jobs.map fun x =>
      if x.id = j.id then { x with op := .launch g.dst g.src } else x }
    if fld g.dst 44 12 = s.loc.dev.toNat ∧ fld g.dst 41 3 = s.loc.die.toNat then send s2 m else out s2 (.event m)

/-- A held copy keeps its progress: the blocks done, the seed and the flags (R191, R192). -/
def keepCopy (s : State) (j : Job) (st : FEnv) (k : Nat) : State :=
  s.modCluster fun c => { c with jobs := c.jobs.map fun x =>
    if x.id = j.id then { x with seed := st.lfsr, flags := st.flags, op := match x.op with
      | .copy fn dst src ctl desc _ => .copy fn dst src ctl desc k
      | op => op } else x }

/-- Run a copy up to a block, and end it with a status and detail, or at its fault. A held copy goes on later. -/
def runBlocks (s : State) (j : Job) (g : Geo) (start stop status detail count : Nat) (again : Msg) : State :=
  match copyBlocks j g (stop - start) start s { md := j.mode, lfsr := j.seed, flags := j.flags } with
  | .done s1 st => endJob s1 j st.flags status detail count
  | .fault s1 st k c => endJob (engineServed s1 copyPort) j st.flags (engDetail c).1 (engDetail c).2 k
  | .held s1 st k => send (keepCopy s1 j st k) again

/-- Run a copy to its end. -/
def runCopy (s : State) (j : Job) (g : Geo) (start : Nat) : State :=
  let total := (g.total + 63) / 64
  if total ≤ start then endJob s j j.flags 0 0 total
  else if launchPort g.dst then copyLaunch s j g
  else runBlocks s j g start total 0 0 total (.copyComplete j.id)

/-- COPY_COMPLETE (R131, R247); a place in the unit frees. -/
def execCopyComplete (s : State) : Host.Outcome State Fault Refusal :=
  .next (match s.event with
    | some (.copyComplete id) =>
      match s.cluster.jobs.find? fun j => j.id == id with
      | none => s
      | some j =>
        match j.op with
        | .copy fn dst src ctl desc start =>
          send (runCopy s j { fn := fn, dst := dst, src := src, ctl := ctl, desc := desc.toNat } start) .copyStart
        | _ => s
    | _ => s)

/-- CPYR_ACK_TIMEOUT: the blocks that were acknowledged are applied, in copy order, none after them has an effect, and the
copy ends with UNREACH and their count (R269, R330; log 66). -/
def execCpyrAckTimeout (s : State) : Host.Outcome State Fault Refusal :=
  .next (match s.event with
    | some (.cpyrAckTimeout id acked) =>
      match s.cluster.jobs.find? fun j => j.id == id with
      | none => s
      | some j =>
        match j.op with
        | .copy fn dst src ctl desc start =>
          let g : Geo := { fn := fn, dst := dst, src := src, ctl := ctl, desc := desc.toNat }
          if fn.toNat = 4 then
            let stop := max start (min acked ((g.total + 63) / 64))
            send (runBlocks s j g start stop 2 2 stop (.cpyrAckTimeout id acked)) .copyStart
          else s
        | _ => s
    | _ => s)

/-! Streams (R133 to R135, R271 to R273). -/

/-- The pattern of a stream descriptor. -/
def streamPat (x : Nat) : Pat :=
  { n0 := nfld x 160 16, n1 := nfld x 176 16, n2 := nfld x 192 16
    s0 := stride x 64, s1 := stride x 96, s2 := stride x 128 }

/-- The element size of a pattern: 32 bytes in the v class. -/
def elemSize (x : Nat) (cls : BitVec 1) : Nat := if cls = 1 then 32 else 2 ^ nfld x 208 2

/-- Does a pattern descriptor keep its map (R133)? -/
def patFormat (x : Nat) (cls : BitVec 1) : Bool :=
  nfld x 216 40 == 0 && nfld x 160 16 != 0 && nfld x 176 16 != 0 && nfld x 192 16 != 0
    && (if cls = 1 then nfld x 208 8 == 0 else nfld x 211 5 == 0 && !(nfld x 208 3 == 7))

/-- The span of a pattern. -/
def patSpan (x : Nat) (cls : BitVec 1) : Int × Int :=
  let base : Int := (nfld x 0 64 : Nat)
  (base + (streamPat x).lo, base + (streamPat x).hi + elemSize x cls - 1)

/-- The register of a stream operand. -/
def streamReg (r : BitVec 5) (cls : BitVec 1) : Reg := if cls = 0 then .g r else .v r

/-- SOPEN with its descriptor read: checks 3 to 5 of R272, and the stream. -/
def openStream (d r : BitVec 5) (cls : BitVec 1) (x : Nat) (s : State) : State :=
  let n := elemSize x cls
  let sp := patSpan x cls
  if !patFormat x cls then failToken s d 1 9
  else if nfld x 0 64 % n ≠ 0 ∨ !(streamPat x).aligned n then failToken s d 1 1
  else if !spanEnds s sp then failToken s d 1 2
  else if s.ctx.level = .h ∧ spanBound s sp then failToken s d 1 5
  else if lockRoom s < 1 then stall s
  else
    let st : Stream :=
      { pat := BitVec.ofNat 256 x, cls := cls, reg := r, popped := 0, buf := [], fault := none, ending := false
        level := s.ctx.level, born := s.core.ids, seq := s.ctx.act.seq }
    let (lo, hi, _) := spanLock s sp false
    let s1 := (s.mod fun c => { c with streams := c.streams ++ [st] }).modCluster fun c =>
      { c with ranges := c.ranges ++ [{ owner := streamOwner s.core.cur st, lo := lo, hi := hi, write := false }] }
    retire (send (wg s1 d (tokenWord 0 0 (min (patCount st.pat) (2 ^ 32 - 1))))
      (.streamRefill (BitVec.ofNat 4 s.core.cur.val) cls r))

/-- SOPEN (R272). -/
def execSopen (d a r : BitVec 5) (cls : BitVec 1) (s : State) : Host.Outcome State Fault Refusal :=
  .next (if (s.ctx.streamIn (streamReg r cls)).isSome ∨ (cls = 0 ∧ r = d) then failToken s d 1 11
    else if 4 ≤ s.ctx.streams.length then failToken s d 1 10
    else withDesc d (gv s a) 32 s fun x s1 => openStream d r cls x s1)

/-- SCLOSE (R273). -/
def execSclose (d r : BitVec 5) (cls : BitVec 1) (s : State) : Host.Outcome State Fault Refusal :=
  .next (match s.ctx.streamIn (streamReg r cls) with
    | none => failToken s d 0 0
    | some st =>
      let s1 := unlockRange (s.mod fun c => c.setStream (streamReg r cls) none) (streamOwner s.core.cur st)
      retire (wg s1 d (tokenWord 0 0 st.popped)))

/-- SSTAT (R273). -/
def execSstat (d r : BitVec 5) (cls : BitVec 1) (s : State) : Host.Outcome State Fault Refusal :=
  .next (match s.ctx.streamIn (streamReg r cls) with
    | none => retire (wg s d 0)
    | some st =>
      retire (wg s d (BitVec.ofNat 64 (2 ^ 63 + st.ending.toNat * 2 ^ 62
        + (st.fault.isSome && st.buf.isEmpty).toNat * 2 ^ 61 + st.buf.length % 256 * 2 ^ 32
        + st.popped % 2 ^ 32))))

/-- An element as its register holds it (R133). -/
def elemValue (x : Nat) (cls : BitVec 1) (v : Nat) : VReg :=
  if cls = 1 then BitVec.ofNat 256 v
  else
    let n := 8 * elemSize x cls
    if nfld x 210 1 = 1 then ((sextN (BitVec.ofNat 64 v) n : Word).zeroExtend 256) else BitVec.ofNat 256 v

/-- A stream reads its next element ahead, where its buffer has room (R134, R135). -/
def streamAhead (s : State) (i : Fin 11) (cls : BitVec 1) (reg : BitVec 5) (again : Msg) : State :=
  let c := s.at i
  let r := streamReg reg cls
  match c.streamIn r with
  | none => s
  | some st =>
    let x := st.pat.toNat
    let e := st.popped + st.buf.length
    let n := elemSize x cls
    if patCount st.pat ≤ e ∨ 256 < (st.buf.length + 1) * n ∨ st.fault.isSome then s
    else
      let ea := wordAdd (BitVec.ofNat 64 (nfld x 0 64)) ((streamPat x).off e)
      match engRead s c.user.xroot st.level ea n with
      | .held s1 => send s1 again
      | .fault s1 cause _ =>
        s1.setAt i ((s1.at i).setStream r (some { st with fault := some (cause, ea) }))
      | .ok s1 bs =>
        send (s1.setAt i ((s1.at i).setStream r (some { st with
          buf := st.buf ++ [elemValue x cls (natLE bs)] }))) again

/-- STREAM_REFILL: the next element, at most 256 bytes ahead of the pops (R135). -/
def execStreamRefill (s : State) : Host.Outcome State Fault Refusal :=
  .next (match s.event with
    | some (.streamRefill slot cls reg) =>
      match slotOf slot.toNat with
      | none => s
      | some i => streamAhead s i cls reg (.streamRefill slot cls reg)
    | _ => s)

end Sys2Proof.Machine
end

