-- ==== Sys2Proof/Machine/Trans.lean ====
section
/-!
DEFINITION. The functions of R204, computed to 1,100 binary places so that one rounding of the exact value
follows (log 23): fixed-point numbers are naturals in units of 2^-1100.
-/

namespace Sys2Proof.Machine

/-- Binary places of the fixed-point numbers. -/
def fxBits : Nat := 1100

/-- 1 in fixed point. -/
def fxOne : Nat := 2 ^ fxBits

/-- A product in fixed point. -/
def fxMul (a b : Nat) : Nat := a * b / fxOne

/-- The terms t, t·r/n, … of the exponential series. -/
def expTerms (r : Nat) : Nat → Nat → Nat → Nat
  | 0, _, _ => 0
  | k + 1, n, t => t + expTerms r k (n + 1) (fxMul t r / n)

/-- e^r for r below 1. -/
def fxExp (r : Nat) : Nat := expTerms r 300 1 fxOne

/-- t/n + t·z/(n+2) + …: with t = x and z = x², the inverse hyperbolic tangent. -/
def atanhTerms (z : Nat) : Nat → Nat → Nat → Nat
  | 0, _, _ => 0
  | k + 1, n, t => t / n + atanhTerms z k (n + 2) (fxMul t z)

/-- The inverse hyperbolic tangent of a fraction up to 1/3. -/
def fxAtanh (x : Nat) : Nat := atanhTerms (fxMul x x) 400 1 x

/-- ln 2. -/
def fxLn2 : Nat := 2 * fxAtanh (fxOne / 3)

/-- The arctangent of 1/q, with alternating terms. -/
def atanTerms (q : Nat) : Nat → Nat → Int → Int
  | 0, _, _ => 0
  | k + 1, n, t => t / n - atanTerms q k (n + 2) (t / (q * q : Nat))

/-- π/2, by Machin's formula. -/
def fxHalfPi : Nat :=
  (2 * (4 * atanTerms 5 300 1 (fxOne / 5 : Nat) - atanTerms 239 300 1 (fxOne / 239 : Nat))).toNat

/-- Alternating terms t − t·z/(n(n+1)) + …: the sine with t = r, n = 2 and the cosine with t = 1, n = 1. -/
def trigTerms (z : Nat) : Nat → Nat → Nat → Int
  | 0, _, _ => 0
  | k + 1, n, t => (t : Int) - trigTerms z k (n + 2) (fxMul t z / (n * (n + 1)))

/-- The sine and cosine of an angle below π/2. -/
def fxSinCos (r : Nat) : Nat × Nat :=
  let z := fxMul r r
  ((trigTerms z 200 2 r).toNat, (trigTerms z 200 1 fxOne).toNat)

/-- An exact dyadic m × 2^e in fixed point. -/
def fxOf (m : Nat) (e : Int) : Nat :=
  if 0 ≤ e + fxBits then m * 2 ^ (e + fxBits).toNat else m / 2 ^ (-(e + fxBits)).toNat

/-- e^y for y ≥ 0 as (f, k): f × 2^k with f in [1, 2). -/
def fxExpBig (y : Nat) : Nat × Nat :=
  let k := y / fxLn2
  (fxExp (y - k * fxLn2), k)

/-- The integer square root, by bits. -/
def sqrtBits : Nat → Nat → Nat → Nat
  | 0, _, r => r
  | k + 1, n, r => let c := r + 2 ^ k; sqrtBits k n (if c * c ≤ n then c else r)

/-- A magnitude: m × 2^e, and whether the value lies strictly between m and m + 1. -/
abbrev Mag := Nat × Int × Bool

/-- A fixed-point value that is not exact, without its guard bits. -/
def magOf (x : Nat) : Mag := (x / 2 ^ 64, -((fxBits : Int) - 64), true)

/-- A positive value too small for any format. -/
def tinyMag : Mag := (0, -1000, true)

/-- A value just below 1. -/
def belowOne : Mag := (2 ^ 400 - 1, -400, true)

/-- 2^x of a finite x (R204). -/
def exp2Mag (neg : Bool) (m : Nat) (e : Int) : Mag :=
  if m = 0 then (1, 0, false)
  else if 0 ≤ e ∨ m % 2 ^ (-e).toNat = 0 then
    let n : Nat := if 0 ≤ e then (if 20 ≤ e then 1000 else m * 2 ^ e.toNat) else m / 2 ^ (-e).toNat
    let n := min n 1000
    (1, if neg then -(n : Int) else n, false)
  else
    let ip := m / 2 ^ (-e).toNat
    if 1000 < ip then (if neg then tinyMag else (1, 1000, true))
    else
      let f := fxOf (m % 2 ^ (-e).toNat) e
      let (f, n) : Nat × Int := if neg then (fxOne - f, -(ip : Int) - 1) else (f, ip)
      let (x, ex, st) := magOf (fxExp (fxMul f fxLn2))
      (x, ex + n, st)

/-- log2 of a positive finite value other than 1: its sign and magnitude (R204). -/
def log2Mag (m : Nat) (e : Int) : Bool × Mag :=
  let l := Nat.log2 m
  let n : Int := (l : Int) + e
  if m = 2 ^ l then (decide (n < 0), (n.natAbs, 0, false))
  else
    let f := fxOf m (-(l : Int))
    let ln := 2 * fxAtanh ((f - fxOne) * fxOne / (f + fxOne))
    let v : Int := n * fxOne + (ln * fxOne / fxLn2 : Nat)
    if v < 0 then (true, magOf (-v - 1).toNat) else (false, magOf v.toNat)

/-- 1/x of a nonzero magnitude (R204). -/
def rcpMag (m : Nat) (e : Int) : Mag :=
  let q := 2 ^ 256 / m
  (q, -256 - e, q * m != 2 ^ 256)

/-- 1/√x of a positive magnitude (R204). -/
def rsqMag (m : Nat) (e : Int) : Mag :=
  let (m, e) : Nat × Int := if e % 2 = 0 then (m, e) else (2 * m, e - 1)
  let n := 2 ^ 512 / m
  let r := sqrtBits 257 n 0
  (r, -256 - e / 2, r * r * m != 2 ^ 512)

/-- sin x or cos x of a nonzero finite x: its sign and magnitude (R204). -/
def trigMag (cos neg : Bool) (m : Nat) (e : Int) : Bool × Mag :=
  let x := fxOf m e
  let k := x / fxHalfPi
  let (sn, cs) := fxSinCos (x - k * fxHalfPi)
  let q := (if cos then k + 1 else k) % 4
  let sign := decide (2 ≤ q)
  let v := if k % 2 = 0 then (if cos then cs else sn) else (if cos then sn else cs)
  (if cos then sign else xor neg sign, magOf v)

/-- tanh of a nonzero magnitude (R204). -/
def tanhMag (m : Nat) (e : Int) : Mag :=
  if 8 ≤ (Nat.log2 m : Int) + e then belowOne
  else
    let (f, k) := fxExpBig (2 * fxOf m e)
    let big := f * 2 ^ k
    magOf ((big - fxOne) * fxOne / (big + fxOne))

/-- 1/(1 + e^-x) of a finite x (R204). -/
def sigmMag (neg : Bool) (m : Nat) (e : Int) : Mag :=
  if m = 0 then (1, -1, false)
  else if 8 ≤ (Nat.log2 m : Int) + e then (if neg then tinyMag else belowOne)
  else
    let (f, k) := fxExpBig (fxOf m e)
    let big := f * 2 ^ k
    magOf ((if neg then fxOne else big) * fxOne / (big + fxOne))

/-- The functions of R204. -/
inductive TransFn | exp2 | log2 | rcp | rsq | sin | cos | tanh | sigm
  deriving DecidableEq, Repr

/-- Round a magnitude with a sign (R204). -/
def roundMag (st : FEnv) (f : FFmt) (neg : Bool) (x : Mag) : Nat × FEnv := fround st f neg x.1 x.2.1 x.2.2

/-- The bits of ± 1. -/
def oneBits (f : FFmt) (neg : Bool) : Nat := packFinite f neg 1 0

/-- A lane of R204: the special operands, or the exact value rounded once. -/
def transLane (fn : TransFn) (f : FFmt) (st : FEnv) (x : Nat) : Nat × FEnv :=
  let v := fread st.md f x
  match nanOf st.md f [v] with
  | some b => (b, st)
  | none =>
    let bad : Nat × FEnv := (canonNan f false, st.raise 16)
    match fn, v with
    | .exp2, .inf n => if n then (zeroBits f false, st) else infResult st f false
    | .exp2, .fin n m e => roundMag st f false (exp2Mag n m e)
    | .log2, .inf n => if n then bad else infResult st f false
    | .log2, .fin n m e =>
      if m = 0 then (infBits f true, st.raise 8)
      else if n then bad
      else if m = 2 ^ Nat.log2 m ∧ (Nat.log2 m : Int) + e = 0 then (zeroBits f false, st)
      else let (s, x) := log2Mag m e; roundMag st f s x
    | .rcp, .inf n => (zeroBits f n, st)
    | .rcp, .fin n m e =>
      if m = 0 then (infBits f n, st.raise 8) else roundMag st f n (rcpMag m e)
    | .rsq, .inf n => if n then bad else (zeroBits f false, st)
    | .rsq, .fin n m e =>
      if m = 0 then (infBits f n, st.raise 8) else if n then bad else roundMag st f false (rsqMag m e)
    | .sin, .inf _ => bad
    | .cos, .inf _ => bad
    | .sin, .fin n m e =>
      if m = 0 then (zeroBits f n, st) else let (s, x) := trigMag false n m e; roundMag st f s x
    | .cos, .fin n m e =>
      if m = 0 then (oneBits f false, st) else let (s, x) := trigMag true n m e; roundMag st f s x
    | .tanh, .inf n => (oneBits f n, st)
    | .tanh, .fin n m e => if m = 0 then (zeroBits f n, st) else roundMag st f n (tanhMag m e)
    | .sigm, .inf n => (if n then zeroBits f false else oneBits f false, st)
    | .sigm, .fin n m e => roundMag st f false (sigmMag n m e)
    | _, .nan .. => bad

end Sys2Proof.Machine
end

