-- ==== Sys2Proof/Machine/Vector.lean ====
section
/-!
DEFINITION. Short vectors: lanes, masks, VI, VF, VS, VR, VX and VDOT (R190, R193, R197, R200 to R210).
-/

namespace Sys2Proof.Machine

/-! Lanes (R200, R201). -/

/-- The elements of a register of n bits as a list, w bits each, the least significant first. -/
def lanesOf (w : Nat) : Nat → Nat → List Nat
  | 0, _ => []
  | n + 1, x => x % 2 ^ w :: lanesOf w n (x / 2 ^ w)

/-- Lanes packed into a register. -/
def packLanes (w : Nat) : List Nat → Nat
  | [] => 0
  | x :: xs => x % 2 ^ w + 2 ^ w * packLanes w xs

/-- A lane operation: x, y and the old lane z. -/
abbrev LaneOp := FEnv → Nat → Nat → Nat → Nat × FEnv

/-- Apply a lane operation in increasing lane number; an excluded lane keeps z (R190, R201). -/
def mapLanes (f : LaneOp) : List Bool → List Nat → List Nat → List Nat → FEnv → List Nat × FEnv
  | b :: bs, x :: xs, y :: ys, z :: zs, st =>
    let (r, st1) := if b then f st x y z else (z, st)
    let (rs, st2) := mapLanes f bs xs ys zs st1
    (r :: rs, st2)
  | _, _, _, _, st => ([], st)

/-- The first n bits of a mask. -/
def maskBits (k : W32) (n : Nat) : List Bool := (List.range n).map fun i => k.getLsbD i

/-- The environment of a short-vector operation: FMODE and LFSR as they stand at issue (R201). -/
def envNow (s : State) : FEnv := { md := s.ctx.user.fmode, lfsr := s.ctx.user.lfsr, flags := 0 }

/-- Keep the LFSR and OR the flags (R190). -/
def commitEnv (s : State) (st : FEnv) : State :=
  s.mod fun c => { c with user := { c.user with lfsr := st.lfsr } }.orFlags st.flags

/-- Write v[d] with the environment of the operation. -/
def writeV (s : State) (d : BitVec 5) (x : Nat) (st : FEnv) : State :=
  retire ((commitEnv s st).mod fun c => c.setV d (BitVec.ofNat 256 x))

/-- VLanes of R201 for lanes of w bits. -/
def vlanes (w : Nat) (f : LaneOp) (d a b : BitVec 5) (m : BitVec 3) (s : State) : State :=
  let n := 256 / w
  let c := s.ctx
  let (r, st) := mapLanes f (maskBits (c.k m) n) (lanesOf w n (c.v a).toNat) (lanesOf w n (c.v b).toNat)
    (lanesOf w n (c.v d).toNat) (envNow s)
  writeV s d (packLanes w r) st

/-- A compare: k[d] bit i is the mask bit and the condition; the bits at or above L are zero (R201). -/
def vcompare (w : Nat) (f : FEnv → Nat → Nat → Bool × FEnv) (d a b : BitVec 5) (m : BitVec 3) (s : State) :
    State :=
  let n := 256 / w
  let c := s.ctx
  let g : LaneOp := fun st x y _ => let (r, st1) := f st x y; (r.toNat, st1)
  let (r, st) := mapLanes g (maskBits (c.k m) n) (lanesOf w n (c.v a).toNat) (lanesOf w n (c.v b).toNat)
    (List.replicate n 0) (envNow s)
  retire ((commitEnv s st).mod fun c => c.setK (d.truncate 3) (BitVec.ofNat 32 (packLanes 1 r)))

/-! Integer lanes (R202). -/

/-- A pure lane operation. -/
def pureOp (f : Nat → Nat → Nat) : LaneOp := fun st x y _ => (f x y, st)

/-- The shift count of a lane: y[log2(w) - 1 : 0]. -/
def laneShift (w y : Nat) : Nat := y % w

/-- The result of an integer lane operation, by the name of its VI form. -/
inductive IntOp | add | sub | mul | mulh | min | max | and | or | xor | shl | shr | sar
  deriving DecidableEq, Repr

/-- R202's table. -/
def intLane (op : IntOp) (t : BitVec 3) (x y : Nat) : Nat :=
  let w := intWidth t
  let sx := readInt (intSigned t) w x
  let sy := readInt (intSigned t) w y
  match op with
  | .add => (x + y) % 2 ^ w
  | .sub => wrapN ((x : Int) - y) w
  | .mul => x * y % 2 ^ w
  | .mulh => wrapN (sx * sy / (2 ^ w : Nat)) w
  | .min => if sx ≤ sy then x else y
  | .max => if sx ≤ sy then y else x
  | .and => x &&& y
  | .or => x ||| y
  | .xor => x ^^^ y
  | .shl => x * 2 ^ laneShift w y % 2 ^ w
  | .shr => x / 2 ^ laneShift w y
  | .sar => wrapN (signedN x w / (2 ^ laneShift w y : Nat)) w

/-- A VI instruction. -/
def viOp (op : IntOp) (d a b : BitVec 5) (m t : BitVec 3) (s : State) : Host.Outcome State Fault Refusal :=
  .next (vlanes (intWidth t) (pureOp (intLane op t)) d a b m s)

/-- VADD (R202). -/
def execVadd (d a b : BitVec 5) (m t : BitVec 3) (s : State) : Host.Outcome State Fault Refusal := viOp .add d a b m t s

/-- VSUB (R202). -/
def execVsub (d a b : BitVec 5) (m t : BitVec 3) (s : State) : Host.Outcome State Fault Refusal := viOp .sub d a b m t s

/-- VMUL (R202). -/
def execVmul (d a b : BitVec 5) (m t : BitVec 3) (s : State) : Host.Outcome State Fault Refusal := viOp .mul d a b m t s

/-- VMULH (R202). -/
def execVmulh (d a b : BitVec 5) (m t : BitVec 3) (s : State) : Host.Outcome State Fault Refusal :=
  viOp .mulh d a b m t s

/-- VMIN (R202). -/
def execVmin (d a b : BitVec 5) (m t : BitVec 3) (s : State) : Host.Outcome State Fault Refusal := viOp .min d a b m t s

/-- VMAX (R202). -/
def execVmax (d a b : BitVec 5) (m t : BitVec 3) (s : State) : Host.Outcome State Fault Refusal := viOp .max d a b m t s

/-- VAND (R202). -/
def execVand (d a b : BitVec 5) (m t : BitVec 3) (s : State) : Host.Outcome State Fault Refusal := viOp .and d a b m t s

/-- VOR (R202). -/
def execVor (d a b : BitVec 5) (m t : BitVec 3) (s : State) : Host.Outcome State Fault Refusal := viOp .or d a b m t s

/-- VXOR (R202). -/
def execVxor (d a b : BitVec 5) (m t : BitVec 3) (s : State) : Host.Outcome State Fault Refusal := viOp .xor d a b m t s

/-- VSHL (R202). -/
def execVshl (d a b : BitVec 5) (m t : BitVec 3) (s : State) : Host.Outcome State Fault Refusal := viOp .shl d a b m t s

/-- VSHR (R202). -/
def execVshr (d a b : BitVec 5) (m t : BitVec 3) (s : State) : Host.Outcome State Fault Refusal := viOp .shr d a b m t s

/-- VSAR (R202). -/
def execVsar (d a b : BitVec 5) (m t : BitVec 3) (s : State) : Host.Outcome State Fault Refusal := viOp .sar d a b m t s

/-- VSEL: the k field names the selector; every lane is written (R202). -/
def execVsel (d a b : BitVec 5) (m t : BitVec 3) (s : State) : Host.Outcome State Fault Refusal :=
  let w := intWidth t
  let n := 256 / w
  let c := s.ctx
  let (r, st) := mapLanes (fun st x _ _ => (x, st)) (maskBits (c.k m) n) (lanesOf w n (c.v a).toNat)
    (List.replicate n 0) (lanesOf w n (c.v b).toNat) (envNow s)
  .next (writeV s d (packLanes w r) st)

/-- VABS saturates and sets OF (R202). -/
def execVabs (d a : BitVec 5) (m t : BitVec 3) (s : State) : Host.Outcome State Fault Refusal :=
  let w := intWidth t
  let f : LaneOp := fun st x _ _ =>
    let (r, st1) := satInt st true w ((signedN x w).natAbs : Int)
    (wrapN r w, st1)
  .next (vlanes w f d a a m s)

/-- An integer condition: 0 eq, 1 ne, 2 lt, 3 ge, 4 le, 5 gt (R202). -/
def intCond (cond : Nat) (t : BitVec 3) (x y : Nat) : Bool :=
  let w := intWidth t
  let sx := readInt (intSigned t) w x
  let sy := readInt (intSigned t) w y
  match cond with
  | 0 => decide (sx = sy)
  | 1 => decide (sx ≠ sy)
  | 2 => decide (sx < sy)
  | 3 => decide (sy ≤ sx)
  | 4 => decide (sx ≤ sy)
  | _ => decide (sy < sx)

/-- VCMP (R202). -/
def execVcmp (d a b : BitVec 5) (m t cond : BitVec 3) (s : State) : Host.Outcome State Fault Refusal :=
  .next (vcompare (intWidth t) (fun st x y => (intCond cond.toNat t x y, st)) d a b m s)

/-! Floating lanes (R203). -/

/-- The sign of a value inverted, a NaN as it is. -/
def negNum : FVal → FVal
  | .nan n m => .nan n m
  | v => v.flip

/-- The floating lane operations of R203. -/
inductive FltOp | add | sub | mul | fma | fms | min | max | abs | neg
  deriving DecidableEq, Repr

/-- The sign bit cleared, or inverted, of an element read under FTZ; the payload of a NaN stays (R203). -/
def signLane (md : Word) (f : FFmt) (invert : Bool) (x : Nat) : Nat :=
  let neg := x.testBit (f.width - 1)
  let mag := match fread md f x with
    | .fin _ 0 _ => 0
    | _ => x % 2 ^ (f.width - 1)
  mag + (if invert && !neg then 2 ^ (f.width - 1) else 0)

/-- R203's table. -/
def fltLane (op : FltOp) (f : FFmt) : LaneOp := fun st x y z =>
  let fx := fread st.md f x
  let fy := fread st.md f y
  let fz := fread st.md f z
  match op with
  | .add => fadd st f fx fy
  | .sub => fadd st f fx (negNum fy)
  | .mul => fmul st f fx fy
  | .fma => ffma st f fx fy fz
  | .fms => ffma st f fx fy (negNum fz)
  | .min => fminmax st f false fx fy
  | .max => fminmax st f true fx fy
  | .abs => (signLane st.md f false x, st)
  | .neg => (signLane st.md f true x, st)

/-- A VF instruction. -/
def vfOp (op : FltOp) (d a b : BitVec 5) (m t : BitVec 3) (s : State) : Host.Outcome State Fault Refusal :=
  .next (vlanes (fmtOf t).width (fltLane op (fmtOf t)) d a b m s)

/-- VFADD (R203). -/
def execVfadd (d a b : BitVec 5) (m t : BitVec 3) (s : State) : Host.Outcome State Fault Refusal := vfOp .add d a b m t s

/-- VFSUB (R203). -/
def execVfsub (d a b : BitVec 5) (m t : BitVec 3) (s : State) : Host.Outcome State Fault Refusal := vfOp .sub d a b m t s

/-- VFMUL (R203). -/
def execVfmul (d a b : BitVec 5) (m t : BitVec 3) (s : State) : Host.Outcome State Fault Refusal := vfOp .mul d a b m t s

/-- VFMA (R203). -/
def execVfma (d a b : BitVec 5) (m t : BitVec 3) (s : State) : Host.Outcome State Fault Refusal := vfOp .fma d a b m t s

/-- VFMS (R203). -/
def execVfms (d a b : BitVec 5) (m t : BitVec 3) (s : State) : Host.Outcome State Fault Refusal := vfOp .fms d a b m t s

/-- VFMIN (R203). -/
def execVfmin (d a b : BitVec 5) (m t : BitVec 3) (s : State) : Host.Outcome State Fault Refusal := vfOp .min d a b m t s

/-- VFMAX (R203). -/
def execVfmax (d a b : BitVec 5) (m t : BitVec 3) (s : State) : Host.Outcome State Fault Refusal := vfOp .max d a b m t s

/-- VFABS (R203). -/
def execVfabs (d a : BitVec 5) (m t : BitVec 3) (s : State) : Host.Outcome State Fault Refusal := vfOp .abs d a a m t s

/-- VFNEG (R203). -/
def execVfneg (d a : BitVec 5) (m t : BitVec 3) (s : State) : Host.Outcome State Fault Refusal := vfOp .neg d a a m t s

/-- VFCMP (R203). -/
def execVfcmp (d a b : BitVec 5) (m t cond : BitVec 3) (s : State) : Host.Outcome State Fault Refusal :=
  let f := fmtOf t
  .next (vcompare f.width (fun st x y => fcond st cond.toNat (fread st.md f x) (fread st.md f y)) d a b m s)

/-! VS (R204). -/

/-- A VS instruction. -/
def vsOp (fn : TransFn) (d a : BitVec 5) (m t : BitVec 3) (s : State) : Host.Outcome State Fault Refusal :=
  .next (vlanes (fmtOf t).width (fun st x _ _ => transLane fn (fmtOf t) st x) d a a m s)

/-- VEXP2 (R204). -/
def execVexp2 (d a : BitVec 5) (m t : BitVec 3) (s : State) : Host.Outcome State Fault Refusal := vsOp .exp2 d a m t s

/-- VLOG2 (R204). -/
def execVlog2 (d a : BitVec 5) (m t : BitVec 3) (s : State) : Host.Outcome State Fault Refusal := vsOp .log2 d a m t s

/-- VRCP (R204). -/
def execVrcp (d a : BitVec 5) (m t : BitVec 3) (s : State) : Host.Outcome State Fault Refusal := vsOp .rcp d a m t s

/-- VRSQ (R204). -/
def execVrsq (d a : BitVec 5) (m t : BitVec 3) (s : State) : Host.Outcome State Fault Refusal := vsOp .rsq d a m t s

/-- VSIN (R204). -/
def execVsin (d a : BitVec 5) (m t : BitVec 3) (s : State) : Host.Outcome State Fault Refusal := vsOp .sin d a m t s

/-- VCOS (R204). -/
def execVcos (d a : BitVec 5) (m t : BitVec 3) (s : State) : Host.Outcome State Fault Refusal := vsOp .cos d a m t s

/-- VTANH (R204). -/
def execVtanh (d a : BitVec 5) (m t : BitVec 3) (s : State) : Host.Outcome State Fault Refusal := vsOp .tanh d a m t s

/-- VSIGM (R204). -/
def execVsigm (d a : BitVec 5) (m t : BitVec 3) (s : State) : Host.Outcome State Fault Refusal := vsOp .sigm d a m t s

/-! Reductions (R197, R205). -/

/-- One level of the tree of R197: an absent member passes the other through. -/
def treeLevel {α : Type} (f : FEnv → α → α → α × FEnv) : List (Option α) → FEnv → List (Option α) × FEnv
  | some x :: some y :: rest, st =>
    let (r, st1) := f st x y
    let (rs, st2) := treeLevel f rest st1
    (some r :: rs, st2)
  | some x :: none :: rest, st => let (rs, st1) := treeLevel f rest st; (some x :: rs, st1)
  | none :: y :: rest, st => let (rs, st1) := treeLevel f rest st; (y :: rs, st1)
  | [x], st => ([x], st)
  | [], st => ([], st)

/-- The tree of R197, level by level, until one element is left. -/
def tree {α : Type} (f : FEnv → α → α → α × FEnv) : Nat → List (Option α) → FEnv → Option α × FEnv
  | 0, xs, st => (xs.head?.join, st)
  | n + 1, xs, st =>
    match xs with
    | [] => (none, st)
    | [x] => (x, st)
    | xs => let (ys, st1) := treeLevel f xs st; tree f n ys st1

/-- The reductions of VR and QR. -/
inductive RedOp | sum | max | min
  deriving DecidableEq, Repr

/-- An element as it is read: a subnormal under FTZ is the zero of its sign (R187). -/
def readBits (md : Word) (f : FFmt) (x : Nat) : Nat :=
  if (fread md f x).isZero then zeroBits f (fread md f x).neg else x

/-- A floating reduction: the bits of one element (R187, R205). -/
def redFloat (op : RedOp) (f : FFmt) (lanes : List (Option Nat)) (st : FEnv) : Nat × FEnv :=
  let xs := lanes.map fun x => x.map (readBits st.md f)
  let g : FEnv → Nat → Nat → Nat × FEnv := fun st x y =>
    match op with
    | .sum => fadd st f (fread st.md f x) (fread st.md f y)
    | .max => fminmax st f true (fread st.md f x) (fread st.md f y)
    | .min => fminmax st f false (fread st.md f x) (fread st.md f y)
  let (r, st1) := tree g 16 xs st
  (r.getD 0, st1)

/-- An integer reduction: 64 bits; a sum saturates and sets OF (R205). -/
def redInt (op : RedOp) (t : BitVec 3) (xs : List (Option Nat)) (st : FEnv) : Nat × FEnv :=
  let ys : List (Option Int) := xs.map fun x => x.map fun v => readInt (intSigned t) (intWidth t) v
  let g : FEnv → Int → Int → Int × FEnv := fun st x y =>
    match op with
    | .sum => (x + y, st)
    | .max => (max x y, st)
    | .min => (min x y, st)
  let (r, st1) := tree g 16 ys st
  let (v, st2) := match op with
    | .sum => satInt st1 (intSigned t) 64 (r.getD 0)
    | _ => (r.getD 0, st1)
  (wrapN v 64, st2)

/-- A reduction of either table. -/
def reduce (op : RedOp) (t : BitVec 3) (int : BitVec 1) (xs : List (Option Nat)) (st : FEnv) : Nat × FEnv :=
  if int = 1 then redInt op t xs st else redFloat op (fmtOf t) xs st

/-- The element width of a reduction. -/
def redWidth (t : BitVec 3) (int : BitVec 1) : Nat := if int = 1 then intWidth t else (fmtOf t).width

/-- A VR instruction: all of v[d] is written (R205). -/
def vrOp (op : RedOp) (d a : BitVec 5) (m t : BitVec 3) (int : BitVec 1) (s : State) :
    Host.Outcome State Fault Refusal :=
  let w := redWidth t int
  let n := 256 / w
  let xs := ((lanesOf w n (s.ctx.v a).toNat).zip (maskBits (s.ctx.k m) n)).map fun p =>
    if p.2 then some p.1 else none
  let (r, st) := reduce op t int xs (envNow s)
  .next (writeV s d r st)

/-- VRSUM (R205). -/
def execVrsum (d a : BitVec 5) (m t : BitVec 3) (int : BitVec 1) (s : State) : Host.Outcome State Fault Refusal :=
  vrOp .sum d a m t int s

/-- VRMAX (R205). -/
def execVrmax (d a : BitVec 5) (m t : BitVec 3) (int : BitVec 1) (s : State) : Host.Outcome State Fault Refusal :=
  vrOp .max d a m t int s

/-- VRMIN (R205). -/
def execVrmin (d a : BitVec 5) (m t : BitVec 3) (int : BitVec 1) (s : State) : Host.Outcome State Fault Refusal :=
  vrOp .min d a m t int s

/-! VX (R206 to R209). -/

/-- Convert one element: classes (true integer) and codes (R189). -/
def convert (st : FEnv) (si : Bool) (sc : BitVec 3) (di : Bool) (dc : BitVec 3) (x : Nat) : Nat × FEnv :=
  match si, di with
  | false, false => floatToFloat st (fmtOf sc) (fmtOf dc) (fread st.md (fmtOf sc) x)
  | false, true =>
    let (v, st1) := floatToInt st (decide (fmtOf sc ≠ .e2m1)) (intSigned dc) (intWidth dc) (fread st.md (fmtOf sc) x)
    (wrapN v (intWidth dc), st1)
  | true, false =>
    let (b, st1) := intToFloat st (fmtOf dc) (readInt (intSigned sc) (intWidth sc) x)
    (if fmtOf dc = .e2m1 ∧ b = 8 then 0 else b, st1)
  | true, true =>
    let (v, st1) := satInt st (intSigned dc) (intWidth dc) (readInt (intSigned sc) (intWidth sc) x)
    (wrapN v (intWidth dc), st1)

/-- The width of a type by class and code. -/
def typeWidth (int : Bool) (c : BitVec 3) : Nat := if int then intWidth c else (fmtOf c).width

/-- Convert a register of n bits: L is the smaller lane count, and bits above element L - 1 are zero (R207). -/
def convertLanes (n : Nat) (mask : Nat → Bool) (src : BitVec 5) (t : BitVec 3) (a d : Nat) (st : FEnv) :
    Nat × FEnv :=
  let di := src.getLsbD 4
  let si := src.getLsbD 3
  let sc : BitVec 3 := src.truncate 3
  let ws := typeWidth si sc
  let wd := typeWidth di t
  let l := min (n / ws) (n / wd)
  let (r, st1) := mapLanes (fun st x _ _ => convert st si sc di t x) ((List.range l).map mask)
    (lanesOf ws l a) (List.replicate l 0) (lanesOf wd l d) st
  (packLanes wd r, st1)

/-- VCVT (R207); with 64 lanes a mask bit governs two (R201). -/
def execVcvt (d a src : BitVec 5) (m t : BitVec 3) (s : State) : Host.Outcome State Fault Refusal :=
  let k := s.ctx.k m
  let wide := typeWidth (src.getLsbD 4) t == 4 && typeWidth (src.getLsbD 3) (src.truncate 3) == 4
  let (r, st) := convertLanes 256 (fun j => k.getLsbD (if wide then j / 2 else j)) src t (s.ctx.v a).toNat
    (s.ctx.v d).toNat (envNow s)
  .next (writeV s d r st)

/-- ⌊log2⌋ of a nonzero m × 2^e. -/
def ilog (m : Nat) (e : Int) : Int := (Nat.log2 m : Int) + e

/-- Is m × 2^e at most m2 × 2^e2? -/
def magLe (m : Nat) (e : Int) (m2 : Nat) (e2 : Int) : Bool :=
  let lo := min e e2
  decide (m * 2 ^ (e - lo).toNat ≤ m2 * 2 ^ (e2 - lo).toNat)

/-- The largest magnitude of some finite values. -/
def amaxOf : List FVal → Nat × Int
  | [] => (0, 0)
  | .fin _ m e :: rest =>
    let (m2, e2) := amaxOf rest
    if magLe m e m2 e2 then (m2, e2) else (m, e)
  | _ :: rest => amaxOf rest

/-- emax of R193. -/
def quantEmax (f : FFmt) : Int := match f with
  | .e4m3 => 8
  | .e5m2 => 15
  | _ => 2

/-- The exponent X of a block (R193). -/
def quantExp (md : Word) (f : FFmt) (m : Nat) (e : Int) : Int :=
  let x : Int :=
    if m = 0 then 0
    else if fld md 12 2 = 0 then ilog m e - quantEmax f
    else
      let k := ilog m e - ilog f.maxN f.maxQ
      if magLe m e f.maxN (f.maxQ + k) then k else k + 1
  min 127 (max (-127) x)

/-- Round each x_j / 2^X into the format; a zero is 0b0000 in E2M1S (R193). -/
def quantAll (f : FFmt) (X : Int) : List FVal → FEnv → List Nat × FEnv
  | [], st => ([], st)
  | .fin n m e :: rest, st =>
    let (b, st1) := fround st f n m (e - X) false
    let (bs, st2) := quantAll f X rest st1
    ((if f = .e2m1 ∧ b = 8 then 0 else b) :: bs, st2)
  | _ :: rest, st => let (bs, st1) := quantAll f X rest st; (0 :: bs, st1)

/-- |x / 2^X - q| as an exact magnitude. -/
def quantErr (X : Int) (x : FVal) (q : Nat) : Nat × Int :=
  match x, fread 0 .e2m1 q with
  | .fin n m e, .fin n2 m2 e2 =>
    let (v, lo) := exactSum [(n, m, e - X), (!n2, m2, e2)]
    (v.natAbs, lo)
  | _, _ => (0, 0)

/-- The lowest j with the largest error. -/
def worstErr (X : Int) : List FVal → List Nat → Option (FVal × Nat × Int)
  | x :: xs, q :: qs =>
    let (m, e) := quantErr X x q
    match worstErr X xs qs with
    | none => some (x, m, e)
    | some (x2, m2, e2) => if magLe m2 e2 m e then some (x, m, e) else some (x2, m2, e2)
  | _, _ => none

/-- RoundRNE(x / 2^X, E4M3), saturated to ±448: no flag of it is kept (R193). -/
def spareOf (X : Int) (x : FVal) : Nat :=
  match x with
  | .fin n m e => (froundRne { md := 0, lfsr := 0, flags := 0 } .e4m3 n m (e - X)).1
  | _ => 0

/-- Quantise (R193): the codes, the scale and the spare. -/
def quantise (st : FEnv) (f : FFmt) (xs : List FVal) : List Nat × Nat × Nat × FEnv :=
  let finite (v : FVal) : Bool := match v with
    | .fin .. => true
    | _ => false
  if !xs.all finite then (xs.map fun _ => 0, 255, 0, st.raise 16)
  else
    let (am, ae) := amaxOf xs
    let X := quantExp st.md f am ae
    let (qs, st1) := quantAll f X xs st
    let scale := (X + 127).toNat
    if f = .e2m1 ∧ st.md.getLsbD 14 then
      match worstErr X xs qs with
      | some (x, m, _) =>
        let p := spareOf X x
        if m = 0 ∨ p = 0 ∨ p = 0x80 then (qs, scale, 0, st1)
        else ((xs.zip qs).map (fun z => if spareOf X z.1 = p then 8 else z.2), scale, p, st1)
      | none => (qs, scale, 0, st1)
    else (qs, scale, 0, st1)

/-- VQNT: under the copy of FMODE and the seed of R191 (R208). -/
def execVqnt (d a f : BitVec 5) (t : BitVec 3) (s : State) : Host.Outcome State Fault Refusal :=
  let c := s.ctx
  let xs := ((List.range 4).flatMap fun i => lanesOf 32 8 (c.v (a + BitVec.ofNat 5 i)).toNat).map
    (fread c.user.fmode .fp32)
  let (qs, scale, spare, st) := quantise (envNow s) (fmtOf t) xs
  let s1 := commitEnv s { st with lfsr := lfsrStep c.user.lfsr }
  .next (retire (s1.mod fun c =>
    (c.setV d (BitVec.ofNat 256 (packLanes (fmtOf t).width qs))).setF f (BitVec.ofNat 64 (scale + 256 * spare))))

/-- Dequantise the elements of a block in order (R209). -/
def dequantAll (f : FFmt) (sc spare : Nat) : List Nat → FEnv → List Nat × FEnv
  | [], st => ([], st)
  | q :: qs, st =>
    let v := if f = .e2m1 then valE2m1s q spare else fread st.md f q
    let (b, st1) :=
      if sc = 255 then (canonNan .fp32 false, st)
      else match v with
        | .nan n m => ((nanOf st.md .fp32 [.nan n m]).getD 0, st)
        | .inf n => infResult st .fp32 n
        | .fin n m e => fround st .fp32 n m (e + ((sc : Int) - 127)) false
    let (bs, st2) := dequantAll f sc spare qs st1
    (b :: bs, st2)

/-- VDQ (R209). -/
def execVdq (d a f : BitVec 5) (t : BitVec 3) (s : State) : Host.Outcome State Fault Refusal :=
  let c := s.ctx
  let fmt := fmtOf t
  let x := c.f f
  let (ys, st) := dequantAll fmt (fld x 0 8) (fld x 8 8) (lanesOf fmt.width 32 (c.v a).toNat) (envNow s)
  let part (i : Nat) : VReg := BitVec.ofNat 256 (packLanes 32 ((ys.drop (8 * i)).take 8))
  .next (retire ((commitEnv s st).mod fun c =>
    (((c.setV d (part 0)).setV (d + 1) (part 1)).setV (d + 2) (part 2)).setV (d + 3) (part 3)))

/-- VSHUF (R206). -/
def execVshuf (d a b : BitVec 5) (m t : BitVec 3) (s : State) : Host.Outcome State Fault Refusal :=
  let w := intWidth t
  let n := 256 / w
  let xs := lanesOf w n (s.ctx.v a).toNat
  .next (vlanes w (fun st _ y _ => (xs.getD (y % n) 0, st)) d a b m s)

/-- VPERM (R206). -/
def execVperm (d a b : BitVec 5) (m t : BitVec 3) (s : State) : Host.Outcome State Fault Refusal :=
  let w := intWidth t
  let n := 256 / w
  let xs := lanesOf w n (s.ctx.v a).toNat ++ lanesOf w n (s.ctx.v d).toNat
  .next (vlanes w (fun st _ y _ => (xs.getD (y % (2 * n)) 0, st)) d a b m s)

/-- VBC (R206). -/
def execVbc (d a : BitVec 5) (m t : BitVec 3) (s : State) : Host.Outcome State Fault Refusal :=
  let w := intWidth t
  let x := (gv s a).toNat % 2 ^ w
  .next (vlanes w (fun st _ _ _ => (x, st)) d 0 0 m s)

/-- VEXT (R206). -/
def execVext (d a lane : BitVec 5) (t : BitVec 3) (s : State) : Host.Outcome State Fault Refusal :=
  let w := intWidth t
  .next (retire (wg s d (sextN (BitVec.ofNat 64 (nfld (s.ctx.v a).toNat (w * lane.toNat) w)) w)))

/-- VINS (R206). -/
def execVins (d a lane : BitVec 5) (t : BitVec 3) (s : State) : Host.Outcome State Fault Refusal :=
  let w := intWidth t
  .next (retire (s.mod fun c =>
    c.setV d (BitVec.ofNat 256 (setFld (c.v d).toNat (w * lane.toNat) w (gv s a).toNat))))

/-- VMOVK (R206). -/
def execVmovk (d a : BitVec 5) (s : State) : Host.Outcome State Fault Refusal :=
  .next (retire (s.mod fun c => c.setK (d.truncate 3) ((gv s a).truncate 32)))

/-! Dot products (R194, R210). -/

/-- The element types of the A and B sides of a format pair (R118, R210). -/
def pairFmt (p : BitVec 3) : FFmt × FFmt :=
  match p.toNat with
  | 0 => (.e2m1, .e2m1)
  | 1 => (.e4m3, .e4m3)
  | 2 => (.e5m2, .e5m2)
  | 3 => (.e4m3, .e2m1)
  | 4 => (.bf16, .bf16)
  | 6 => (.fp32, .fp32)
  | _ => (.fp64, .fp64)

/-- The elements of one dot product. -/
def pairCount (p : BitVec 3) : Nat :=
  match p.toNat with
  | 4 => 16
  | 6 => 8
  | 7 => 4
  | _ => 32

/-- An element as a value, E2M1S with its spare (R179). -/
def elemVal (md : Word) (f : FFmt) (spare x : Nat) : FVal :=
  if f = .e2m1 then valE2m1s x spare else fread md f x

/-- The accumulator width of a format pair. -/
def accWidth (p : BitVec 3) : Nat := if p = 7 then 64 else 32

/-- One dot product of R210 on 256-bit operands with a mask, added into an accumulator. -/
def dotOne (p : BitVec 3) (mask : List Bool) (a b acc : Nat) (fa fb : Word) (st : FEnv) : Nat × FEnv :=
  let n := pairCount p
  if p = 5 then
    let xs := (lanesOf 8 n a).map fun x => signedN x 8
    let ys := (lanesOf 8 n b).map fun x => signedN x 8
    let keep : List Int := (mask.zip xs).map fun q => if q.1 then q.2 else 0
    let (v, st1) := satInt st true 32 (signedN acc 32 + dotInt keep ys)
    (wrapN v 32, st1)
  else
    let (fmA, fmB) := pairFmt p
    let scaled := decide (p.toNat < 4)
    let xs := (lanesOf fmA.width n a).map (elemVal st.md fmA (fld fa 8 8))
    let ys := (lanesOf fmB.width n b).map (elemVal st.md fmB (fld fb 8 8))
    let zero : FVal := .fin false 0 0
    let pairs := (mask.zip (xs.zip ys)).map fun q => if q.1 then q.2 else (zero, zero)
    dot (if p = 7 then .fp64 else .fp32)
      [{ xs := pairs, sa := if scaled then fld fa 0 8 else 127, sb := if scaled then fld fb 0 8 else 127 }] acc st

/-- VDOT (R210). -/
def execVdot (p : BitVec 3) (d a b : BitVec 5) (c : BitVec 4) (m : BitVec 3) (s : State) :
    Host.Outcome State Fault Refusal :=
  let x := s.ctx
  let w := accWidth p
  let (r, st) := dotOne p (maskBits (x.k m) (pairCount p)) (x.v a).toNat (x.v b).toNat ((x.v d).toNat % 2 ^ w)
    (x.f (c.zeroExtend 5)) (x.f (c.zeroExtend 5 + 1)) (envNow s)
  .next (writeV s d (setFld (x.v d).toNat 0 w r) st)

end Sys2Proof.Machine
end

