-- ==== Sys2Proof/Machine/Matrix.lean ====
section
/-!
DEFINITION. The matrix engine: B tiles, MXB, MXA, MXJ, MXCAP, MXST and compute jobs (R195, R284 to R295).
-/

namespace Sys2Proof.Machine

/-! Formats (R180, R285 to R287). -/

/-- Bits of an element by format code. -/
def codeBits (code : Nat) : Nat :=
  match code with
  | 3 => 16
  | 7 => 4
  | _ => 8

/-- Bytes of a scale record by format code (R286). -/
def codeScale (code : Nat) : Nat :=
  match code with
  | 7 => 2
  | 5 | 6 => 1
  | _ => 0

/-- The format code of the A side of a major, by its number minus 0x28. -/
def aCode (p : Nat) : Nat :=
  match p with
  | 0 => 7 | 1 => 5 | 2 => 6 | 3 => 5 | 4 => 3 | _ => 8

/-- The format code of the B side. -/
def bCode (p : Nat) : Nat := if p = 3 then 7 else aCode p

/-- The width W of a side (R195). -/
def cimWidth (code : Nat) : Nat :=
  match code with
  | 7 => 4
  | 3 => 16
  | _ => 8

/-- The bytes of KB blocks with their scale records (R286). -/
def lineBytes (code kb : Nat) : Nat := kb * (4 * codeBits code) + kb * codeScale code

/-- A block of 32 elements: their values, or integers for i8, and the scale byte. -/
structure MBlock where
  vals : List FVal
  ints : List Int
  scale : Nat

/-- Block b of a line (R180, R286). -/
def lineBlock (md : Word) (code kb b : Nat) (bytes : List Byte) : MBlock :=
  let eb := 4 * codeBits code
  let sb := codeScale code
  let elems := lanesOf (codeBits code) 32 (natLE ((bytes.drop (eb * b)).take eb))
  let sc := (bytes.drop (eb * kb + sb * b)).take sb
  { vals := match fmtOfCode code with
      | some f => elems.map (elemVal md f (if sb = 2 then (sc.getD 1 0).toNat else 0))
      | none => []
    ints := elems.map fun x => signedN x 8
    scale := if sb = 0 then 127 else (sc.headD 0).toNat }

/-- The blocks of a line. -/
def lineBlocks (md : Word) (code kb : Nat) (bytes : List Byte) : List MBlock :=
  (List.range kb).map fun b => lineBlock md code kb b bytes

/-! The computation (R195, R288). -/

/-- The changes that errors of the array make in one row: column, block, and what is added to the block sum (R399). -/
abbrev SumErrs := List (Nat × Nat × Int)

/-- The change of one block sum. -/
def sumErrAt (errs : SumErrs) (col blk : Nat) : Int :=
  errs.foldl (fun x e => if e.1 = col ∧ e.2.1 = blk then x + e.2.2 else x) 0

/-- The blocks of one row and one column into one element of C; the seed steps once per add (R288). -/
def cimElem (p : Nat) (sja sjb : Int) (errs : SumErrs) (col : Nat) :
    Nat → List MBlock → List MBlock → Nat → FEnv → Nat × FEnv
  | blk, a :: as, b :: bs, c, st =>
    if p = 5 then
      let (v, st1) := satInt st true 32 (signedN c 32 + (dotInt a.ints b.ints + sumErrAt errs col blk))
      cimElem p sja sjb errs col (blk + 1) as bs (wrapN v 32) st1
    else
      let (x, st1) := cimBlock st (cimWidth (aCode p)) (cimWidth (bCode p)) a.vals b.vals
        ((a.scale : Int) + sja - 254) ((b.scale : Int) + sjb - 254) (a.scale == 255 || b.scale == 255)
        (sumErrAt errs col blk)
      let (r, st2) := addBlock st1 .fp32 c x
      cimElem p sja sjb errs col (blk + 1) as bs r st2
  | _, _, _, c, st => (c, st)

/-- A row of C. -/
def cimRow (p : Nat) (sja sjb : Int) (errs : SumErrs) (a : List MBlock) :
    Nat → List (List MBlock) → List Nat → FEnv → List Nat × FEnv
  | n, col :: cols, c :: cs, st =>
    let (r, st1) := cimElem p sja sjb errs n 0 a col c st
    let (rs, st2) := cimRow p sja sjb errs a (n + 1) cols cs st1
    (r :: rs, st2)
  | _, _, _, st => ([], st)

/-! Residues (R399). -/

/-- The aligned magnitudes of a block pair with their signs; none where the block has no sum of R195. -/
def alignedPair (p : Nat) (a b : MBlock) : Option (List Int × List Int) :=
  let finite (v : FVal) : Bool := match v with | .fin .. => true | _ => false
  if p = 5 then some (a.ints, b.ints)
  else if a.scale ≠ 255 ∧ b.scale ≠ 255 ∧ a.vals.all finite ∧ b.vals.all finite then
    some ((align (cimWidth (aCode p)) a.vals).2, (align (cimWidth (bCode p)) b.vals).2)
  else none

/-- The residue modulo 127 of a block sum, from the residues of the aligned magnitudes. -/
def blockResidue (ma mb : List Int) : Int := dotInt (ma.map (· % 127)) (mb.map (· % 127)) % 127

/-- Does the residue of a block sum that the array computed with a change differ from the one computed beside it? Only a
changed sum can. -/
def residueBad (p : Nat) (a b : MBlock) (change : Int) : Bool :=
  (alignedPair p a b).any fun m => (dotInt m.1 m.2 + change) % 127 != blockResidue m.1 m.2

/-- Does a residue check of a row fail? -/
def rowResidueBad (p : Nat) (a : List MBlock) (cols : List (List MBlock)) (errs : SumErrs) : Bool :=
  errs.any fun e => match a[e.2.1]?, (cols[e.1]?).bind (·[e.2.1]?) with
    | some x, some y => residueBad p x y (sumErrAt errs e.1 e.2.1)
    | _, _ => false

/-! Job words (R287). -/

/-- M. -/
def jwRows (jw : Word) : Nat := fld jw 56 8 + 1

/-- CSTR. -/
def jwC (jw : Word) : Nat := fld jw 40 8

/-- ASTR. -/
def jwA (jw : Word) : Nat := fld jw 32 8

/-- COFF. -/
def jwOff (jw : Word) : Nat := fld jw 0 21

/-- Row r of A. -/
def rowA (aaddr jw : Word) (r : Nat) : Word := aaddr + BitVec.ofNat 64 (64 * jwA jw * r)

/-- Row r of C, in the own cluster's scratchpad. -/
def rowC (jw : Word) (r : Nat) : Word := BitVec.ofNat 64 (2 ^ 56 + jwOff jw + 64 * jwC jw * r)

/-! The checks at issue (R289). -/

/-- The KB and N of the tile a job issued now will use: the latest MXB before it, else the bank a swap would
leave as CUR (R290). -/
def tileAhead (s : State) : Option (Nat × Nat) :=
  match (s.cluster.jobs.filter Job.isMxb).getLast? with
  | some j => match j.op with
    | .mxb _ shape => some (fld shape 34 4 + 1, fld shape 38 10 + 1)
    | _ => none
  | none => (if s.cluster.swapDue then s.cluster.next else s.cluster.cur).map fun t => (t.kb, t.n)

/-- Last offset of the A span and of the C span, in the scratchpad. -/
def jobEnds (p : Nat) (aaddr jw : Word) (tile : Option (Nat × Nat)) : Nat × Nat :=
  let (kb, n) := tile.getD (1, 1)
  (fld aaddr 0 21 + 64 * jwA jw * (jwRows jw - 1) + lineBytes (aCode p) kb - 1,
    jwOff jw + 64 * jwC jw * (jwRows jw - 1) + 4 * n - 1)

/-- The first check of R289 that a job fails, as its detail. -/
def jobRefusal (s : State) (p : Nat) (aaddr jw : Word) : Option Nat :=
  let ap := fld aaddr 56 8
  let tile := tileAhead s
  let (aend, cend) := jobEnds p aaddr jw tile
  let mbz := (ap == 1 && fld aaddr 21 35 != 0) || (ap == 2 && fld aaddr 31 25 != 0)
  if fld jw 48 8 ≠ 0 ∨ fld jw 21 11 ≠ 0 ∨ jwC jw = 0 ∨ jwA jw = 0 ∨ mbz
      ∨ (tile.any fun t => decide (64 * jwC jw < 4 * t.2)) then some 9
  else if fld aaddr 0 6 ≠ 0 ∨ fld jw 0 6 ≠ 0 then some 1
  else if !(ap == 1 || (ap == 2 && fld aaddr 21 35 == myCluster s)) ∨ 0x17FA00 ≤ aend ∨ 0x17FA00 ≤ cend then some 2
  else if fld aaddr 0 21 ≤ cend ∧ jwOff jw ≤ aend then some 8
  else none

/-- The locks of a job: a read lock on A, a write lock on C (R289). -/
def jobLocks (s : State) (p : Nat) (aaddr jw : Word) : List (Word × Word × Bool) :=
  let (aend, cend) := jobEnds p aaddr jw (tileAhead s)
  let a : Int := aaddr.toNat
  let c : Int := (rowC jw 0).toNat
  [spanLock s (a, a + (aend - fld aaddr 0 21 : Nat)) false, spanLock s (c, c + (cend - jwOff jw : Nat)) true]

/-! Issue. -/

/-- MXST answers for the latest matrix job of a token (R294). -/
def recordMx (s : State) (d : BitVec 5) (id : Nat) : State :=
  s.modAct s.core.cur fun a => { a with mxJobs := (a.mxJobs.filter fun j => j.1 != d) ++ [(d, id, 0)] }

/-- A matrix operation that fails at issue. -/
def failMx (d : BitVec 5) (status detail : Nat) (s : State) : State :=
  failToken (s.modAct s.core.cur fun a => { a with mxJobs := a.mxJobs.filter fun j => j.1 != d }) d status detail

/-- A compute job at issue (R287 to R289). -/
def issueCompute (d : BitVec 5) (p : Nat) (aaddr jw : Word) (sa sb : BitVec 8) (s : State) : State :=
  match jobRefusal s p aaddr jw with
  | some detail => failMx d 1 detail s
  | none =>
    if lockRoom s < 2 then stall s
    else stepLfsr (recordMx (queueJob s d (.compute (BitVec.ofNat 6 (0x28 + p)) aaddr jw sa sb)
      (jobLocks s p aaddr jw) .computeJobStart) d s.core.ids)

/-- MXA (R287): the job scales are 127 for PBB and PII. -/
def execMxa (p : BitVec 3) (d a b : BitVec 5) (c : BitVec 4) (s : State) : Host.Outcome State Fault Refusal :=
  let sc (r : BitVec 5) : BitVec 8 := if p.toNat < 4 then (s.ctx.f r).truncate 8 else 127
  .next (if jobStall s then stall s
    else issueCompute d p.toNat (gv s a) (gv s b) (sc (c.zeroExtend 5)) (sc (c.zeroExtend 5 + 1)) s)

/-- Does an MXJ descriptor keep its map (R291)? -/
def mxjFormat (x : Nat) : Bool :=
  let major := nfld x 160 8
  nfld x 168 88 == 0 && decide (0x28 ≤ major) && decide (major ≤ 0x2D) && nfld x 152 8 == 0 && nfld x 136 8 == 0
    && (decide (major < 0x2C) || (nfld x 144 8 == 0x7F && nfld x 128 8 == 0x7F))

/-- Read an MXJ descriptor and go on with it (R291). -/
def withMxj (d : BitVec 5) (ea : Word) (s : State) (k : Nat → State → State) : State :=
  if ea.toNat % 32 ≠ 0 then failMx d 1 1 s
  else match engReadNow s ea 32 with
    | .fault s1 c _ => failMx d (engDetail c).1 (engDetail c).2 s1
    | .held s1 => stall s1
    | .ok s1 x => if mxjFormat x then k x s1 else failMx d 1 9 s1

/-- The compute job of a descriptor. -/
def issueMxj (d : BitVec 5) (x : Nat) (s : State) : State :=
  issueCompute d (nfld x 160 8 - 0x28) (BitVec.ofNat 64 (nfld x 0 64)) (BitVec.ofNat 64 (nfld x 64 64))
    (BitVec.ofNat 8 (nfld x 128 8)) (BitVec.ofNat 8 (nfld x 144 8)) s

/-- MXJ (R291). -/
def execMxj (d a : BitVec 5) (s : State) : Host.Outcome State Fault Refusal :=
  .next (if jobStall s then stall s else withMxj d (gv s a) s (issueMxj d))

/-- Does the shape of an MXB keep its map (R286)? -/
def mxbFormat (shape : Word) : Bool :=
  let fmt := fld shape 16 8
  fld shape 48 16 != 0 && decide (fld shape 38 10 < 640) && fld shape 24 10 == 0 && fld shape 0 16 == 0
    && (fmt == 3 || fmt == 5 || fmt == 6 || fmt == 7 || fmt == 8)

/-- The bytes of a column. -/
def mxbColumn (shape : Word) : Nat := lineBytes (fld shape 16 8) (fld shape 34 4 + 1)

/-- The source span of an MXB. -/
def mxbSpan (src shape : Word) : Int × Int :=
  let lo : Int := src.toNat
  (lo, lo + (64 * fld shape 48 16 * fld shape 38 10 + mxbColumn shape - 1 : Nat))

/-- The first check of R286 that an MXB fails. -/
def mxbRefusal (s : State) (src shape : Word) : Option Nat :=
  let sp := mxbSpan src shape
  if !mxbFormat shape then some 9
  else if fld src 0 6 ≠ 0 then some 1
  else if 64 * fld shape 48 16 < mxbColumn shape then some 8
  else if !spanLegal s sp then some 2
  else if 0xF0 ≤ spanAp sp ∨ (s.ctx.level = .h ∧ spanBound s sp) ∨ (s.ctx.level ≠ .s ∧ spanSystem sp) then some 5
  else none

/-- MXB (R286). -/
def execMxb (d a b : BitVec 5) (s : State) : Host.Outcome State Fault Refusal :=
  .next (if jobStall s then stall s
    else match mxbRefusal s (gv s a) (gv s b) with
      | some detail => failMx d 1 detail s
      | none => recordMx (queueJob s d (.mxb (gv s a) (gv s b)) [] .mxbStart) d s.core.ids)

/-- MXST (R294). A job bound for this cluster's own port is held there. The state of a job in another cluster's queue is not
known here: a free value (log 5). -/
def execMxst (d a : BitVec 5) (s : State) : Host.Outcome State Fault Refusal :=
  let x := gv s a
  .next (if fld x 5 59 ≠ 0 then retire (wg s d (BitVec.allOnes 64))
    else match s.ctx.act.mxJobs.find? fun j => j.1.toNat == fld x 0 5 with
      | none => retire (wg s d 0)
      | some (_, id, rows) =>
        if inAgenda s fun m => match m with
            | .mxcapArrival j => j.id == id && j.who == me s
            | _ => false then retire (wg s d 3)
        else if s.cluster.remote.any fun r => r.1 == id && r.2.1 == me s then
          let (y, s1) := takeFree s
          retire (wg s1 d (BitVec.ofNat 64 (fld y 8 32 * 2 ^ 8 + (1 + fld y 0 2 % 3))))
        else match s.cluster.jobs.find? fun j => j.id == id with
          | none => retire (wg s d (BitVec.ofNat 64 (rows * 2 ^ 8)))
          | some j => retire (wg s d (BitVec.ofNat 64 (j.rows * 2 ^ 8 + (if j.started then 2 else 1)))))

/-! MXCAP (R292, R293). -/

/-- Do the DEVICE, DIE and CLUSTER of a capability name this engine? -/
def capHere (s : State) (cap : BitVec 128) : Bool :=
  nfld cap.toNat 12 12 == s.loc.dev.toNat && nfld cap.toNat 9 3 == s.loc.die.toNat
    && nfld cap.toNat 2 7 == s.loc.cluster.toNat

/-- 100 µs in reference cycles (R15). -/
def capWait : Nat := 15625

/-- MXCAP (R129, R292): it stalls on the core's four jobs, and takes no place of this cluster's queue; the job leaves
after what an earlier FENCER orders before its writes (R324). DESIGN CHOICE: its entry is read in one step (R29;
log 12). -/
def execMxcap (d a b : BitVec 5) (s : State) : Host.Outcome State Fault Refusal :=
  .next (if 4 ≤ jobsOf s ((me s).toNat % 2 ^ 32) ∨ acquireOut s (me s) s.ctx.act.afterWr then stall s
    else withMxj d (gv s a) s fun x s1 =>
      if 65536 ≤ (gv s1 b).toNat then failMx d 1 9 s1
      else match engReadNow s1 (eaRes s1 0 (gv s1 b).toNat) 64 with
        | .fault s2 c _ => failMx d (engDetail c).1 (engDetail c).2 s2
        | .held s2 => stall s2
        | .ok s2 e =>
          if nfld e 128 8 ≠ 7 then failMx d 1 9 s2
          else
            let (id, s3) := newId s2
            let cap := BitVec.ofNat 128 (nfld e 256 128)
            let job : CapJob :=
              { who := me s, id := id, token := d, desc := BitVec.ofNat 256 x, cap := cap
                mode := s.ctx.user.fmode, seed := s.ctx.user.lfsr
                seq := s.ctx.act.seq, after := max s.ctx.act.after s.ctx.act.afterWr }
            let s4 := recordMx (startToken s3 d) d id
            let s5 := s4.modCluster fun c => { c with remote := c.remote ++ [(id, me s, d, false)] }
            let s6 := after (stepLfsr s5) (s.clock.ref + capWait) (.mxcapTimeout id)
            retire (if capHere s cap then send s6 (.mxcapArrival job) else out s6 (.event (.mxcapArrival job))))

/-- The first check of R293 that an arriving job fails, as its detail. -/
def capRefusal (s : State) (j : CapJob) : Option Nat :=
  let c := j.cap.toNat
  if (clusterHolder s).isSome then some 20
  else if !c.testBit 24 ∨ !capHere s j.cap ∨ nfld c 32 32 < nfld s.clock.ref 24 32
      ∨ BitVec.ofNat 64 (nfld c 64 64) ≠ Config.kmac256 s.cluster.ke
          (bytesLE 8 (nfld c 0 64) ++ bytesLE 2 (nfld j.who.toNat 20 12)) then some 12
  else none

/-- An arriving job that passed its checks, under R289 and R290; it waits at the port for a place, and a free place goes to
the one that has waited longest. -/
def acceptCap (s : State) (j : CapJob) : State :=
  let x := j.desc.toNat
  let p := nfld x 160 8 - 0x28
  let aaddr := BitVec.ofNat 64 (nfld x 0 64)
  let jw := BitVec.ofNat 64 (nfld x 64 64)
  match jobRefusal s p aaddr jw with
  | some detail => giveToken (notWaiting s j.who (some j.id)) j.who j.token 0 (tokenWord 1 detail 0) (some j.id)
  | none =>
    if queueFull s j.who (some j.id) ∨ lockRoom s < 2 then send (waitsForPlace s j.who (some j.id)) (.mxcapArrival j)
    else
      let (id, s1) := newId (notWaiting s j.who (some j.id))
      let job : Job :=
        { id := id, who := j.who, token := j.token
          op := .compute (BitVec.ofNat 6 (nfld x 160 8)) aaddr jw (BitVec.ofNat 8 (nfld x 128 8))
            (BitVec.ofNat 8 (nfld x 144 8))
          mode := j.mode, seed := j.seed, level := .h, started := false, startRef := 0, rows := 0, xroot := 0
          seq := j.seq, after := j.after, flags := 0 }
      let s2 := s1.modCluster fun c =>
        { c with jobs := c.jobs ++ [job]
                 remote := c.remote.filter fun r => !(r.1 == j.id && r.2.1 == j.who)
                 ranges := c.ranges ++ (jobLocks s p aaddr jw).map fun l =>
                   { owner := id, lo := l.1, hi := l.2.1, write := l.2.2 } }
      let s3 := match localSlot s2 j.who with
        | some i => s2.modAct i fun a => { a with mxJobs := a.mxJobs.map fun m =>
            if m.2.1 = j.id then (m.1, id, 0) else m }
        | none => s2
      send s3 .computeJobStart

/-- TVAL of CAPABILITY (R365). -/
def capTval (j : CapJob) : Word := BitVec.ofNat 64 (nfld j.who.toNat 20 12 * 2 ^ 52 + nfld j.cap.toNat 32 32)

/-- CAPABILITY enters the system level of core 0 of the cluster (R293, R365, R367). -/
def capTrap (s : State) (tval : Word) : State :=
  if s.loc.core = 0 then trapIn s 0 { code := 18, tval := tval } else out s (.capability tval)

/-- Can slot 0 not take it yet: it runs at S level, has a request out, or its core does not issue? -/
def capWaits (s : State) : Bool :=
  s.loc.core == 0 && ((s.at 0).level == .s || (s.at 0).act.blocked.isSome || s.core.preempted || s.core.stopped)

/-- Has a job of this core ended while it was on its way (R131, R293)? -/
def capEnded (s : State) (j : CapJob) : Bool :=
  ofCore s j.who && !(s.cluster.remote.any fun r => r.1 == j.id && r.2.1 == j.who)

/-- MXCAP_ARRIVAL (R293): a job that timed out on its way is dropped, its token being written. A refusal's token is
written at once; its CAPABILITY waits for slot 0 of core 0. -/
def execMxcapArrival (s : State) : Host.Outcome State Fault Refusal :=
  .next (match s.event with
    | some (.mxcapArrival j) =>
      if capEnded s j then notWaiting s j.who (some j.id)
      else match capRefusal s j with
      | some detail =>
        let s1 := giveToken s j.who j.token 0 (tokenWord 1 detail 0) (some j.id)
        if detail = 12 then send s1 (.capabilityDue (capTval j)) else s1
      | none => acceptCap s j
    | some (.capabilityDue tval) => if capWaits s then send s (.capabilityDue tval) else capTrap s tval
    | _ => s)

/-- MXCAP_TIMEOUT: the target has not answered (R293). -/
def execMxcapTimeout (s : State) : Host.Outcome State Fault Refusal :=
  .next (match s.event with
    | some (.mxcapTimeout id) =>
      match s.cluster.remote.find? fun r => r.1 == id && (ofCore s r.2.1) with
      | none => s
      | some r => giveToken s r.2.1 r.2.2.1 0 (tokenWord 2 2 0) (some id)
    | _ => s)

/-! Units of the queue (R290). -/

/-- A matrix job ends: MXST keeps what it did, and the next matrix jobs may start. -/
def endMx (s : State) (j : Job) (flags : BitVec 5) (status detail count : Nat) : State :=
  let s1 := match localSlot s j.who with
    | some i => s.modAct i fun a => { a with mxJobs := a.mxJobs.map fun m =>
        if m.2.1 = j.id then (m.1, m.2.1, count) else m }
    | none => s
  send (send (endJob s1 j flags status detail count) .mxbStart) .computeJobStart

/-- The MXB that may start: every earlier matrix entry has started and no earlier MXB is left (R290). -/
def mxbReady : List Job → List Job → Option Job
  | _, [] => none
  | before, j :: rest =>
    if j.isMxb && !j.started && before.all (fun b => b.started || b.isCopy) && !(before.any Job.isMxb) then some j
    else mxbReady (before ++ [j]) rest

/-- MXB_START: a copy-unit place and a lock-table entry, or it waits (R286). -/
def execMxbStart (s : State) : Host.Outcome State Fault Refusal :=
  .next (match s.event with
    | some .mxbStart =>
      match mxbReady [] s.cluster.jobs with
      | none => s
      | some j =>
        if 16 ≤ inFlight s then s
        else if lockRoom s < 1 then send s .mxbStart
        else match j.op with
          | .mxb src shape =>
            let l := spanLock s (mxbSpan src shape) false
            let s1 := (startJob s j.id).modCluster fun c =>
              { c with ranges := c.ranges ++ [{ owner := j.id, lo := l.1, hi := l.2.1, write := l.2.2 }] }
            send (send s1 .mxbComplete) .computeJobStart
          | _ => s
    | _ => s)

/-- The columns of an MXB in order. -/
def mxbCols (j : Job) (src : Word) (step bytes : Nat) : Nat → Nat → State → EngOut (List (List Byte))
  | 0, _, s => .ok s []
  | n + 1, i, s =>
    match engRead s j.xroot j.level (src + BitVec.ofNat 64 (step * i)) bytes with
    | .fault s1 c e => .fault s1 c e
    | .held s1 => .held s1
    | .ok s1 bs =>
      match mxbCols j src step bytes n (i + 1) s1 with
      | .ok s2 cs => .ok s2 (bs :: cs)
      | other => other

/-- An MXB at its end: the tile into NEXT, or no tile after a fault (R286). -/
def runMxb (s : State) (j : Job) (src shape : Word) : State :=
  let step := 64 * fld shape 48 16
  let bytes := mxbColumn shape
  let blocks := (bytes + 63) / 64
  let n := fld shape 38 10 + 1
  match mxbCols j src step bytes n 0 s with
  | .held s1 => send s1 .mxbComplete
  | .fault s1 c e =>
    let off := (e - src).toNat
    endMx (s1.modCluster fun c => { c with next := none }) j 0 (engDetail c).1 (engDetail c).2
      (off / step * blocks + off % step / 64)
  | .ok s1 cols =>
    let t : Tile :=
      { fmt := BitVec.ofNat 8 (fld shape 16 8), kb := fld shape 34 4 + 1, n := n, cols := cols, bad := [] }
    endMx (s1.modCluster fun c => { c with next := some t, swapDue := true }) j 0 0 0 (n * blocks)

/-- MXB_COMPLETE (R286). -/
def execMxbComplete (s : State) : Host.Outcome State Fault Refusal :=
  .next (match s.event with
    | some .mxbComplete =>
      match s.cluster.jobs.find? fun j => j.isMxb && j.started with
      | none => s
      | some j =>
        match j.op with
        | .mxb src shape => send (runMxb s j src shape) .copyStart
        | _ => s
    | _ => s)

/-- Swap CUR and NEXT where an MXB has completed since the last swap (R290). -/
def swapTiles (s : State) : State :=
  if s.cluster.swapDue then s.modCluster fun c => { c with cur := c.next, next := c.cur, swapDue := false } else s

/-- Is a matrix job of a pipeline's stage under way on this cluster (R302)? -/
def stageRuns (s : State) : Bool :=
  s.mill.binds.any fun b => b.jobs.any fun x => match x.2 with
    | .here j => !j.isCopy
    | .away _ => false

/-- COMPUTE_JOB_START: the first matrix entry of the queue, when it is a compute job (R290). -/
def execComputeJobStart (s : State) : Host.Outcome State Fault Refusal :=
  .next (match s.event with
    | some .computeJobStart =>
      match s.cluster.jobs.find? fun j => !j.isCopy with
      | none => s
      | some j =>
        if j.isMxb || j.started then s
        else if stageRuns s then send s .computeJobStart
        else send (startJob (swapTiles s) j.id) .computeJobComplete
    | _ => s)

/-- What stops the rows of a job: a fault, or a bank that refuses a row for now (R252). -/
inductive RowsEnd where
  | fault (c : Cause)
  | wait
  deriving DecidableEq, Repr

/-- How the rows of a job end: the state, the environment, rows written, and what stopped it. -/
abbrev RowsOut := State × FEnv × Nat × Option RowsEnd

/-- The bank port of the matrix engine (R253). -/
def enginePort : Nat := 10

/-- A record for this cluster: CLASS 4 for a residue, CLASS 2 for the B store (R390, R398, R399). -/
def logCluster (s : State) (cls code : BitVec 8) : State :=
  logError s { time := s.clock.ref, addr := 0, epc := 0, unit := BitVec.ofNat 16 (2 ^ 13 + s.loc.cluster.toNat), cls := cls
               code := code }

/-- The errors of the array in one row. -/
def rowErrs (s : State) (r : Nat) : SumErrs := (s.cluster.sumErr.filter fun e => e.1 == r).map (·.2)

/-- The rows of a compute job in increasing order (R288): a row that fails leaves it and the later ones. -/
def computeRows (j : Job) (p : Nat) (aaddr jw : Word) (sja sjb : Int) (kb n : Nat) (cols : List (List MBlock)) :
    Nat → Nat → State → FEnv → RowsOut
  | 0, r, s, st => (s, st, r, none)
  | m + 1, r, s, st =>
    match engRead s j.xroot j.level (rowA aaddr jw r) (lineBytes (aCode p) kb) with
    | .fault s1 c _ => (s1, st, r, some (.fault c))
    | .held s1 => (s1, st, r, some .wait)
    | .ok s1 abs' =>
      match engRead s1 j.xroot j.level (rowC jw r) (4 * n) with
      | .fault s2 c _ => (s2, st, r, some (.fault c))
      | .held s2 => (s2, st, r, some .wait)
      | .ok s2 cbs =>
        match engPlaces j.xroot j.level true (addrs (rowC jw r) (4 * n)) s2 with
        | .fault s3 c _ => (s3, st, r, some (.fault c))
        | .held s3 => (s3, st, r, some .wait)
        | .ok s3 ps =>
          let line := lineBlocks st.md (aCode p) kb abs'
          let errs := rowErrs s3 r
          let (rs, st1) := cimRow p sja sjb errs line 0 cols (numsLE 4 n cbs) st
          if rowResidueBad p line cols errs then (logCluster s3 4 0, st1, r, some (.fault 17))
          else if engineRefused s3 enginePort (byteKeys ps) then
            (engineLost s3 enginePort (byteKeys ps), st, r, some .wait)
          else
            computeRows j p aaddr jw sja sjb kb n cols m (r + 1)
              (putAt ps (rs.flatMap (bytesLE 4)) (engineServed s3 enginePort (byteKeys ps))) st1

/-- How a compute job ends: with its flags and the status, detail and count of its token, or later, with the rows
written, the seed and the flags so far. -/
inductive ComputeOut where
  | done (s : State) (flags : BitVec 5) (status detail count : Nat)
  | wait (s : State) (st : FEnv) (rows : Nat)

/-- ComputeJob of R288 on CUR, from the row that a wait left it at. -/
def doCompute (s : State) (j : Job) (major : BitVec 6) (aaddr jw : Word) (sa sb : BitVec 8) : ComputeOut :=
  let p := major.toNat - 0x28
  let cleared (t : State) : State := (engineServed t enginePort).modCluster fun c => { c with sumErr := [] }
  match s.cluster.cur with
  | none => .done s 0 1 13 0
  | some t =>
    if t.fmt.toNat ≠ bCode p then .done s 0 1 14 0
    else if t.bad ≠ [] then .done (cleared (logCluster s 2 17)) j.flags 1 7 j.rows
    else
      let cols := t.cols.map (lineBlocks j.mode (bCode p) t.kb)
      match computeRows j p aaddr jw sa.toNat sb.toNat t.kb t.n cols (jwRows jw - j.rows) j.rows s
          { md := j.mode, lfsr := j.seed, flags := j.flags } with
      | (s1, st, r, none) => .done (cleared s1) st.flags 0 0 r
      | (s1, st, r, some (.fault c)) => .done (cleared s1) st.flags (engDetail c).1 (engDetail c).2 r
      | (s1, st, r, some .wait) => .wait s1 st r

/-- A compute job of the queue at its end, or one that goes on later. -/
def runCompute (s : State) (j : Job) (major : BitVec 6) (aaddr jw : Word) (sa sb : BitVec 8) : State :=
  match doCompute s j major aaddr jw sa sb with
  | .done s1 fl status detail count => endMx s1 j fl status detail count
  | .wait s1 st r => send (s1.modCluster fun c => { c with jobs := c.jobs.map fun x =>
      if x.id = j.id then { x with rows := r, seed := st.lfsr, flags := st.flags } else x }) .computeJobComplete

/-- COMPUTE_JOB_COMPLETE (R288). -/
def execComputeJobComplete (s : State) : Host.Outcome State Fault Refusal :=
  .next (match s.event with
    | some .computeJobComplete =>
      match s.cluster.jobs.find? fun j => !j.isCopy && !j.isMxb && j.started with
      | none => s
      | some j =>
        match j.op with
        | .compute major aaddr jw sa sb => runCompute s j major aaddr jw sa sb
        | _ => s
    | _ => s)

end Sys2Proof.Machine
end

