-- ==== Sys2Proof/Machine/Bank.lean ====
section
/-!
DEFINITION. The bank units: slots, BVLD, BMV, BVRD, BCFG and BSTAT (R196, R296 to R301), and the vector
images that pipelines stage (R298, R308).
-/

namespace Sys2Proof.Machine

/-! Units and slots (R7, R226, R296). -/

/-- A unit as one number: 32 × stack + unit. -/
def unitNo (stack unit : Nat) : Nat := 32 * stack + unit

/-- Is a unit present: its stack, and its channel (R8, R395)? -/
def unitPresent (s : State) (stack unit : Nat) : Bool :=
  stackPresent s.grade stack && !s.hw.absent.contains ((s.loc.dev.toNat * 2 ^ 16 + stack) * 32 + unit)

/-- Is the channel of a unit FENCING or FENCED (R395)? -/
def channelFenced (s : State) (u : Nat × Nat) : Bool := unitFenced s (.channel (32 * u.1 + u.2))

/-- A slot of a unit; it is EMPTY with no VALID bit when nothing is recorded. -/
def bankSlot (s : State) (stack unit slot : Nat) : BankSlot :=
  (s.banks.slots.find? fun b => b.stack == stack && b.unit == unit && b.slot == slot).getD
    { stack := stack, unit := unit, slot := slot, loaded := none, valid := 0 }

/-- Put a slot back. -/
def setBankSlot (s : State) (b : BankSlot) : State :=
  let rest := s.banks.slots.filter fun x => !(x.stack == b.stack && x.unit == b.unit && x.slot == b.slot)
  { s with banks := { s.banks with
    slots := if b.loaded = none ∧ b.valid = 0 then rest else rest ++ [b] } }

/-- The physical address of a part of a slot in the window of aperture 0x04 (R224). -/
def slotPa (s : State) (stack unit slot part : Nat) : Nat :=
  s.loc.dev.toNat * 2 ^ 52 + 0x040000000000 + stack * 2 ^ 28 + unit * 2 ^ 23 + slot * 2 ^ 19 + part * 2 ^ 18

/-- Make a slot EMPTY: its part 0 reads zero and no result is VALID (R296). -/
def emptySlot (s : State) (stack unit slot : Nat) : State :=
  let pa := slotPa s stack unit slot 0
  setBankSlot { s with mem := s.mem.filter fun c => !(decide (pa ≤ c.1) && decide (c.1 < pa + 0x8400)) }
    { stack := stack, unit := unit, slot := slot, loaded := none, valid := 0 }

/-- A vector image: format code, length, element bytes, scale records. -/
structure Image where
  fmt : Nat
  len : Nat
  elems : List Byte
  scales : List Byte
  deriving DecidableEq, Repr

/-- Element bytes of a vector. -/
def vecBytes (fmt len : Nat) : Nat := len * codeBits fmt / 8

/-- Write an image into a slot: LOADED, no VALID bit (R298). -/
def loadSlot (im : Image) (s : State) (stack unit slot : Nat) : State :=
  let s1 := emptySlot s stack unit slot
  let pa := slotPa s stack unit slot 0
  setBankSlot (writeBytes (writeBytes s1 pa im.elems) (pa + 0x8000) im.scales)
    { stack := stack, unit := unit, slot := slot, loaded := some (BitVec.ofNat 8 im.fmt, im.len), valid := 0 }

/-- The image a LOADED slot holds. -/
def slotImage (s : State) (stack unit slot : Nat) : Option Image :=
  (bankSlot s stack unit slot).loaded.map fun v =>
    let pa := slotPa s stack unit slot 0
    { fmt := v.1.toNat, len := v.2, elems := Memory.bytes s.mem pa (vecBytes v.1.toNat v.2)
      scales := Memory.bytes s.mem (pa + 0x8000) (v.2 / 32 * codeScale v.1.toNat) }

/-- The blocks of an image. -/
def Image.blocks (md : Word) (im : Image) : List MBlock :=
  lineBlocks md im.fmt (im.len / 32) (im.elems ++ im.scales)

/-- The units of a list of stackList and units that are set in masks. -/
def maskUnits (s : State) (units stackList : Nat) : List (Nat × Nat) :=
  (List.range 16).flatMap fun st =>
    if stackList.testBit st then
      ((List.range 32).filter fun u => units.testBit u && unitPresent s st u).map fun u => (st, u)
    else []

/-- The units a selection word selects; none where it breaks R297. `slotMask` says that [15:0] is BCFG's mask
of slots (R300). -/
def selectUnits (s : State) (w : Word) (slotMask : Bool) : Option (List (Nat × Nat)) :=
  let stackList := fld w 16 16
  let sel := maskUnits s (fld w 32 32) stackList
  if (!slotMask && fld w 4 12 != 0) || (List.range 16).any (fun st => stackList.testBit st && !stackPresent s.grade st)
      || sel.isEmpty then none
  else some sel

/-- Does a unit carry a bound Millrace instance (R301, R305)? -/
def unitBound (s : State) (u : Nat × Nat) : Bool :=
  s.mill.insts.any fun i => i.units.contains (unitNo u.1 u.2)

/-! Images (R298). -/

/-- Does an image header keep its map? -/
def imageFormat (h : Nat) : Bool :=
  let fmt := nfld h 0 8
  (fmt == 3 || fmt == 5 || fmt == 6 || fmt == 7) && nfld h 8 24 == 0 && decide (32 ≤ nfld h 32 16)
    && decide (nfld h 32 16 ≤ 16384) && nfld h 32 16 % 32 == 0 && nfld h 48 16 == 0 && nfld h 160 352 == 0

/-- Read the image of a header, after its 64 bytes. -/
def readImage (s : State) (xroot : Word) (level : Level) (ea : Word) (h : Nat) : EngOut Image :=
  let fmt := nfld h 0 8
  let len := nfld h 32 16
  let n := vecBytes fmt len
  match engRead s xroot level (ea + 64) (n + len / 32 * codeScale fmt) with
  | .fault s1 c e => .fault s1 c e
  | .held s1 => .held s1
  | .ok s1 bs => .ok s1 { fmt := fmt, len := len, elems := bs.take n, scales := bs.drop n }

/-! Issue (R301). -/

/-- The direct bank jobs of the issuing core: a ninth stalls (R301). -/
def bankStall (s : State) : Bool :=
  decide (8 ≤ (s.banks.jobs.filter fun j => ofCore s j.who && (match j.instr with
    | .bvld .. => nfld j.desc.toNat 64 64 == 0
    | _ => true)).length)

/-- Queue a bank job of the issuing context, with the locks it takes (R246, R300). -/
def queueBank (s : State) (d : BitVec 5) (i : Instr) (ga gb : Word) (desc : BitVec 512) (sa sb : BitVec 8)
    (locks : List (Word × Word × Bool) := []) : State :=
  let (id, s0) := newId s
  let s1 := s0.modCluster fun c =>
    { c with ranges := c.ranges ++ locks.map fun l => { owner := id, lo := l.1, hi := l.2.1, write := l.2.2 } }
  let j : BankJob :=
    { id := id, who := me s, token := d, instr := i, ga := ga, gb := gb, desc := desc, sa := sa, sb := sb
      mode := s.ctx.user.fmode, seed := s.ctx.user.lfsr, level := s.ctx.level, xroot := s.ctx.user.xroot
      after := max s.ctx.act.after s.ctx.act.afterWr, seq := s.ctx.act.seq, done := 0 }
  retire (send (startToken { s1 with banks := { s1.banks with jobs := s1.banks.jobs ++ [j] } } d)
    (.bankJobComplete id))

/-- BVLD: the header is read at issue; PIPE says whether the image is staged (R298, R308). -/
def execBvld (d a b : BitVec 5) (s : State) : Host.Outcome State Fault Refusal :=
  let ea := gv s a
  .next (if fld ea 0 6 ≠ 0 then failToken s d 1 1
    else match engReadNow s ea 64 with
      | .fault s1 c _ => failCause s1 d c
      | .held s1 => stall s1
      | .ok s1 h =>
        if !imageFormat h then failToken s1 d 1 9
        else if nfld h 64 64 = 0 then
          if bankStall s1 then stall s1
          else if (selectUnits s1 (gv s1 b) false).isNone ∨ ((selectUnits s1 (gv s1 b) false).getD []).any (channelFenced s1)
          then failToken s1 d 1 9
          else queueBank s1 d (.bvld d a b) ea (gv s1 b) (BitVec.ofNat 512 h) 0 0
        else
          let s2 := if gv s1 b ≠ 0 then failToken s1 d 1 9
            else queueBank s1 d (.bvld d a b) ea 0 (BitVec.ofNat 512 h) 0 0
          stepLfsr s2)

/-- L, ROWS, RSTR, SBASE and WBASE of a BMV descriptor (R299). -/
def bmvLen (x : Nat) : Nat := nfld x 160 24

/-- FORMAT of a BMV (R299): the maps, the slot mask, and every row inside one 64 KiB page. -/
def bmvFormat (p : Nat) (x : Nat) (gb : Word) : Bool :=
  let l := bmvLen x
  let rows := nfld x 128 32
  let row := vecBytes (bCode p) l
  nfld x 224 288 == 0 && nfld x 184 8 == 0 && decide (32 ≤ l) && decide (l ≤ 16384) && l % 32 == 0
    && fld gb 30 34 == 0 && fld gb 0 16 != 0 && decide (1 ≤ rows) && decide (rows + fld gb 16 14 ≤ 16384)
    && (bCode p != 7 || nfld x 64 64 != 0)
    && (List.range rows).all fun j => decide ((nfld x 0 64 + nfld x 192 32 * j) % 2 ^ 16 + row ≤ 2 ^ 16)

/-- BMV (R299). -/
def execBmv (p : BitVec 3) (d a b : BitVec 5) (c : BitVec 4) (s : State) : Host.Outcome State Fault Refusal :=
  let sc (r : BitVec 5) : BitVec 8 := if p.toNat < 4 then (s.ctx.f r).truncate 8 else 127
  .next (if bankStall s then stall s
    else withBytes d (gv s a) 64 s fun x s1 =>
      if !bmvFormat p.toNat x (gv s1 b) then failToken s1 d 1 9
      else if nfld x 0 6 ≠ 0 ∨ nfld x 192 6 ≠ 0 then failToken s1 d 1 1
      else stepLfsr (queueBank s1 d (.bmv p d a b c) (gv s1 a) (gv s1 b) (BitVec.ofNat 512 x) (sc (c.zeroExtend 5))
        (sc (c.zeroExtend 5 + 1))))

/-- The unit that holds a bank-row physical address (R226). -/
def unitOfPa (pa : Nat) : Nat × Nat := (nfld pa 36 4, nfld pa 16 5)

/-- Where row j of a BMV lies: its unit, or the detail that fails the whole job (R299). -/
def rowPlace (s : State) (j : BankJob) (row : Nat) : State × Except (Nat × Nat) (Nat × Nat) :=
  let x := j.desc.toNat
  let ea := BitVec.ofNat 64 (nfld x 0 64 + nfld x 192 32 * row)
  match translate s j.xroot j.level ea .engineRead with
  | (s1, .error c) => (s1, .error (engDetail c))
  | (s1, .ok p) =>
    if p.layout ≠ 1 then (s1, .error (1, 9))
    else if p.pa / 2 ^ 52 ≠ s1.loc.dev.toNat then (s1, .error (1, 5))
    else (s1, .ok (unitOfPa p.pa))

/-- The units of the rows of a BMV, or the detail that fails the job. -/
def rowPlaces (j : BankJob) : Nat → Nat → State → State × Except (Nat × Nat) (List (Nat × Nat))
  | 0, _, s => (s, .ok [])
  | n + 1, row, s =>
    match rowPlace s j row with
    | (s1, .error e) => (s1, .error e)
    | (s1, .ok u) =>
      match rowPlaces j n (row + 1) s1 with
      | (s2, .ok us) => (s2, .ok (u :: us))
      | other => other

/-- The units a job selects or reaches. -/
def jobUnits (s : State) (j : BankJob) : List (Nat × Nat) :=
  match j.instr with
  | .bcfg .. => (selectUnits s j.ga true).getD []
  | .bmv .. =>
    match (rowPlaces j (nfld j.desc.toNat 128 32) 0 s).2 with
    | .ok us => us
    | .error _ => []
  | .bvld .. => if nfld j.desc.toNat 64 64 = 0 then (selectUnits s j.gb false).getD [] else []
  | _ => (selectUnits s j.gb false).getD []

/-- One more than the highest VALID index of the selected units (R300). -/
def bvrdCount (s : State) (slot : Nat) (us : List (Nat × Nat)) : Nat :=
  us.foldl (fun n u =>
    let v := (bankSlot s u.1 u.2 slot).valid.toNat
    max n (if v = 0 then 0 else Nat.log2 v + 1)) 0

/-- The elements that a BVRD issued now may write: what is VALID, and what the context's bank jobs before it may make
VALID in the slot on a selected unit (R300; log 67). -/
def bvrdBound (s : State) (slot : Nat) (us : List (Nat × Nat)) : Nat :=
  s.banks.jobs.foldl (fun n j => match j.instr with
    | .bmv .. =>
      if j.who = me s ∧ j.gb.toNat.testBit slot ∧ (jobUnits s j).any us.contains then
        max n (fld j.gb 16 14 + nfld j.desc.toNat 128 32)
      else n
    | _ => n) (bvrdCount s slot us)

/-- The destination span of n elements; none counts as one byte (R265). -/
def bvrdSpan (ea : Word) (n : Nat) : Int × Int := ((ea.toNat : Int), (ea.toNat : Int) + (max 1 (4 * n) - 1 : Nat))

/-- The checks of the destination of n elements of a BVRD that need no translation, as for a copy (R265, R300). -/
def bvrdRefusal (s : State) (level : Level) (ea : Word) (n : Nat) : Option Nat :=
  let sp := bvrdSpan ea n
  if !spanLegal s sp then some 2
  else if spanAp sp = 4 ∨ 0xF0 ≤ spanAp sp ∨ (level = .h ∧ spanBound s sp) ∨ (level ≠ .s ∧ spanSystem sp) then some 5
  else none

/-- BVRD (R300): it takes a write lock on its destination (R246), within the aperture. Its length is known when it runs,
and what needs the length is checked then (log 67). -/
def execBvrd (d a b : BitVec 5) (s : State) : Host.Outcome State Fault Refusal :=
  .next (if bankStall s then stall s
    else match selectUnits s (gv s b) false with
      | none => failToken s d 1 9
      | some us =>
        if fld (gv s a) 0 2 ≠ 0 then failToken s d 1 1
        else
          let n := min (bvrdBound s (fld (gv s b) 0 4) us) ((2 ^ 56 - fld (gv s a) 0 56) / 4)
          let locks := if n = 0 then [] else [spanLock s (bvrdSpan (gv s a) n) true]
          if lockRoom s < locks.length then stall s
          else queueBank s d (.bvrd d a b) (gv s a) (gv s b) 0 0 0 locks)

/-- BCFG (R300). -/
def execBcfg (d a : BitVec 5) (s : State) : Host.Outcome State Fault Refusal :=
  .next (if bankStall s then stall s
    else if (selectUnits s (gv s a) true).isNone then failToken s d 1 9
    else queueBank s d (.bcfg d a) (gv s a) 0 0 0 0)

/-! The jobs (R298 to R301). -/

/-- BSTAT (R300). -/
def execBstat (d a : BitVec 5) (s : State) : Host.Outcome State Fault Refusal :=
  let x := gv s a
  let u := (fld x 28 4, fld x 23 5)
  .next (retire (wg s d (
    if fld x 0 23 ≠ 0 ∨ fld x 32 32 ≠ 0 ∨ !stackPresent s.grade u.1 then BitVec.allOnes 64
    else
      let loaded := (List.range 16).foldl
        (fun n k => n + (if (bankSlot s u.1 u.2 k).loaded.isSome then 2 ^ k else 0)) 0
      let pend := (s.banks.jobs.filter fun j => (jobUnits s j).contains u).length
      let ecc := (assoc (unitNo u.1 u.2) s.banks.corrected).getD 0
      BitVec.ofNat 64 (loaded * 2 ^ 48 + (unitBound s u).toNat * 2 ^ 32 + min pend 65535 * 2 ^ 16 + min ecc 65535))))

/-- A bank job ends: it leaves with its locks, and its flags and token are written (R192, R246, R299). -/
def endBank (s : State) (j : BankJob) (flags : BitVec 5) (status detail count : Nat) : State :=
  giveToken { unlockRange s j.id with banks := { s.banks with jobs := s.banks.jobs.filter fun x => x.id != j.id } } j.who j.token
    flags (tokenWord status detail count)

/-- Multiply an element value by a power of two: a job scale is a plain exponent (R287). -/
def scaleVal (k : Int) : FVal → FVal
  | .fin n m e => .fin n m (e + k)
  | v => v

/-- The dot product of a resident vector and a row, with job scales, into one FP32 accumulator from +0 (R194,
R196). -/
def rowDot (sja sjb : Nat) (a b : List MBlock) (st : FEnv) : Nat × FEnv :=
  dot .fp32 ((a.zip b).map fun q =>
    { xs := (q.1.vals.map (scaleVal ((sja : Int) - 127))).zip (q.2.vals.map (scaleVal ((sjb : Int) - 127)))
      sa := q.1.scale, sb := q.2.scale }) 0 st

/-- How a row ends: its results by slot, or its failure. -/
abbrev RowRes := Except (Nat × Nat) (List (Nat × Nat))

/-- The results of a row in the slots of a mask, in increasing slot (R299). -/
def rowSlots (s : State) (u : Nat × Nat) (p l : Nat) (sja sjb : Nat) (row : List MBlock) :
    List Nat → FEnv → RowRes × FEnv
  | [], st => (.ok [], st)
  | k :: ks, st =>
    match slotImage s u.1 u.2 k with
    | none => (.error (1, 15), st)
    | some im =>
      if im.fmt ≠ aCode p ∨ im.len ≠ l then (.error (1, 14), st)
      else
        let (y, st1) := rowDot sja sjb (im.blocks st.md) row st
        match rowSlots s u p l sja sjb row ks st1 with
        | (.ok ys, st2) => (.ok ((k, y) :: ys), st2)
        | other => other

/-- Write the results of a row, with their VALID bits. -/
def putResults (u : Nat × Nat) (i : Nat) : List (Nat × Nat) → State → State
  | [], s => s
  | (k, y) :: rest, s =>
    let b := bankSlot s u.1 u.2 k
    putResults u i rest (setBankSlot (writeNat s (slotPa s u.1 u.2 k 1 + 4 * i) 4 y)
      { b with valid := b.valid ||| BitVec.twoPow 16384 i })

/-- The bytes of a row and its scale records; a SBASE of zero leaves every scale 127 (R299). -/
def rowRead (s : State) (j : BankJob) (p row : Nat) : EngOut (List Byte) :=
  let x := j.desc.toNat
  let l := bmvLen x
  let sb := codeScale (bCode p)
  match engRead s j.xroot j.level (BitVec.ofNat 64 (nfld x 0 64 + nfld x 192 32 * row)) (vecBytes (bCode p) l) with
  | .ok s1 bs =>
    if sb = 0 then .ok s1 bs
    else if nfld x 64 64 = 0 then .ok s1 (bs ++ List.replicate (l / 32 * sb) 127)
    else match engRead s1 j.xroot j.level (BitVec.ofNat 64 (nfld x 64 64 + sb * (row * (l / 32)))) (l / 32 * sb) with
      | .ok s2 sc => .ok s2 (bs ++ sc)
      | other => other
  | other => other

/-- How one row of a BMV ends: its results or its failure, or later, while a lessor copies its page (R243). -/
inductive RowEnd where
  | res (r : RowRes) (st : FEnv)
  | wait

/-- One row of a BMV: its bytes are read and every slot's product is taken (R300). -/
def bmvRow (j : BankJob) (p : Nat) (slots' : List Nat) (u : Nat × Nat) (row : Nat) (s : State) (st : FEnv) :
    State × RowEnd :=
  let l := bmvLen j.desc.toNat
  if channelFenced s u then (s, .res (.error (1, 9)) st)
  else match rowRead s j p row with
    | .fault s1 c _ => (s1, .res (.error (engDetail c)) st)
    | .held s1 => (s1, .wait)
    | .ok s1 bs =>
      let (r, st1) := rowSlots s1 u p l j.sa.toNat j.sb.toNat (lineBlocks st.md (bCode p) (l / 32) bs) slots' st
      (s1, .res r st1)

/-- The rows of a BMV in increasing order: the state, the environment, rows written, the first failure; none where a row
must wait. -/
def bmvRows (j : BankJob) (p : Nat) (slots' : List Nat) : List (Nat × Nat) → Nat → State → FEnv →
    Option (State × FEnv × Nat × Option (Nat × Nat))
  | [], _, s, st => some (s, st, 0, none)
  | u :: us, row, s, st =>
    match bmvRow j p slots' u row s st with
    | (_, .wait) => none
    | (s1, .res (.ok ys) st1) =>
      (bmvRows j p slots' us (row + 1) (putResults u (fld j.gb 16 14 + row) ys s1) st1).map fun x =>
        (x.1, x.2.1, x.2.2.1 + 1, x.2.2.2)
    | (s1, .res (.error f) st1) =>
      (bmvRows j p slots' us (row + 1) s1 st1).map fun x => (x.1, x.2.1, x.2.2.1, some f)

/-- The slots of a mask in increasing order. -/
def maskSlots (m : Nat) : List Nat := (List.range 16).filter fun k => m.testBit k

/-- BMV (R299, R301). -/
def runBmv (s : State) (j : BankJob) (p : Nat) : State :=
  match rowPlaces j (nfld j.desc.toNat 128 32) 0 s with
  | (s1, .error (status, detail)) => endBank s1 j 0 status detail 0
  | (s1, .ok us) =>
    if us.any (unitBound s1) then endBank s1 j 0 1 19 0
    else
      match bmvRows j p (maskSlots (fld j.gb 0 16)) us 0 s1 { md := j.mode, lfsr := j.seed, flags := 0 } with
      | none => send s (.bankJobComplete j.id)
      | some (s2, st, k, none) => endBank s2 j st.flags 0 0 k
      | some (s2, st, k, some (status, detail)) => endBank s2 j st.flags status detail k

/-- BVLD into slots (R298). -/
def runBvld (s : State) (j : BankJob) : State :=
  let us := (selectUnits s j.gb false).getD []
  if us.any (unitBound s) then endBank s j 0 1 19 0
  else match readImage s j.xroot j.level j.ga j.desc.toNat with
    | .held s1 => send s1 (.bankJobComplete j.id)
    | .fault s1 c _ => endBank s1 j 0 (engDetail c).1 (engDetail c).2 0
    | .ok s1 im =>
      endBank (us.foldl (fun t (u : Nat × Nat) => loadSlot im t u.1 u.2 (fld j.gb 0 4)) s1) j 0 0 0 us.length

/-- BCFG (R300). -/
def runBcfg (s : State) (j : BankJob) : State :=
  let us := (selectUnits s j.ga true).getD []
  if us.any (unitBound s) then endBank s j 0 1 19 0
  else
    endBank (us.foldl (fun t (u : Nat × Nat) =>
      (maskSlots (fld j.ga 0 16)).foldl (fun t k => emptySlot t u.1 u.2 k) t) s) j 0 0 0 us.length

/-- Result element i of a BVRD: the lowest unit with VALID set at i, or +0 (R300). -/
def bvrdElem (s : State) (slot i : Nat) : List (Nat × Nat) → Nat
  | [] => 0
  | u :: us =>
    if (bankSlot s u.1 u.2 slot).valid.getLsbD i then readNat s (slotPa s u.1 u.2 slot 1 + 4 * i) 4
    else bvrdElem s slot i us

/-- The bank port of requests from outside the cluster (R253). -/
def fabricPort : Nat := 8

/-- Write elements in blocks of 64 bytes from a block on: the state, the blocks written, and what stopped it: a fault, or a
bank or a lessor that makes it wait (R245, R247, R252). -/
def bvrdWrite (j : BankJob) : Nat → Nat → List Nat → State → State × Nat × Option (Option Cause)
  | 0, done, _, s => (s, done, none)
  | n + 1, done, xs, s =>
    match xs with
    | [] => (s, done, none)
    | xs =>
      let now := xs.take 16
      match engPlaces j.xroot j.level true (addrs (j.ga + BitVec.ofNat 64 (64 * done)) (4 * now.length)) s with
      | .fault s1 c _ => (s1, done, some (some c))
      | .held s1 => (s1, done, some none)
      | .ok s1 ps =>
        if engineRefused s1 fabricPort (byteKeys ps) then (engineLost s1 fabricPort (byteKeys ps), done, some none)
        else
          bvrdWrite j n (done + 1) (xs.drop 16) (putAt ps (now.flatMap (bytesLE 4)) (engineServed s1 fabricPort (byteKeys ps)))

/-- BVRD (R300). -/
def runBvrd (s : State) (j : BankJob) : State :=
  let us := (selectUnits s j.gb false).getD []
  let slot := fld j.gb 0 4
  if us.any (unitBound s) then endBank s j 0 1 19 0
  else
    let n := bvrdCount s slot us
    match bvrdRefusal s j.level j.ga n with
    | some detail => endBank s j 0 1 detail 0
    | none =>
    match bvrdWrite j 1024 j.done (((List.range n).map fun i => bvrdElem s slot i us).drop (16 * j.done)) s with
    | (s1, _, none) => endBank s1 j 0 0 0 n
    | (s1, done, some (some c)) => endBank (engineServed s1 fabricPort) j 0 (engDetail c).1 (engDetail c).2 done
    | (s1, done, some none) => send { s1 with banks := { s1.banks with jobs := s1.banks.jobs.map fun x =>
        if x.id = j.id then { x with done := done } else x } } (.bankJobComplete j.id)

/-! Staging (R308). -/

/-- The live binding of a pipeline handle (R304). -/
def bindingOf (s : State) (h : Word) : Option Binding :=
  s.mill.binds.find? fun b => fld h 52 12 == s.loc.dev.toNat && fld h 0 20 == b.id && fld h 39 8 == b.gen.toNat
    && fld h 35 4 == b.place && fld h 20 15 == b.inst

/-- The instance of a number. -/
def instOf (s : State) (id : Nat) : Option Instance' := s.mill.insts.find? fun i => i.id == id

/-- Put an instance back. -/
def setInst (s : State) (i : Instance') : State :=
  { s with mill := { s.mill with insts := s.mill.insts.map fun x => if x.id = i.id then i else x } }

/-- The bank stage of a binding (R302). -/
def bankStage (b : Binding) : Option (BitVec 192) := b.desc.find? fun r => nfld r.toNat 0 4 == 2

/-- Row length of the weight stream of an instance: elements, from its WEIGHTS entry (R27). -/
def instLen (i : Instance') : Nat := match i.entries with
  | e :: _ => nfld e.toNat 392 24
  | [] => 0

/-- Change one consumer of an instance. -/
def Instance'.modCons (i : Instance') (place : Nat) (f : Consumer → Consumer) : Instance' :=
  { i with consumers := i.consumers.map fun c => if c.place = place then f c else c }

/-- What refuses an image for a binding, as a detail (R308); FORMAT where a channel of the stream is fenced (R395). -/
def stageRefusal (s : State) (h : Nat) (xroot : Word) : Option Nat :=
  match bindingOf s (BitVec.ofNat 64 (nfld h 64 64)) with
  | none => some 18
  | some b =>
    match instOf s b.inst with
    | none => some 18
    | some i =>
      if fld xroot 8 8 ≠ i.domain.toNat then some 5
      else match bankStage b with
        | none => some 14
        | some r =>
          if nfld h 0 8 ≠ nfld r.toNat 24 8 ∨ nfld h 32 16 ≠ instLen i then some 14
          else if i.units.any fun u => channelFenced s (u / 32, u % 32) then some 9
          else none

/-- The staged image of a consumer is replaced, and its gate looked at again (R308). -/
def putStaged (s : State) (h : Nat) (image : List Byte) (mode : Word) (seed : W32) : State :=
  match bindingOf s (BitVec.ofNat 64 (nfld h 64 64)) with
  | none => s
  | some b =>
    match instOf s b.inst with
    | none => s
    | some i =>
      send (setInst s (i.modCons b.place fun c =>
        { c with image := some image, imageSeg := nfld h 128 32, mode := mode, seed := seed, curStaged := false }))
        (.segmentStart i.id)

/-- Stage an image for a binding (R308). -/
def stageImage (s : State) (j : BankJob) : State :=
  let h := j.desc.toNat
  match stageRefusal s h j.xroot with
  | some detail => endBank s j 0 1 detail 0
  | none =>
    match readImage s j.xroot j.level j.ga h with
    | .held s1 => send s1 (.bankJobComplete j.id)
    | .fault s1 c _ => endBank s1 j 0 (engDetail c).1 (engDetail c).2 0
    | .ok s1 im => putStaged (endBank s1 j 0 0 0 1) h (im.elems ++ im.scales) j.mode j.seed

/-- BANK_JOB_COMPLETE: the oldest job of the context whose job is due, so that a context's jobs keep their
order (R301). -/
def execBankJobComplete (s : State) : Host.Outcome State Fault Refusal :=
  .next (match s.event with
    | some (.bankJobComplete id) =>
      match s.banks.jobs.find? fun j => j.id == id with
      | none => s
      | some j0 =>
        match s.banks.jobs.find? fun j => j.who == j0.who with
        | none => s
        | some j =>
          let s1 := if j.id = id then s else send s (.bankJobComplete id)
          match j.instr with
          | .bvld .. => if nfld j.desc.toNat 64 64 = 0 then runBvld s1 j else stageImage s1 j
          | .bmv p .. => runBmv s1 j p.toNat
          | .bcfg .. => runBcfg s1 j
          | .bvrd .. => runBvrd s1 j
          | _ => endBank s1 j 0 0 0 0
    | _ => s)

end Sys2Proof.Machine
end

