-- ==== Sys2Proof/Machine/Exchange.lean ====
section
/-!
DEFINITION. The timed exchange: phases, words, virtual streams, and the XC instructions (R340 to R354).
-/

namespace Sys2Proof.Machine

/-! Switches (R12, R13, R350, R354). -/

/-- The board number of a module (R12). -/
def boardNo (s : State) (dev : BitVec 12) : Nat := if dev = s.loc.dev then s.board else Config.boardOf dev

/-- Its rack number. -/
def rackNo (s : State) (dev : BitVec 12) : Nat := if dev = s.loc.dev then s.rack else Config.rackOf dev

/-- Its port at L5. -/
def boardPort (s : State) (dev : BitVec 12) : Nat := if dev = s.loc.dev then s.l5Port else Config.portOf dev % 8

/-- The L6 port of a board, and the L7 port of a rack (R405). -/
def boardTrunk (rack board : Nat) : Nat :=
  ((Config.cabling.find? fun c => c.1 == rack && c.2.1 == board).map fun c => c.2.2 % 8).getD 0

/-- The L7 port of a rack. -/
def rackTrunk (rack : Nat) : Nat := ((assoc rack Config.trunks).map fun p => p % 8).getD 0

/-- The board at an L6 port, and the rack at an L7 port (R405). -/
def boardAt (s : State) (rack port : Nat) : Nat :=
  if rack = s.rack ∧ boardTrunk s.rack s.board = port then s.board
  else ((Config.cabling.find? fun c => c.1 == rack && c.2.2 % 8 == port).map (·.2.1)).getD 0

/-- The rack at an L7 port. -/
def rackAt (s : State) (port : Nat) : Nat :=
  if rackTrunk s.rack = port then s.rack
  else ((Config.trunks.find? fun t => t.2 % 8 == port).map (·.1)).getD 0

/-- The rack of a board: an entry number names a board without its rack (R354; log 47). -/
def rackOfBoard (s : State) (board : Nat) : Nat :=
  if board = s.board then s.rack else ((Config.cabling.find? fun c => c.2.1 == board).map (·.1)).getD s.rack

/-- The up port of a level; L7 has none. -/
def upPort (lvl : Nat) : Nat := if lvl = 0 then 16 else if lvl < 4 then 4 else 8

/-- Ports of a level. -/
def portCount (lvl : Nat) : Nat := if lvl = 0 then 17 else if lvl < 4 then 5 else if lvl < 7 then 9 else 8

/-- An entry number (R354). -/
def entryNo (lvl : Nat) (dev : BitVec 12) (idx vs : Nat) : Word :=
  BitVec.ofNat 64 ((if lvl < 5 then dev.toNat * 2 ^ 32 else 0) + idx * 2 ^ 16 + lvl * 2 ^ 12 + vs)

/-- IDX of the switch of a level above a core (R354). -/
def switchIdx (s : State) (lvl : Nat) (dev : BitVec 12) (die cl : Nat) : Nat :=
  match lvl with
  | 0 => 64 * die + cl / 2
  | 1 => 16 * die + cl / 8
  | 2 => 4 * die + cl / 32
  | 3 => die
  | 5 => boardNo s dev
  | 6 => rackNo s dev
  | _ => 0

/-- The down port of a level towards a core (R350, R405). -/
def downPort (s : State) (lvl : Nat) (dev : BitVec 12) (die cl core : Nat) : Nat :=
  match lvl with
  | 0 => 8 * (cl % 2) + core
  | 1 => cl / 2 % 4
  | 2 => cl / 8 % 4
  | 3 => cl / 32
  | 4 => die
  | 5 => boardPort s dev
  | 6 => boardTrunk (rackNo s dev) (boardNo s dev)
  | _ => rackTrunk (rackNo s dev)

/-- A destination of R346: device, die, cluster and core. -/
def destOf (w : W32) : BitVec 12 × Nat × Nat × Nat :=
  (BitVec.ofNat 12 (nfld w.toNat 20 12), nfld w.toNat 17 3, nfld w.toNat 10 7, nfld w.toNat 7 3)

/-- The lowest level that holds this core and a destination (R13). -/
def commonLevel (s : State) (dest : W32) : Nat :=
  let (dev, die, cl, _) := destOf dest
  let c := s.loc.cluster.toNat
  if dev ≠ s.loc.dev then
    if rackNo s dev ≠ s.rack then 7 else if boardNo s dev = s.board then 5 else 6
  else if die ≠ s.loc.die.toNat then 4
  else if cl / 2 = c / 2 then 0 else if cl / 8 = c / 8 then 1 else if cl / 32 = c / 32 then 2 else 3

/-- A switch as a number: an L5 chip by its rack too, since two racks may number boards alike (R405). -/
def switchKey (lvl : Nat) (dev : BitVec 12) (idx rack : Nat) : Word :=
  entryNo lvl dev idx 0 + (if lvl = 5 then BitVec.ofNat 64 (rack % 2 ^ 20 * 2 ^ 44) else 0)

/-- The outputs of the up-then-down path to a destination: switch and port. -/
def pathTo (s : State) (dest : W32) : List (Word × BitVec 5) :=
  let top := commonLevel s dest
  let (dev, die, cl, core) := destOf dest
  let ups := (List.range top).map fun l =>
    (switchKey l s.loc.dev (switchIdx s l s.loc.dev s.loc.die.toNat s.loc.cluster.toNat) s.rack, BitVec.ofNat 5 (upPort l))
  let downs := (List.range (top + 1)).reverse.map fun l =>
    (switchKey l dev (switchIdx s l dev die cl) (rackNo s dev), BitVec.ofNat 5 (downPort s l dev die cl core))
  ups ++ downs

/-- LVL, DEV, IDX and VS of an entry number. -/
def enLvl (e : Word) : Nat := fld e 12 3

/-- DEV. -/
def enDev (e : Word) : BitVec 12 := BitVec.ofNat 12 (fld e 32 12)

/-- IDX. -/
def enIdx (e : Word) : Nat := fld e 16 16

/-- VS. -/
def enVs (e : Word) : Nat := fld e 0 12

/-- An entry; at reset its record is zero (R351). -/
def entryOf (s : State) (e : Word) : Entry :=
  (s.exchange.entries.find? fun x => x.num == e).getD { num := e, record := 0, stepped := none }

/-- Put an entry back. -/
def setEntry (s : State) (x : Entry) : State :=
  { s with exchange := { s.exchange with entries := (s.exchange.entries.filter fun y => y.num != x.num) ++ [x] } }

/-- CUR and NSM1. -/
def Entry.cur (x : Entry) : Nat := nfld x.record.toNat 2 2

/-- NSM1. -/
def Entry.nsm1 (x : Entry) : Nat := nfld x.record.toNat 0 2

/-- The set that governs a send cycle: the one before CUR for words not after the last marker (R353). -/
def Entry.setFor (x : Entry) (sent : Nat) : Nat :=
  match x.stepped with
  | some c => if sent ≤ c then (x.cur + x.nsm1) % (x.nsm1 + 1) else x.cur
  | none => x.cur

/-- IN, OUT and DOWN of a set, and its mode. -/
def Entry.inMask (x : Entry) (k : Nat) : Nat := nfld x.record.toNat (256 + 192 * k) 64

/-- OUT. -/
def Entry.outMask (x : Entry) (k : Nat) : Nat := nfld x.record.toNat (256 + 192 * k + 64) 64

/-- DOWN. -/
def Entry.downMask (x : Entry) (k : Nat) : Nat := nfld x.record.toNat (256 + 192 * k + 128) 64

/-- The mode. -/
def Entry.mode (x : Entry) (k : Nat) : Nat := nfld x.record.toNat (8 + 4 * k) 4

/-! The Bell class at the entries of a stream (R352, R357). -/

/-- The entries of a stream that a message of a device passes on its way to LEADER's device, this one, each with its
port: L5, and above it what their places need. -/
def streamPath (s : State) (vs : Nat) (dev : BitVec 12) : List (Word × Nat) :=
  let l5 := (entryNo 5 0 (boardNo s dev) vs, boardPort s dev)
  let l6 := (entryNo 6 0 (rackNo s dev) vs, boardTrunk (rackNo s dev) (boardNo s dev))
  let l7 := (entryNo 7 0 0 vs, rackTrunk (rackNo s dev))
  if dev = s.loc.dev then []
  else if rackNo s dev ≠ s.rack then [l5, l6, l7]
  else if boardNo s dev ≠ s.board then [l5, l6]
  else [l5]

/-- Do the entries of a stream pass on what comes from a device: each has its port in IN of the current set? DEDUCED: an
entry that nothing has written here does (log 81). -/
def streamPasses (s : State) (vs : Nat) (dev : BitVec 12) : Bool :=
  (streamPath s vs dev).all fun p =>
    (s.exchange.entries.find? fun x => x.num == p.1).all fun x => (x.inMask x.cur).testBit p.2

/-! Groups (R341, R345). -/

/-- The record of a group, where one is valid. -/
def groupOf (s : State) (gid : BitVec 12) : Option Nat :=
  (s.exchange.groups.toList.find? fun r => r.getLsbD 12 && (r.truncate 12 : BitVec 12) == gid).map (·.toNat)

/-- Any valid record: all of a module name one Bell group (R341). -/
def anyGroup (s : State) : Option Nat := (s.exchange.groups.toList.find? fun r => r.getLsbD 12).map (·.toNat)

/-- LEADER. -/
def grLeader (r : Nat) : BitVec 12 := BitVec.ofNat 12 (nfld r 116 12)

/-- ARRTO. -/
def grArrto (r : Nat) : Nat := nfld r 92 24

/-- LEAD. -/
def grLead (r : Nat) : Nat := nfld r 76 16

/-- LPART. -/
def grLpart (r : Nat) : Nat := nfld r 62 14

/-- NMEM. -/
def grNmem (r : Nat) : Nat := nfld r 52 10

/-- Is this module a member of the Bell group (R344, R357)? -/
def bellMember (s : State) : Bool := s.bell.state == 2 || s.bell.state == 3

/-- What a group gathers. -/
def phaseOf (s : State) (gid : BitVec 12) : Phase :=
  (s.exchange.phases.find? fun p => p.gid == gid).getD
    { gid := gid, who := none, counted := 0, first := none, mismatch := false, sent := false, arrivals := []
      round := 0, seq := 0 }

/-- Put it back. -/
def setPhase (s : State) (p : Phase) : State :=
  { s with exchange := { s.exchange with phases := (s.exchange.phases.filter fun q => q.gid != p.gid) ++ [p] } }

/-- Gather for the next phase. -/
def Phase.again (p : Phase) : Phase :=
  { p with who := none, counted := 0, first := none, mismatch := false, sent := false, arrivals := [], round := p.round + 1 }

/-- Change the released phases. -/
def modRuns (s : State) (f : Run → Run) : State :=
  { s with exchange := { s.exchange with runs := s.exchange.runs.map f } }

/-- Cores of this device that stand inside a scope (R320, R345). -/
def coresIn (s : State) (scope : Word) : Nat :=
  ((List.range 8192).filter fun n =>
    decide (n / 8 % 128 < presentClusters s.grade) && scopeHolds scope s.loc.dev
      (0#4 ++ s.loc.dev ++ BitVec.ofNat 3 (n / 1024) ++ BitVec.ofNat 7 (n / 8) ++ BitVec.ofNat 3 n ++ 0#7)).length

/-- The slot of a participant that stands at its XPH. -/
def atXph (s : State) (who : Option (BitVec 36 × BitVec 5)) : Option (Fin 11 × BitVec 5) :=
  match who with
  | none => none
  | some (sel, d) =>
    match localSlot s sel with
    | none => none
    | some i =>
      match (s.at i).act.blocked, due s i with
      | some _, .ins (.xph ..) => some (i, d)
      | _, _ => none

/-- XPH ends with a status, and the next instruction is due. -/
def endXph (s : State) (who : Option (BitVec 36 × BitVec 5)) (w : Word) : State :=
  match atXph s who with
  | none => s
  | some (i, d) =>
    let s1 := popDue (s.modAct i fun a => { a with blocked := none }) i
    let s2 := deliverG s1 i d w
    s2.setAt i (s2.at i).advance

/-- The gathering of a phase fails: its XPHs end with status 5, and a notice goes up BARVS (R345). -/
def failGather (s : State) (gid : BitVec 12) (detail : BitVec 28) (notice : Bool) : State :=
  let p := phaseOf s gid
  let s1 := setPhase (endXph s p.who (tokenWord 5 detail.toNat 0)) p.again
  if notice then out s1 (.event (.failureNotice gid detail)) else s1

/-! Release (R343, R345, R356). -/

/-- The reference count at which a released phase ends, at the multiplier in force. -/
def runEnd (s : State) (r : Run) : Nat := r.tick + (5 * r.len + s.clock.n - 1) / max 1 s.clock.n

/-- T: the first start tick LEAD from now, and no earlier than a clock change that Bell has due. -/
def chooseTick (s : State) (rec : Nat) : Nat :=
  let t := s.bell.due.foldl (fun t d => max t (1250 * d.2 + 160)) (s.clock.ref + grLead rec)
  (t + 4) / 5 * 5

/-- A release reaches this module: failed, late, or the start tick is set. While the module is breached its XPHs fail,
also one whose arrival went before the breach (R358). -/
def applyRelease (s : State) (gid : BitVec 12) (tick : Nat) (seq : BitVec 32) (fail : BitVec 28) : State :=
  let p := phaseOf s gid
  if !p.sent then s
  else if fail ≠ 0 then failGather s gid fail false
  else if s.bell.breached then failGather s gid 6 true
  else if tick < s.clock.ref then failGather s gid 2 true
  else
    let (len, _, _) := p.first.getD (1, false, 0)
    let r : Run := { gid := gid, who := p.who, len := len, tick := tick, seq := seq, started := false, failure := 0
                     breached := false }
    let s1 := setPhase s p.again
    after { s1 with exchange := { s1.exchange with runs := s1.exchange.runs ++ [r] } } tick (.startTick gid)

/-- LEADER has every arrival: it compares them, and chooses T. A breach fails the phase (R358). -/
def decidePhase (s : State) (rec : Nat) (gid : BitVec 12) : State :=
  let p := phaseOf s gid
  let same := match p.arrivals with
    | [] => true
    | a :: rest => rest.all fun b => a.2.1 == b.2.1 && a.2.2.1 == b.2.2.1 && a.2.2.2.1 == b.2.2.2.1
  let fail : BitVec 28 := if !same then 8 else if s.bell.breached || p.arrivals.any fun a => a.2.2.2.2 then 6 else 0
  let tick := chooseTick s rec
  let s1 := setPhase s { p with sent := true, seq := if fail = 0 then p.seq + 1 else p.seq }
  let s2 := if 1 < grNmem rec then out s1 (.event (.phaseRelease gid tick p.seq fail)) else s1
  applyRelease s2 gid tick p.seq fail

/-- The silent members of a group: those that its barrier stream dropped (R357). -/
def silentIn (s : State) (rec : Nat) : Nat := (s.bell.silent.filter fun d => d.2.contains (nfld rec 28 12)).length

/-- An arrival at LEADER: the entries of the barrier stream that it passes pass it on from their IN ports, and a silent
member is not waited for (R345, R352, R357). -/
def leaderArrive (s : State) (rec : Nat) (gid dev : BitVec 12) (len : Nat) (sc : Bool) (scope : Word) (breach : Bool) :
    State :=
  let p := phaseOf s gid
  if !streamPasses s (nfld rec 28 12) dev then s
  else
    let s1 := if p.arrivals.isEmpty then after s (s.clock.ref + grArrto rec) (.arrivalTimeout gid true p.round) else s
    let arr := (p.arrivals.filter fun a => a.1 != dev) ++ [(dev, len, sc, scope, breach)]
    let s2 := setPhase s1 { p with arrivals := arr }
    if grNmem rec - silentIn s rec ≤ arr.length then decidePhase s2 rec gid else s2

/-- The module's count is complete: one arrival goes up BARVS. -/
def moduleArrive (s : State) (rec : Nat) (gid : BitVec 12) : State :=
  let p := phaseOf s gid
  let (len, sc, scope) := p.first.getD (1, false, 0)
  if p.mismatch then failGather s gid 8 true
  else
    let s1 := setPhase s { p with sent := true }
    if grLeader rec = s.loc.dev then leaderArrive s1 rec gid s.loc.dev len sc scope s.bell.breached
    else out s1 (.event (.phaseArrival gid s.loc.dev len sc scope s.bell.breached))

/-- One participant more on this module. -/
def countXph (s : State) (rec : Nat) (gid : BitVec 12) (who : Option (BitVec 36 × BitVec 5)) (len : Nat) (sc : Bool)
    (scope : Word) : State :=
  let p := phaseOf s gid
  let first := p.first.getD (len, sc, scope)
  let s1 := if p.first.isNone then after s (s.clock.ref + grArrto rec) (.arrivalTimeout gid false p.round) else s
  let s2 := setPhase s1
    { p with who := who.orElse fun _ => p.who, counted := p.counted + 1, first := some first
             mismatch := p.mismatch || first != (len, sc, scope) }
  let need := if first.2.1 then max 1 (coresIn s first.2.2) else grLpart rec
  if need ≤ p.counted + 1 then moduleArrive s2 rec gid else s2

/-- Is another context of the core in a phase, or does it wait for a release (R342)? -/
def otherInPhase (s : State) : Bool :=
  (slots.any fun i => decide (i ≠ s.core.cur) && (s.at i).xch.inph)
    || (s.exchange.phases.any fun p => p.who.any fun w => w.1 != me s && (localSlot s w.1).isSome)
    || (s.exchange.runs.any fun r => !r.started && r.who.any fun w => w.1 != me s && (localSlot s w.1).isSome)

/-- Has the issuing context arrived already, before it was interrupted? -/
def arrivedAlready (s : State) : Bool :=
  (s.exchange.phases.any fun p => p.who.any fun w => w.1 == me s)
    || (s.exchange.runs.any fun r => !r.started && r.who.any fun w => w.1 == me s)

/-- XPH: the context stays at the instruction until the start tick, or until the phase fails (R345). -/
def execXph (d a b : BitVec 5) (s : State) : Host.Outcome State Fault Refusal :=
  let gw := gv s a
  let len := (gv s b).toNat
  let gid : BitVec 12 := gw.truncate 12
  let stay (t : State) : State := (undoIssue t).modAct t.core.cur fun x =>
    { x with blocked := some { h := gw, d := some d, op := none, kind := none, reserved := false } }
  .next (if fld gw 13 51 ≠ 0 ∨ len = 0 ∨ 2 ^ 20 < len ∨ s.ctx.xch.inph then trap s 6 gw
    else if otherInPhase s then stall s
    else if arrivedAlready s then stay s
    else match groupOf s gid with
      | none => retire (wg s d (tokenWord 5 9 0))
      | some rec =>
        if !bellMember s then retire (wg s d (tokenWord 5 9 0))
        else if (phaseOf s gid).sent then stall s
        else countXph (stay s) rec gid (some (me s, d)) len (gw.getLsbD 12) s.ctx.user.scope)

/-- PHASE_ARRIVAL: at LEADER from a member, or one more participant of this module (R345). -/
def execPhaseArrival (s : State) : Host.Outcome State Fault Refusal :=
  .next (match s.event with
    | some (.phaseArrival gid dev len sc scope breach) =>
      match groupOf s gid with
      | none => s
      | some rec =>
        if dev = s.loc.dev then
          if (phaseOf s gid).sent then send s (.phaseArrival gid dev len sc scope breach)
          else countXph s rec gid none len sc scope
        else if grLeader rec = s.loc.dev then leaderArrive s rec gid dev len sc scope breach
        else out s (.event (.phaseArrival gid dev len sc scope breach))
    | _ => s)

/-- PHASE_RELEASE (R345). -/
def execPhaseRelease (s : State) : Host.Outcome State Fault Refusal :=
  .next (match s.event with
    | some (.phaseRelease gid tick seq fail) => applyRelease s gid tick seq fail
    | _ => s)

/-- ARRIVAL_TIMEOUT: the count of LEADER, or of the module (R344, R345). -/
def execArrivalTimeout (s : State) : Host.Outcome State Fault Refusal :=
  .next (match s.event with
    | some (.arrivalTimeout gid leader round) =>
      let p := phaseOf s gid
      if p.round = round ∧ (leader ∨ !p.sent) then failGather s gid 1 true else s
    | _ => s)

/-- The first word of a released phase not yet started. -/
def startRun (s : State) (r : Run) : State :=
  let done := modRuns s fun x => if x.gid = r.gid ∧ !x.started then { x with started := true } else x
  let drop := { s with exchange := { s.exchange with runs := s.exchange.runs.filter fun x => !(x.gid == r.gid && !x.started) } }
  if r.failure ≠ 0 then endXph drop r.who (tokenWord 5 r.failure.toNat 0)
  else match r.who with
    | none => send done (.phaseEnd r.gid)
    | some _ =>
      match atXph s r.who with
      | none => failRun (send done (.phaseEnd r.gid)) r.gid 2
      | some (i, _) =>
        let s1 := (endXph done r.who (tokenWord 0 0 r.seq.toNat)).modCore fun c =>
          { c with recv := Vector.replicate 16 none }
        let c := s1.at i
        let s2 := s1.setAt i { c with xch :=
          { inph := true, ended := false, len := r.len, startCycle := s.clock.cycle, held := 0, gid := r.gid, words := 0, status := 0
            collided := none, breached := false } }
        send { s2 with exchange := { s2.exchange with
          outputs := (s2.exchange.outputs.filter fun o => decide (s.clock.cycle ≤ o.2.2.1)) } } (.phaseEnd r.gid)

/-- START_TICK (R343, R345). A participant that no longer stands at its XPH is late for the phase. -/
def execStartTick (s : State) : Host.Outcome State Fault Refusal :=
  .next (match s.event with
    | some (.startTick gid) =>
      match s.exchange.runs.find? fun r => r.gid == gid && !r.started with
      | none => s
      | some r => startRun s r
    | _ => s)

/-- The context that is in a phase of a group that has not ended. -/
def inPhase (s : State) (gid : BitVec 12) : Option (Fin 11) :=
  slots.find? fun i => (s.at i).xch.running && (s.at i).xch.gid == gid

/-- The cycle in which a started phase ends, on this core or by its tick. -/
def phaseEndDue (s : State) (gid : BitVec 12) : Bool :=
  match inPhase s gid with
  | some i => decide ((s.at i).xch.startCycle + (s.at i).xch.len ≤ s.clock.cycle)
  | none => (s.exchange.runs.find? fun r => r.gid == gid && r.started).all fun r => decide (runEnd s r ≤ s.clock.ref)

/-- PHASE_END: CYC has reached L, where XCYC holds it. INPH stays until XEND, which finds the status (R342, R343, R349). -/
def execPhaseEnd (s : State) : Host.Outcome State Fault Refusal :=
  .next (match s.event with
    | some (.phaseEnd gid) =>
      match s.exchange.runs.find? fun r => r.gid == gid && r.started with
      | none => s
      | some r =>
        let s1 := { s with exchange := { s.exchange with
          runs := (s.exchange.runs.filter fun x => !(x.gid == gid && x.started))
          outputs := (s.exchange.outputs.filter fun o => decide (s.clock.cycle < o.2.2.1)) } }
        match inPhase s gid with
        | none => s1
        | some i =>
          let c := s1.at i
          s1.setAt i { c with xch := { c.xch with
            ended := true, held := c.xch.len
            status := tokenWord (if r.failure = 0 then 0 else 5) r.failure.toNat c.xch.words
            collided := if r.failure = 3 then c.xch.collided else none
            breached := r.failure == 6 && r.breached } }
    | _ => s)

/-- FAILURE_NOTICE (R344). -/
def execFailureNotice (s : State) : Host.Outcome State Fault Refusal :=
  .next (match s.event with
    | some (.failureNotice gid detail) =>
      if s.exchange.runs.any fun r => r.gid == gid then
        modRuns s fun r => if r.gid = gid ∧ r.failure = 0 then { r with failure := detail } else r
      else if (phaseOf s gid).counted ≠ 0 ∨ (phaseOf s gid).sent then failGather s gid detail false
      else s
    | _ => s)

/-! Latency (R340, R346, R347). -/

/-- D of a top level, in ns. -/
def levelNs (lvl : Nat) : Nat :=
  match lvl with
  | 0 => 8
  | 1 => 16
  | 2 => 28
  | 3 => 44
  | 4 => 92
  | 5 => 252
  | 6 => 492
  | _ => 812

/-- Is a route word malformed (R346)? -/
def routeMalformed (r : Word) : Bool :=
  fld r 48 15 != 0 || fld r 36 8 != 0
    || (if r.getLsbD 63 then fld r 12 24 != 0 else fld r 32 4 != 0 || fld r 0 7 != 0)

/-- The top level of a route: for a stream, the highest level that holds an entry of it. -/
def routeTop (s : State) (r : Word) : Nat :=
  if r.getLsbD 63 then
    s.exchange.entries.foldl (fun m x =>
      if enVs x.num = fld r 0 12 ∧ x.record.toNat / 2 ^ 256 ≠ 0 ∧ (4 < enLvl x.num ∨ enDev x.num = s.loc.dev)
      then max m (enLvl x.num) else m) 0
  else commonLevel s (r.truncate 32)

/-- The latency of a route in core cycles, at the ceiling in force. -/
def latency (s : State) (r : Word) : Nat := (levelNs (routeTop s r) * s.bell.ceil.toNat + 31) / 32

/-! Words on the network (R347, R352, R353). -/

/-- Do two words meet at this output: one is due there in the same cycle already? -/
def metAt (s : State) (k : Word) (p : BitVec 5) (due : Nat) : Bool :=
  decide (2 ≤ (s.exchange.outputs.filter fun o => o.1 == k && o.2.1 == p && o.2.2.1 == due).length)

/-- Was a word discarded where it met another (R352)? -/
def wordDead (s : State) (w : XWord) : Bool := w.path.any fun o => metAt s o.1 o.2 w.due

/-- The senders of this core learn that a word of theirs met another (R349). -/
def markMet (w : XWord) (s : State) : State :=
  w.from'.foldl (fun t sel =>
    match localSlot t sel with
    | none => t
    | some i =>
      let c := t.at i
      if c.xch.inph ∧ c.xch.gid = w.gid then
        let k := w.sent - c.xch.startCycle
        let first : Word := BitVec.ofNat 64 (match c.xch.collided with
          | none => k
          | some o => min o.toNat k)
        t.setAt i { c with xch := { c.xch with collided := some first } }
      else t) s

/-- A word takes an output; a word due there in the same cycle and still whole meets it (R352). -/
def takeOutput (s : State) (k : Word) (p : BitVec 5) (w : XWord) : State × XWord :=
  if wordDead s w then (s, w)
  else
  let w1 := { w with path := w.path ++ [(k, p)] }
  let met := s.exchange.outputs.filter fun o => o.1 == k && o.2.1 == p && o.2.2.1 == w.due
    && !wordDead s { o.2.2.2 with path := o.2.2.2.path.dropLast }
  let s1 := if met.isEmpty then s
    else met.foldl (fun t o => failRun (markMet o.2.2.2 t) o.2.2.2.gid 3) (failRun (markMet w s) w.gid 3)
  ({ s1 with exchange := { s1.exchange with outputs := s1.exchange.outputs ++ [(k, p, w.due, w1)] } }, w1)

/-- A word takes the outputs of a path. -/
def takePath : List (Word × BitVec 5) → State → XWord → State × XWord
  | [], s, w => (s, w)
  | (k, p) :: rest, s, w =>
    let (s1, w1) := takeOutput s k p w
    takePath rest s1 w1

/-- The outputs that a word from another module takes on its way down to a core of this one, from the level that holds
both (R12, R350). -/
def downPath (s : State) (w : XWord) : List (Word × BitVec 5) :=
  let (dev, die, cl, core) := destOf w.dest
  let top := (w.from'.head?.map fun sel => commonLevel s (sel.truncate 32)).getD 4
  (List.range (top + 1)).reverse.map fun l =>
    (switchKey l dev (switchIdx s l dev die cl) (rackNo s dev), BitVec.ofNat 5 (downPort s l dev die cl core))

/-- A word or marker goes on to a port of an entry. -/
def toEntry (s : State) (e : Word) (port : Nat) (w : XWord) : State :=
  send s (if w.marker then .markerStep e (BitVec.ofNat 5 port) w else .combine e (BitVec.ofNat 5 port) w)

/-- Where a word goes from a port of an entry (R350). -/
def emit (s : State) (e : Word) (w : XWord) (port : Nat) : State :=
  let lvl := enLvl e
  let dev := enDev e
  let idx := enIdx e
  let vs := enVs e
  let (s1, w1) := takeOutput s (switchKey lvl dev idx (rackOfBoard s idx)) (BitVec.ofNat 5 port) w
  if port = upPort lvl ∧ lvl < 7 then
    match lvl with
    | 3 => toEntry s1 (entryNo 4 dev 0 vs) idx w1
    | 4 => toEntry s1 (entryNo 5 0 (boardNo s dev) vs) (boardPort s dev) w1
    | 5 => toEntry s1 (entryNo 6 0 (rackOfBoard s idx) vs) (boardTrunk (rackOfBoard s idx) idx) w1
    | 6 => toEntry s1 (entryNo 7 0 0 vs) (rackTrunk idx) w1
    | _ => toEntry s1 (entryNo (lvl + 1) dev (idx / 4) vs) (idx % 4) w1
  else match lvl with
    | 0 =>
      let cl := 2 * (idx % 64) + port / 8
      let dest : W32 := dev ++ BitVec.ofNat 3 (idx / 64) ++ BitVec.ofNat 7 cl ++ BitVec.ofNat 3 (port % 8) ++ 0#7
      if cl < presentClusters s.grade then send s1 (.wordDelivery { w1 with dest := dest }) else s1
    | 4 => toEntry s1 (entryNo 3 dev port vs) (upPort 3) w1
    | 5 =>
      if idx = s.board ∧ port = s.l5Port then toEntry s1 (entryNo 4 s.loc.dev 0 vs) (upPort 4) w1
      else out s1 (.word 5 idx port w1)
    | 6 => toEntry s1 (entryNo 5 0 (boardAt s idx port) vs) (upPort 5) w1
    | 7 => toEntry s1 (entryNo 6 0 (rackAt s port) vs) (upPort 6) w1
    | _ => toEntry s1 (entryNo (lvl - 1) dev (4 * idx + port) vs) (upPort (lvl - 1)) w1

/-- A word goes to every port of a mask. -/
def emitAll (e : Word) (mask : Nat) (w : XWord) (s : State) : State :=
  ((List.range (portCount (enLvl e))).filter fun p => mask.testBit p).foldl (fun t p => emit t e w p) s

/-- A NaN that an entry delivers is the canonical one (R352). -/
def fixNan (x : Nat) : Nat := if (fread 0 .fp32 x).isNan then canonNan .fp32 false else x

/-- Add two FP32 values under RoundRNE with no flush. -/
def addF32 (x y : Nat) : Nat := fixNan (fadd { md := 0, lfsr := 0, flags := 0 } .fp32 (fread 0 .fp32 x) (fread 0 .fp32 y)).1

/-- MIN or MAX of two FP32 values (R188). -/
def minmaxF32 (isMax : Bool) (x y : Nat) : Nat :=
  fixNan (fminmax { md := 0, lfsr := 0, flags := 0 } .fp32 isMax (fread 0 .fp32 x) (fread 0 .fp32 y)).1

/-- One lane of a mode (R351, R352). -/
def combineLane (mode : Nat) (w x y : Nat) : Nat :=
  let lt := decide (signedN x w ≤ signedN y w)
  match mode with
  | 1 => addF32 x y
  | 3 | 4 => (x + y) % 2 ^ w
  | 5 | 7 => if lt then x else y
  | 6 | 8 => if lt then y else x
  | 9 => minmaxF32 false x y
  | _ => minmaxF32 true x y

/-- The FP32 lanes of a word in ADDBF16: kept wide, or widened exactly. -/
def wideOf (w : XWord) : Nat :=
  match w.wide with
  | some x => x.toNat
  | none => (List.range 4).foldl (fun n i => n + nfld w.value.toNat (16 * i) 16 * 2 ^ (32 * i + 16)) 0

/-- Four FP32 lanes rounded once to BF16 (R352). -/
def narrowBf16 (x : Nat) : Nat :=
  (List.range 4).foldl (fun n i =>
    n + (floatToFloat { md := 16, lfsr := 0, flags := 0 } .fp32 .bf16 (fread 0 .fp32 (nfld x (32 * i) 32))).1 % 2 ^ 16
      * 2 ^ (16 * i)) 0

/-- Two words combine under a mode; a marker pair stays a marker (R352, R353). -/
def combineTwo (mode : Nat) (x y : XWord) : XWord :=
  let base := { x with from' := x.from' ++ y.from', path := x.path ++ y.path }
  if x.marker then base
  else if mode = 2 then
    let wx := wideOf x
    let wy := wideOf y
    let wide := (List.range 4).foldl (fun n i =>
      n + addF32 (nfld wx (32 * i) 32) (nfld wy (32 * i) 32) * 2 ^ (32 * i)) 0
    { base with wide := some (BitVec.ofNat 128 wide), value := BitVec.ofNat 64 (narrowBf16 wide) }
  else
    let w := if mode = 4 ∨ mode = 7 ∨ mode = 8 then 64 else 32
    let v := (List.range (64 / w)).foldl (fun n i =>
      n + combineLane mode w (nfld x.value.toNat (w * i) w) (nfld y.value.toNat (w * i) w) * 2 ^ (w * i)) 0
    { base with wide := none, value := BitVec.ofNat 64 v }

/-- What a combine entry delivers of one input alone: its NaNs canonical (R352). -/
def combineOne (mode : Nat) (x : XWord) : XWord :=
  if x.marker then x
  else match mode with
    | 2 =>
      let wide := (List.range 4).foldl (fun n i => n + fixNan (nfld (wideOf x) (32 * i) 32) * 2 ^ (32 * i)) 0
      { x with wide := some (BitVec.ofNat 128 wide), value := BitVec.ofNat 64 (narrowBf16 wide) }
    | 1 | 9 | 10 =>
      { x with wide := none
               value := BitVec.ofNat 64 (fixNan (nfld x.value.toNat 0 32) + fixNan (nfld x.value.toNat 32 32) * 2 ^ 32) }
    | _ => { x with wide := none }

/-- Words and markers of one send cycle on the ports of an entry, up or across (R352, R353). -/
def inward (s : State) (e : Word) (ws : List (Nat × XWord)) : State :=
  let x := entryOf s e
  match ws with
  | [] => s
  | (_, w0) :: _ =>
    let k := x.setFor w0.sent
    let inm := x.inMask k
    let good := ws.filter fun p => inm.testBit p.1
    let s1 := if good.length < ws.length then failRun s w0.gid 8 else s
    match good with
    | [] => s1
    | (_, g0) :: rest =>
      if rest.any fun p => p.2.marker != g0.marker then failRun s1 g0.gid 8
      else if x.mode k = 0 ∧ !g0.marker then good.foldl (fun t p => emitAll e (x.outMask k) p.2 t) s1
      else if !((List.range (portCount (enLvl e))).all fun p => !inm.testBit p || good.any fun q => q.1 == p) then
        failRun s1 g0.gid 4
      else
        let w := rest.foldl (fun acc p => combineTwo (x.mode k) acc p.2) (combineOne (x.mode k) g0)
        let s2 := emitAll e (x.outMask k) w s1
        if g0.marker then
          setEntry s2 { x with
            record := BitVec.ofNat 1024 (setFld x.record.toNat 2 2 ((k + 1) % (x.nsm1 + 1))), stepped := some g0.sent }
        else s2

/-- Is a message a word or marker of a group's send cycle that comes in at an entry from below or across? -/
def inwardOf (e : Word) (gid : BitVec 12) (sent : Nat) : Msg → Option (Nat × XWord)
  | .combine f p w | .markerStep f p w =>
    if f = e ∧ w.sent = sent ∧ w.gid = gid ∧ p.toNat ≠ upPort (enLvl e) then some (p.toNat, w) else none
  | _ => none

/-- Insert by port. -/
def insertPort (x : Nat × XWord) : List (Nat × XWord) → List (Nat × XWord)
  | [] => [x]
  | y :: rest => if x.1 ≤ y.1 then x :: y :: rest else y :: insertPort x rest

/-- A word or marker reaches a port of an entry: down from the up port, or with all that came in for its send
cycle (R352, R353). -/
def reachEntry (s : State) (e : Word) (port : BitVec 5) (w : XWord) : State :=
  if port.toNat = upPort (enLvl e) ∧ enLvl e < 7 then
    if wordDead s w then s
    else
      let x := entryOf s e
      emitAll e (x.downMask (x.setFor w.sent)) w s
  else
    let peers := s.agenda.filterMap (inwardOf e w.gid w.sent)
    let s1 := { s with agenda := s.agenda.filter fun m => (inwardOf e w.gid w.sent m).isNone }
    inward s1 e ((((port.toNat, w) :: peers).filter fun p => !wordDead s p.2).foldr insertPort [])

/-- COMBINE (R352). -/
def execCombine (s : State) : Host.Outcome State Fault Refusal :=
  .next (match s.event with
    | some (.combine e port w) => reachEntry s e port w
    | _ => s)

/-- MARKER_STEP (R353). -/
def execMarkerStep (s : State) : Host.Outcome State Fault Refusal :=
  .next (match s.event with
    | some (.markerStep e port w) => reachEntry s e port w
    | _ => s)

/-- Has a word come in from another module, and taken none of this one's outputs yet? -/
def wordEnters (w : XWord) : Bool := w.path.isEmpty

/-- WORD_DELIVERY: a word from another module takes the outputs on its way down; then into its receive slot in its cycle; a
word of another phase is discarded (R333, R344, R348, R352). -/
def execWordDelivery (s : State) : Host.Outcome State Fault Refusal :=
  .next (match s.event with
    | some (.wordDelivery w) =>
      if wordDead s w then s
      else if wordEnters w ∧ (destOf w.dest).1 = s.loc.dev then
        let (s1, w1) := takePath (downPath s w) s w
        send s1 (.wordDelivery w1)
      else if w.dest ≠ (selfId s 0).truncate 32 then out s (.event (.wordDelivery w))
      else match slots.find? fun i => (s.at i).xch.running with
        | none => s
        | some i =>
          let gid := (s.at i).xch.gid
          if w.gid ≠ gid ∨ w.due < (s.at i).xch.startCycle then s
          else if w.due < s.clock.cycle then failRun s gid 10
          else if s.exchange.runs.any fun r => r.gid == gid && r.started && r.failure != 0 then s
          else if s.core.recv[w.slot.toNat].isSome then failRun s gid 11
          else
            let v : Word := if w.marker then BitVec.ofNat 64 (fld w.value 32 32) else w.value
            s.modCore fun c => { c with recv := c.recv.set w.slot.toNat (some (v, w.marker)) }
    | _ => s)

/-! The instructions (R347 to R349, R353, R354). -/

/-- CYC of the issuing context: it holds at L (R342). -/
def cyc (s : State) : Nat := min s.ctx.xch.len (s.clock.cycle - s.ctx.xch.startCycle)

/-- The failure of the phase the issuing context is in, or 0. -/
def phaseFailure (s : State) : Nat :=
  match s.exchange.runs.find? fun r => r.gid == s.ctx.xch.gid && r.started with
  | some r => r.failure.toNat
  | none => 0

/-- One word more sent or received. -/
def countWord (s : State) : State := s.mod fun c => { c with xch := { c.xch with words := c.xch.words + 1 } }

/-- Put a word on the network (R340, R347). -/
def inject (s : State) (value route : Word) (marker : Bool) : State :=
  let w : XWord :=
    { value := value, marker := marker, stream := if route.getLsbD 63 then some (route.truncate 12) else none
      dest := BitVec.ofNat 32 (fld route 7 25 * 2 ^ 7), slot := BitVec.ofNat 4 (fld route 44 4), sent := s.clock.cycle
      due := s.clock.cycle + latency s route, from' := [me s], gid := s.ctx.xch.gid, path := [], wide := none }
  if route.getLsbD 63 then
    toEntry s (entryNo 0 s.loc.dev (switchIdx s 0 s.loc.dev s.loc.die.toNat s.loc.cluster.toNat) (fld route 0 12))
      (downPort s 0 s.loc.dev s.loc.die.toNat s.loc.cluster.toNat s.loc.core.toNat) w
  else
    let (s1, w1) := takePath (pathTo s w.dest) s w
    send s1 (.wordDelivery w1)

/-- XSND and XMRK once their operands are read: the checks, the cycle, the word (R347). -/
def sendAt (s : State) (cycle : Nat) (value route : Word) (marker : Bool) (done : State → Word → State) : State :=
  if cycle < cyc s ∨ s.ctx.xch.len ≤ cycle + latency s route then trap s 19 (BitVec.ofNat 64 cycle)
  else if cyc s < cycle then stall s
  else if phaseFailure s ≠ 0 then retire (done s (tokenWord 5 (phaseFailure s) 0))
  else retire (done (countWord (inject s value route marker)) (tokenWord 0 0 0))

/-- XSND (R347). -/
def execXsnd (d a b c : BitVec 5) (s : State) : Host.Outcome State Fault Refusal :=
  let route := gv s c
  .next (if !s.ctx.xch.inph ∨ routeMalformed route then trap s 6 route
    else sendAt s (gv s a).toNat (gv s b) route false fun t w => wg t d w)

/-- XMRK (R353). -/
def execXmrk (a b : BitVec 5) (s : State) : Host.Outcome State Fault Refusal :=
  let route := gv s a
  let m := gv s b
  .next (if !s.ctx.xch.inph ∨ routeMalformed route ∨ !route.getLsbD 63 then trap s 6 route
    else if fld m 21 11 ≠ 0 then trap s 6 m
    else sendAt s (fld m 0 21) m route true fun t _ => t)

/-- XRCV (R348). -/
def execXrcv (d a b c : BitVec 5) (s : State) : Host.Outcome State Fault Refusal :=
  let sl := gv s c
  let r := (gv s a).toNat
  .next (if !s.ctx.xch.inph ∨ fld sl 4 60 ≠ 0 then trap s 6 sl
    else if r < cyc s ∨ s.ctx.xch.len ≤ r then trap s 19 (BitVec.ofNat 64 r)
    else if cyc s < r then stall s
    else
      let k : BitVec 4 := sl.truncate 4
      match s.core.recv[k.toNat] with
      | some (v, marker) =>
        let s1 := (countWord s).modCore fun x => { x with recv := x.recv.set k.toNat none }
        retire (wg (wg s1 b v) d (tokenWord 0 marker.toNat 1))
      | none =>
        if phaseFailure s ≠ 0 then retire (wg (wg s b 0) d (tokenWord 5 (phaseFailure s) 0))
        else trap s 19 (BitVec.ofNat 64 (k.toNat * 2 ^ 32 + r)))

/-- XEND: once CYC has reached L it clears INPH, and then traps or writes the status (R349). -/
def execXend (d : BitVec 5) (s : State) : Host.Outcome State Fault Refusal :=
  let x := s.ctx.xch
  .next (if x.running then stall s
    else
      let s1 := s.mod fun y => { y with xch := { y.xch with inph := false } }
      match x.collided with
      | some c =>
        takeTrap ((undoIssue s1).mod fun y => { y with xch := { y.xch with collided := none } }) { code := 20, tval := c }
      | none =>
        if x.breached then
          takeTrap ((undoIssue s1).mod fun y => { y with xch := { y.xch with breached := false } })
            { code := 21, tval := BitVec.ofNat 64 (s.bell.ceil.toNat * 2 ^ 6 + s.clock.n % 2 ^ 6) }
        else retire (wg s1 d x.status))

/-- Is an entry number malformed (R354)? -/
def entryMalformed (e : Word) : Bool :=
  let l := enLvl e
  fld e 44 20 != 0 || e.getLsbD 15 || (decide (4 < l) && fld e 32 12 != 0)
    || (match l with
      | 0 => decide (512 ≤ enIdx e)
      | 1 => decide (128 ≤ enIdx e)
      | 2 => decide (32 ≤ enIdx e)
      | 3 => decide (8 ≤ enIdx e)
      | 4 | 7 => enIdx e != 0
      | _ => false)

/-- The value for which R351 refuses a record, at a level. -/
def recordRefusal (lvl : Nat) (r : BitVec 1024) : Option Word :=
  let n := r.toNat
  let low : Word := BitVec.ofNat 64 (nfld n 0 64)
  if nfld n 24 232 ≠ 0 ∨ nfld n 4 4 ≠ 0 ∨ nfld n 0 2 < nfld n 2 2
      ∨ ([0, 1, 2, 3].any fun k => decide (10 < nfld n (8 + 4 * k) 4)) then some low
  else
    let masks := [0, 1, 2, 3].flatMap fun k => [0, 1, 2].map fun j => (j, nfld n (256 + 192 * k + 64 * j) 64)
    (masks.find? fun m => decide (2 ^ portCount lvl ≤ m.2) || (m.1 == 2 && decide (lvl < 7) && m.2.testBit (upPort lvl))).map
      fun m => BitVec.ofNat 64 m.2

/-- The port that carries the exchange and Bell flits of the trunk: its lowest-numbered in RUN that no fence stops
(R350, R396). -/
def trunkPort (s : State) : Option Nat :=
  (List.range 32).find? fun p => (s.hw.ports.toList[p]?.any fun x => x.state == .run)
    && !(s.hw.fences.any fun f => f.unit == .port p && f.state != 0)

/-- Does an entry lie beyond the module's ports: on a switch chip, or on another module? -/
def entryAway (s : State) (e : Word) : Bool := decide (5 ≤ enLvl e) || enDev e != s.loc.dev

/-- The port that a request to such an entry takes; none where nothing answers. -/
def entryPort (s : State) (e : Word) : Option Nat :=
  if 5 ≤ enLvl e then trunkPort s
  else if deviceThere s (enDev e) then some (Config.pathPort (enDev e)).toNat else none

/-- XVS: the context stays until the switch acknowledges; a switch of another module lies outside the model. Where no
port leads to its switch, which then does not answer, it is PEER (R354). -/
def execXvs (a b : BitVec 5) (s : State) : Host.Outcome State Fault Refusal :=
  let e := gv s a
  .next (if s.ctx.level ≠ .s then trapPriv s
    else if entryMalformed e then trap s 6 e
    else match checkSpan .read 64 2 s (gv s b) with
      | .fault s1 c ea => trap s1 c ea
      | .held s1 => stall s1
      | .ok s1 pas =>
        let r := BitVec.ofNat 1024 (natLE (readSpan s1 64 pas))
        match recordRefusal (enLvl e) r with
        | some v => trap s1 6 v
        | none =>
          if entryAway s e ∧ (entryPort s e).isNone then trap s1 15 e
          else
          let s2 := (undoIssue s1).modAct s1.core.cur fun x =>
            { x with blocked := some { h := e, d := none, op := none, kind := none, reserved := false } }
          if enLvl e < 5 ∧ enDev e ≠ s.loc.dev then out s2 (.event (.entryReplace e r (me s)))
          else send s2 (.entryReplace e r (me s)))

/-- ENTRY_REPLACE: in one step, and acknowledged (R354). -/
def execEntryReplace (s : State) : Host.Outcome State Fault Refusal :=
  .next (match s.event with
    | some (.entryReplace e r who) =>
      let s1 := setEntry s { num := e, record := r, stepped := none }
      if ofCore s who then send s1 (.homeAnswer (.done 0 none none) who)
      else out s1 (.event (.homeAnswer (.done 0 none none) who))
    | _ => s)

end Sys2Proof.Machine
end

