-- ==== Sys2Proof/Machine/Bell.lean ====
section
/-!
DEFINITION. Bell: the ceiling of a group, its members, and breaches (R355 to R358).
-/

namespace Sys2Proof.Machine

/-- The epoch of a reference count (R356). -/
def epochOf (ref : Nat) : Nat := ref / 1250

/-- Is this module LEADER of its Bell group? -/
def isLeader (s : State) : Bool := (anyGroup s).any fun r => grLeader r == s.loc.dev

/-- Every running phase of the group fails (R357, R358); all groups of a module are in one Bell group. -/
def failAllRuns (detail : BitVec 28) (s : State) : State :=
  s.exchange.runs.foldl (fun t r => failRun t r.gid detail) s

/-- The next epoch boundary is armed once. -/
def armEpoch (s : State) : State :=
  if (s.timers.any fun t => t.2 == .epochBoundary) || (inAgenda s fun m => m == .epochBoundary) then s
  else after s (1250 * (epochOf s.clock.ref + 1)) .epochBoundary

/-- A clock at another multiplier: it goes on at the next of the new clock's edges, of which n fall in the 5 reference cycles
of a tick (R15, R343). -/
def Clock.setN (k : Clock) (n : Nat) : Clock :=
  let m := max 1 k.n
  let edges := ((k.ref % 5 * m + k.refFrac) * n + 5 * m - 1) / (5 * m)
  { k with n := n, ref := k.ref - k.ref % 5 + 5 * edges / max 1 n, refFrac := 5 * edges % max 1 n }

/-- The clock changes to a multiplier: the cores issue nothing for 160 reference cycles (R356). -/
def changeClock (s : State) (n : Nat) : State :=
  if s.clock.n = n then s
  else
    let s1 := { s with clock := s.clock.setN n }
    after (s1.modCore fun c => { c with settle := s.clock.ref + 160 }) (s.clock.ref + 160) .clockSettle

/-- A multiplier lies from 20 to 40 (R15, R355). -/
def clampN (r : BitVec 6) : BitVec 6 := if r.toNat < 20 then 20 else if 40 < r.toNat then 40 else r

/-- Is the module a member of a Bell group: MEMBER, or LEAVING until its leave takes effect (R357)? -/
def isMember (s : State) : Bool := s.bell.state == 2 || s.bell.state == 3

/-- A ceiling applies, to a member's clock too (R356); a breach is over once the ceiling has fallen to the module's
clock (R358). -/
def applyCeil (s : State) (r : BitVec 6) : State :=
  let breached := s.bell.breached && decide (s.clock.n < r.toNat)
  let s1 := { s with bell := { s.bell with ceil := r, breached := breached } }
  if breached ∨ !isMember s then s1 else changeClock s1 r.toNat

/-- The ceilings due at a boundary. -/
def applyDue (k : Nat) : List (BitVec 6 × Nat) → State → State
  | [], s => s
  | (r, j) :: rest, s =>
    if j ≤ k then applyDue k rest (applyCeil { s with bell := { s.bell with due := s.bell.due.erase (r, j) } } r)
    else applyDue k rest s

/-- Clear the VALID bits of the group table (R357). -/
def clearGroups (s : State) : State :=
  { s with exchange := { s.exchange with groups := s.exchange.groups.map fun r => r &&& ~~~ BitVec.twoPow 128 12 } }

/-- The devices whose joining or leaving takes effect at a boundary (R357). -/
def dueDevs (k : Nat) (l : List (BitVec 12 × Nat)) : List (BitVec 12) := (l.filter fun d => decide (d.2 ≤ k)).map (·.1)

/-- Members join at a boundary, running at CEIL by then (R357). -/
def applyJoins (k : Nat) (s : State) : State :=
  let now := dueDevs k s.bell.joining
  let s1 := { s with bell := { s.bell with
    joining := s.bell.joining.filter fun d => decide (k < d.2)
    members := (s.bell.members.filter fun m => !now.contains m.1) ++ now.map fun d => (d, 0)
    silent := s.bell.silent.filter fun d => !now.contains d.1
    state := if now.contains s.loc.dev then 2 else s.bell.state } }
  if now.contains s.loc.dev then changeClock s1 s1.bell.ceil.toNat else s1

/-- Members leave at a boundary; the records of a module that left are invalid (R357). -/
def applyLeaves (k : Nat) (s : State) : State :=
  let now := dueDevs k s.bell.leaving
  let s1 := { s with bell := { s.bell with
    leaving := s.bell.leaving.filter fun d => decide (k < d.2)
    members := s.bell.members.filter fun m => !now.contains m.1
    state := if now.contains s.loc.dev then 0 else s.bell.state } }
  if now.contains s.loc.dev then clearGroups s1 else s1

/-- An entry drops a port from IN of every set. -/
def Entry.drop (port : Nat) (x : Entry) : Entry :=
  { x with record := (List.range 4).foldl (fun r k =>
      BitVec.ofNat 1024 (setFld r.toNat (256 + 192 * k + port) 1 0)) x.record }

/-- A stream drops a silent member's port from IN, and a board's or a rack's of which nothing is left (R357). -/
def dropAlong : List (Word × Nat) → State → State
  | [], s => s
  | (e, port) :: rest, s =>
    match s.exchange.entries.find? fun x => x.num == e with
    | none => s
    | some x =>
      let y := x.drop port
      let s1 := setEntry s y
      if (List.range 4).all fun k => y.inMask k == 0 then dropAlong rest s1 else s1

/-- The barrier streams of the valid groups. -/
def barStreams (s : State) : List Nat :=
  ((s.exchange.groups.toList.filter fun r => r.getLsbD 12).map fun r => nfld r.toNat 28 12).eraseDups

/-- The barrier streams, and the Bell stream, of the valid groups. -/
def groupStreams (s : State) : List Nat :=
  (barStreams s ++ (s.exchange.groups.toList.filter fun r => r.getLsbD 12).map fun r => nfld r.toNat 40 12).eraseDups

/-- Every stream of the groups drops a device. -/
def dropMember (s : State) (dev : BitVec 12) : State :=
  (groupStreams s).foldl (fun t vs => dropAlong (streamPath t vs dev) t) s

/-- A member silent for 3 epochs is declared silent (R357). -/
def applySilence (s : State) : State :=
  let now := (s.bell.members.filter fun m => decide (3 ≤ m.2)).map (·.1)
  if now.isEmpty then s
  else
    let s1 := { s with bell := { s.bell with
      members := s.bell.members.filter fun m => !now.contains m.1
      silent := s.bell.silent ++ now.map fun d => (d, (barStreams s).filter fun vs => streamPasses s vs d) } }
    failAllRuns 5 (now.foldl dropMember s1)

/-- Has the group members outside this module? -/
def remoteMembers (s : State) : Bool :=
  (s.bell.members ++ s.bell.joining).any fun m => m.1 != s.loc.dev

/-- EPOCH_BOUNDARY (R356, R357): due ceilings apply, membership changes, and this module sends its ANN up BELLVS.
Where other modules contribute, what arrives at the combination comes from outside. -/
def execEpochBoundary (s : State) : Host.Outcome State Fault Refusal :=
  .next (match s.event with
    | some .epochBoundary =>
      let k := epochOf s.clock.ref
      let s1 := applySilence (applyLeaves k (applyJoins k (applyDue k s.bell.due s)))
      if s1.bell.state = 0 ∧ s1.bell.members.isEmpty ∧ s1.bell.joining.isEmpty then s1
      else
        let s2 := armEpoch { s1 with bell := { s1.bell with carried := s1.bell.ann } }
        if isLeader s2 ∧ !remoteMembers s2 then after s2 (s.clock.ref + 625) (.contributionCutoff [])
        else if isLeader s2 then s2 else out s2 (.contribution s1.bell.ann)
    | _ => s)

/-- The first boundary from a number on at which no released phase runs or starts in the settling time (R356). -/
def freeBoundary (s : State) : Nat → Nat → Nat
  | 0, j => j
  | n + 1, j =>
    if (s.exchange.runs.any fun r => decide (1250 * j < runEnd s r) && decide (r.tick < 1250 * j + 160)) then
      freeBoundary s n (j + 1) else j

/-- The boundary LEADER chooses for a result: no released phase outlasts 1,100 epochs. -/
def chooseBoundary (s : State) (k : Nat) : Nat := freeBoundary s 1200 (k + 2)

/-- Did a device contribute? -/
def contributed (arrived : List (BitVec 12 × BitVec 6)) (dev : BitVec 12) : Bool := arrived.any fun a => a.1 == dev

/-- A result reaches this module (R356). -/
def takeResult (s : State) (r : BitVec 6) (j : Nat) : State :=
  let r := clampN r
  let last := (s.bell.due.getLast?.map (·.1)).getD s.bell.ceil
  { s with bell := { s.bell with next := r, due := if r = last then s.bell.due else s.bell.due ++ [(r, j)] } }

/-- CONTRIBUTION_CUTOFF: LEADER's minimum over what has arrived through the entries' IN ports, and the boundary (R352,
R356, R357). -/
def execContributionCutoff (s : State) : Host.Outcome State Fault Refusal :=
  .next (match s.event with
    | some (.contributionCutoff arrived) =>
      if !isLeader s then s
      else
        let k := epochOf s.clock.ref
        let own := (s.loc.dev, s.bell.carried)
        let vs := ((anyGroup s).map fun r => nfld r 40 12).getD 0
        let all := own :: arrived.filter fun a => a.1 != s.loc.dev && streamPasses s vs a.1
          && ((s.bell.members.any fun m => m.1 == a.1) || (s.bell.joining.any fun j => j.1 == a.1))
        let r := all.foldl (fun m a => if a.2.toNat < m.toNat then a.2 else m) s.bell.carried
        let s1 := { s with bell := { s.bell with
          members := (s.bell.members.map fun m => if contributed all m.1 then (m.1, 0) else (m.1, m.2 + 1)) } }
        let j := chooseBoundary s k
        let s2 := takeResult s1 r j
        if remoteMembers s then out s2 (.event (.bellResult r j)) else s2
    | _ => s)

/-- BELL_RESULT (R356). -/
def execBellResult (s : State) : Host.Outcome State Fault Refusal :=
  .next (match s.event with
    | some (.bellResult r j) => armEpoch (takeResult s r j)
    | _ => s)

/-- CLOCK_SETTLE (R356). -/
def execClockSettle (s : State) : Host.Outcome State Fault Refusal :=
  .next (match s.event with
    | some .clockSettle => if s.core.settle ≤ s.clock.ref then s.modCore fun c => { c with settle := 0 } else s
    | _ => s)

/-- JOIN: a member at the fourth boundary after the request; this module asks only with reference lock (R357; log 82). -/
def execJoin (s : State) : Host.Outcome State Fault Refusal :=
  .next (match s.event with
    | some (.join dev) =>
      let own := decide (dev = s.loc.dev)
      if own ∧ !s.clock.locked then s
      else
      let s1 := { s with bell := { s.bell with
        joining := (s.bell.joining.filter fun d => d.1 != dev) ++ [(dev, epochOf s.clock.ref + 4)]
        state := if own && s.bell.state == 0 then 1 else s.bell.state } }
      armEpoch (if own ∧ !isLeader s then out s1 (.event (.join dev)) else s1)
    | _ => s)

/-- LEAVE: it takes effect at the second boundary after the announcement (R357). -/
def execLeave (s : State) : Host.Outcome State Fault Refusal :=
  .next (match s.event with
    | some (.leave dev) =>
      let own := decide (dev = s.loc.dev)
      let s1 := { s with bell := { s.bell with
        leaving := (s.bell.leaving.filter fun d => d.1 != dev) ++ [(dev, epochOf s.clock.ref + 2)]
        state := if own && s.bell.state != 0 then 3 else s.bell.state } }
      armEpoch (if own ∧ !isLeader s then out s1 (.event (.leave dev)) else s1)
    | _ => s)

/-- The module lowers its clock at once, and its limit goes into ANN; below CEIL that is a breach (R358). -/
def breachTo (s : State) (limit : BitVec 6) : State :=
  let limit := clampN limit
  let s1 := { s with
    clock := s.clock.setN (min s.clock.n limit.toNat)
    bell := { s.bell with ann := limit } }
  if limit.toNat < s.bell.ceil.toNat ∧ isMember s then
    let s2 := failAllRuns 6 { s1 with bell := { s1.bell with breached := true } }
    modRuns s2 fun r => { r with breached := true }
  else s1

/-- The controller's limit: outside a group it sets n; a joining module, which is outside it till it joins, announces it
too; a member announces it (R15, R16, R356). DEDUCED: the cores pause for 160 reference cycles at this change of clock too,
as at a Bell boundary (log 48). -/
def controlN (s : State) (limit : BitVec 6) : State :=
  let n := clampN limit
  let s1 := if s.bell.state = 0 then s else { s with bell := { s.bell with ann := n } }
  if isMember s then s1 else changeClock s1 n.toNat

/-- BREACH (R358). -/
def execBreach (s : State) : Host.Outcome State Fault Refusal :=
  .next (match s.event with
    | some (.breach limit) => breachTo s limit
    | _ => s)

end Sys2Proof.Machine
end

