-- ==== Sys2Proof/Machine/Control.lean ====
section
/-!
DEFINITION. Transfers of control and RPT (R113, R136, R137, R139, R140, R163, R165).
-/

namespace Sys2Proof.Machine

/-- The queue after a transfer issues, taken or not: its target, its nullified slots and its delay slots
(R136). -/
def Queue.transfer (q : Queue) (taken : Bool) (target : Word) (nul : BitVec 2) : Queue :=
  let q1 := q.shift (if taken then target else q.q2 + 4)
  let n := (taken && nul == 1) || (!taken && nul == 2)
  { q1 with n0 := n || q1.n0, n1 := n || q1.n1, d0 := true, d1 := true }

/-- A transfer issues. -/
def transferTo (s : State) (taken : Bool) (target : Word) (nul : BitVec 2) : State :=
  (s.mod fun c => { c with queue := c.queue.transfer taken target nul }).modCore fun c =>
    { c with undo := none }

/-- The target of a branch: its own address and 4 × SExt(disp, 11) (R163). -/
def branchTarget (s : State) (disp : BitVec 11) : Word := s.ctx.pc + disp.signExtend 64 * 4

/-- The target of J and CALL (R163). -/
def jumpTarget (s : State) (disp : BitVec 26) : Word := s.ctx.pc + disp.signExtend 64 * 4

/-- CALL and CALLR write g31 := A + 12 (R136, R163). -/
def linked (s : State) : State := wg s 31 (s.ctx.pc + 12)

/-- BEQ (R113, R163). -/
def execBeq (a b : BitVec 5) (nul : BitVec 2) (disp : BitVec 11) (s : State) :
    Host.Outcome State Fault Refusal :=
  .next (transferTo s (gv s a == gv s b) (branchTarget s disp) nul)

/-- BNE (R113, R163). -/
def execBne (a b : BitVec 5) (nul : BitVec 2) (disp : BitVec 11) (s : State) :
    Host.Outcome State Fault Refusal :=
  .next (transferTo s (gv s a != gv s b) (branchTarget s disp) nul)

/-- BLT (R113, R163). -/
def execBlt (a b : BitVec 5) (nul : BitVec 2) (disp : BitVec 11) (s : State) :
    Host.Outcome State Fault Refusal :=
  .next (transferTo s (decide ((gv s a).toInt < (gv s b).toInt)) (branchTarget s disp) nul)

/-- BGE (R113, R163). -/
def execBge (a b : BitVec 5) (nul : BitVec 2) (disp : BitVec 11) (s : State) :
    Host.Outcome State Fault Refusal :=
  .next (transferTo s (decide ((gv s b).toInt ≤ (gv s a).toInt)) (branchTarget s disp) nul)

/-- BLTW (R113, R163). -/
def execBltw (a b : BitVec 5) (nul : BitVec 2) (disp : BitVec 11) (s : State) :
    Host.Outcome State Fault Refusal :=
  .next (transferTo s (decide ((gv s a).toNat < (gv s b).toNat)) (branchTarget s disp) nul)

/-- BGEW (R113, R163). -/
def execBgew (a b : BitVec 5) (nul : BitVec 2) (disp : BitVec 11) (s : State) :
    Host.Outcome State Fault Refusal :=
  .next (transferTo s (decide ((gv s b).toNat ≤ (gv s a).toNat)) (branchTarget s disp) nul)

/-- BBS (R113, R163). -/
def execBbs (a b : BitVec 5) (nul : BitVec 2) (disp : BitVec 11) (s : State) :
    Host.Outcome State Fault Refusal :=
  .next (transferTo s ((gv s a).getLsbD b.toNat) (branchTarget s disp) nul)

/-- BBC (R113, R163). -/
def execBbc (a b : BitVec 5) (nul : BitVec 2) (disp : BitVec 11) (s : State) :
    Host.Outcome State Fault Refusal :=
  .next (transferTo s (!(gv s a).getLsbD b.toNat) (branchTarget s disp) nul)

/-- J (R163). -/
def execJ (disp : BitVec 26) (s : State) : Host.Outcome State Fault Refusal :=
  .next (transferTo s true (jumpTarget s disp) 0)

/-- CALL (R163). -/
def execCall (disp : BitVec 26) (s : State) : Host.Outcome State Fault Refusal :=
  .next (transferTo (linked s) true (jumpTarget s disp) 0)

/-- JR (R163). -/
def execJr (a : BitVec 5) (s : State) : Host.Outcome State Fault Refusal :=
  .next (transferTo s true (gv s a) 0)

/-- CALLR reads g[a] before it writes g31 (R163). -/
def execCallr (a : BitVec 5) (s : State) : Host.Outcome State Fault Refusal :=
  .next (transferTo (linked s) true (gv s a) 0)

/-- RET jumps to g31 (R163). -/
def execRet (s : State) : Host.Outcome State Fault Refusal := .next (transferTo s true (gv s 31) 0)

/-- The frame an RPT at the issuing address opens (R165). -/
def rptFrame (s : State) (n : BitVec 4) (count : BitVec 10) (sd sa sb : BitVec 2) : RepFrame :=
  { words := [], base := s.ctx.pc + 4, nm1 := n, cm1 := count, sd := sd, sa := sa, sb := sb, iter := 0
    slot := 0, again := false, bad := none }

/-- RPT: the capture, and then the frame stands for issue (R139, R140, R165). -/
def execRpt (n : BitVec 4) (count : BitVec 10) (sd sa sb : BitVec 2) (s : State) :
    Host.Outcome State Fault Refusal :=
  let f := rptFrame s n count sd sa sb
  .next (match capture s s.ctx.longMode f with
    | .check c a => captureCheck s f c a
    | .ill iter slot w => captureIll s iter slot w
    | .ok ws => (retire s).mod fun c => { c with frame := some { f with words := ws } })

end Sys2Proof.Machine
end

