-- ==== Sys2Proof/Machine/Fabric.lean ====
section
/-!
DEFINITION. The fabric: host accesses, the link layer, and the lock and key states of a port (R336 to R339,
R359 to R361).
-/

namespace Sys2Proof.Machine

/-! Host accesses (R339). -/

/-- The access of a host at its target device; it belongs to no slot. -/
def hostAccess (h : HostAcc) : Access :=
  { who := 15#4 ++ h.dev ++ 0#20, seq := 0, after := 0, kind := h.kind, ea := h.pa, pa := h.pa.toNat, size := h.size
    data := h.data.zeroExtend 256, cmp := h.cmp, dst := .none, layout := 0, lease := 0, mode := 0, seed := 0 }

/-- Does a physical address lie in the TCM of some core below its BOUND (R106, R339)? -/
def belowAnyBound (s : State) (pa : Nat) : Bool :=
  let a := pa % 2 ^ 52
  let core : W32 := BitVec.ofNat 32 (s.loc.dev.toNat * 2 ^ 20 + nfld a 15 25 * 2 ^ 7)
  belowBound s pa
    || (decide (3 * 2 ^ 40 ≤ a) && decide (a < 2 ^ 42) && decide ((selfId s 0).truncate 32 ≠ core)
      && decide (a % 2 ^ 15 < Config.otherBound core s.tick))

/-- The bank port of a host: the fabric port, under a number of the host's own (R253). -/
def hostPort (dev : BitVec 12) : Nat := 8 + 16 * (dev.toNat + 1)

/-- The lock bits that a host's access needs (R252). -/
def hostKeys (h : HostAcc) : List Nat :=
  if h.kind ≠ .load ∧ inScratch h.pa.toNat then lockKeys h.pa.toNat h.size else []

/-- HOST_ACCESS (R339): a store or atomic to a scratchpad keeps the order of the banks (R253); a module that has left its
domain answers PEER (R397). -/
def execHostAccess (s : State) : Host.Outcome State Fault Refusal :=
  .next (match s.event with
    | some (.hostAccess h) =>
      let reply (t : State) (v : Word) (c : BitVec 8) : State := out t (.hostResponse h.dev h.tag v c)
      let keys := hostKeys h
      if h.pa.toNat / 2 ^ 52 ≠ s.loc.dev.toNat then out s (.event (.hostAccess h))
      else if 8 ≤ s.hw.control.leaving then reply s 0 15
      else if isSystemSpace h.pa.toNat ∨ belowAnyBound s h.pa.toNat ∨ h.pa.toNat % max 1 h.size ≠ 0 then reply s 0 15
      else if engineRefused s (hostPort h.dev) keys then send (engineLost s (hostPort h.dev) keys) (.hostAccess h)
      else
        match homeStep (engineServed s (hostPort h.dev) keys) (hostAccess h) with
        | (s1, .value x _) => reply s1 (x.truncate 64) 0
        | (s1, .stored) => reply s1 0 0
        | (s1, .failed c) => reply s1 0 c
        | (s1, .refused) => send s1 (.hostAccess h)
        | (s1, .held) => send s1 (.hostAccess h)
    | _ => s)

/-! Ports. -/

/-- A port of the module. -/
def portAt (s : State) (p : BitVec 5) : Port := s.hw.ports[p.toNat]

/-- Put a port back. -/
def setPort (s : State) (p : BitVec 5) (x : Port) : State :=
  { s with hw := { s.hw with ports := s.hw.ports.set p.toNat x } }

/-- The phases whose routes leave the module, by the trunk's port, fail with LINK (R360, R396). -/
def failLink (s : State) : State :=
  s.exchange.runs.foldl (fun t r =>
    if (groupOf s r.gid).any fun g => decide (1 < grNmem g) then failRun t r.gid 10 else t) s

/-- Does the path to a device take a port (R337)? -/
def pathUses (s : State) (p : BitVec 5) (dev : BitVec 12) : Bool := dev != s.loc.dev && Config.pathPort dev == p

/-- A request or an answer in flight through a port that enters ERROR is lost to its sender: it fails with PEER (R173,
R360). -/
def loseMsg (s : State) (p : BitVec 5) (m : Msg) : Msg :=
  let lost (a : Access) : Msg := match accessResult s a 0 0 15 with
    | some r => .resultArrival r
    | none => storeAck s a 15
  match m with
  | .accessAtHome a | .lockRetry a _ => if pathUses s p (BitVec.ofNat 12 (a.pa / 2 ^ 52)) then lost a else m
  | .resultArrival r => if r.far.any (pathUses s p) then .resultArrival { r with cause := 15, flags := 0 } else m
  | .storeAcknowledgement w _ ea far => if far.any (pathUses s p) then .storeAcknowledgement w 15 ea far else m
  | m => m

/-- The XVSs that await a switch beyond a port trap PEER (R354, R360). -/
def loseXvs (p : BitVec 5) : List (Fin 11) → State → State
  | [], s => s
  | i :: rest, s =>
    loseXvs p rest (match (s.at i).act.blocked, due s i with
      | some a, .ins (.xvs ..) =>
        if entryAway s a.h ∧ entryPort s a.h = some p.toNat then
          send { s with agenda := s.agenda.filter fun m => match m with
            | .entryReplace _ _ who => who != selfId s i
            | _ => true } (.homeAnswer (.fault 15 a.h false) (selfId s i))
        else s
      | _, _ => s)

/-- The copies to a launch port of a device beyond a port end with status 2 (R360). -/
def loseCopies (p : BitVec 5) : List Job → State → State
  | [], s => s
  | j :: rest, s =>
    loseCopies p rest (match j.op with
      | .launch dst _ =>
        if pathUses s p (BitVec.ofNat 12 (fld dst 44 12)) then
          send s (.resultArrival { who := j.who, cls := 1, num := j.token, value := (tokenWord 2 1 0).zeroExtend 256
                                   cause := 0, ea := 0, token := true, flags := 0, pair := none, job := some j.id })
        else s
      | _ => s)

/-- A port enters ERROR (R360): what is in flight through it is lost, and phases whose routes use it fail. From then on
requests through it fail with PEER. -/
def portError (s : State) (p : BitVec 5) : State :=
  let s1 := if trunkPort s = some p.toNat then failLink s else s
  let s2 := loseCopies p s.cluster.jobs (loseXvs p slots { s1 with agenda := s1.agenda.map (loseMsg s p) })
  setPort s2 p { portAt s2 p with state := .error, batch := [], replay := [], txBatch := [] }

/-- Is a port protected: LOCKED or RUN (R361)? -/
def Port.protected' (x : Port) : Bool := x.state == .locked || x.state == .run

/-- A port in LOCKED or RUN enters ERROR (R360). -/
def portFault (s : State) (p : BitVec 5) : State := if (portAt s p).protected' then portError s p else s

/-- May a state carry a class (R360)? In ERROR the management class brings unprotected reports only. -/
def Port.carries (x : Port) (vc : BitVec 3) : Bool :=
  match x.state with
  | .run => true
  | _ => vc == 7

/-- Deliver flits to their classes. -/
def deliverFlits (p : BitVec 5) : List Flit → State → State
  | [], s => s
  | f :: rest, s => deliverFlits p rest (out s (.delivered p f))

/-- The key of a port's direction, from the session and the number of the key. -/
def portKey (p : BitVec 5) (x : Port) (tx : Bool) : BitVec 256 :=
  Config.linkKey (x.session * 32 + p.toNat) (if tx then x.txKey else x.rxKey) tx

/-- The receiving direction takes the new key that the peer announced, at the end of a batch (R361). -/
def Port.newRxKey (x : Port) : Port := { x with rxKey := x.rxKey + 1, rxFlits := 0, rxCounter := 0, rxDue := false }

/-- The tag flit of a batch: the tag is checked before any flit is delivered; the key that the peer announced comes next; at
2^32 flits without one the direction ends (R361). -/
def takeTag (s : State) (p : BitVec 5) (x : Port) (tag : BitVec 128) : State :=
  if tag ≠ Config.gcmTag (portKey p x false) x.rxCounter (x.batch.map (·.payload)) then portError s p
  else
    let n := x.rxFlits + x.batch.length
    let y := { x with batch := [], rxCounter := x.rxCounter + 1, rxFlits := n }
    let s1 := deliverFlits p x.batch (setPort s p (if x.rxDue then y.newRxKey else y))
    if 2 ^ 32 ≤ n ∧ !x.rxDue then send s1 (.keyExhaustion p false) else s1

/-- A flit goes out with the next sequence number, and stays in the replay buffer (R336). -/
def putFlit (s : State) (p : BitVec 5) (vc : BitVec 3) (payload : BitVec 256) (tag : Option (BitVec 128)) : State :=
  let x := portAt s p
  let f : Flit := { seq := x.txSeq, vc := vc, payload := payload, crc := Config.crc24 payload x.txSeq vc, tag := tag }
  out (setPort s p { x with txSeq := x.txSeq + 1, replay := x.replay ++ [f] }) (.flit p f)

/-- The tag flit that ends a batch: the tag under the direction's counter (R361). -/
def putTag (s : State) (p : BitVec 5) (vc : BitVec 3) : State :=
  let x := portAt s p
  putFlit (setPort s p { x with txBatch := [], txCounter := x.txCounter + 1 }) p vc 0
    (some (Config.gcmTag (portKey p x true) x.txCounter x.txBatch))

/-- Has a port room for a flit of a class: a credit of its virtual channel, and a place in the replay buffer, which holds
every flit of the link (R336, R338)? -/
def Port.room (x : Port) (vc : BitVec 3) : Bool :=
  decide (x.replay.length < 1023) && decide ((x.replay.filter fun f => f.vc == vc).length ≤ Config.classCredits vc)

/-- The port that carries a flit handed to one: an exchange or Bell flit leaves a port under a fence at the end of a batch,
for the trunk's next in RUN (R350, R396). -/
def flitPort (s : State) (p : BitVec 5) (vc : BitVec 3) : Option (BitVec 5) :=
  if (vc = 4 ∨ vc = 6) ∧ (s.hw.fences.any fun f => f.unit == .port p.toNat && f.state != 0) ∧ (portAt s p).txBatch = [] then
    (trunkPort s).map (BitVec.ofNat 5)
  else some p

/-- A flit that a port sends: in LOCKED and RUN it joins a batch of at most 8, at 2^31 flits a new key is asked for, at 2^32
the direction ends (R336, R360, R361). -/
def sendOn (s : State) (p : BitVec 5) (vc : BitVec 3) (payload : BitVec 256) (last : Bool) : State :=
  let x := portAt s p
  if !x.carries vc then s
  else if !x.room vc then { s with agenda := .flitSend p vc payload last :: s.agenda }
  else if !x.protected' then putFlit s p vc payload none
  else
    let n := x.txFlits + 1
    let s1 := putFlit (setPort s p { x with txFlits := n, txBatch := x.txBatch ++ [payload] }) p vc payload none
    let s2 := if last || decide (8 ≤ x.txBatch.length + 1) then putTag s1 p vc else s1
    if n = 2 ^ 32 then send s2 (.keyExhaustion p true) else if n = 2 ^ 31 then send s2 (.keyUpdate p true) else s2

/-- A flit that the module sends; it waits while its class has no credit or the replay buffer is full (R336, R338). -/
def sendFlit (s : State) (p : BitVec 5) (vc : BitVec 3) (payload : BitVec 256) (last : Bool) : State :=
  match flitPort s p vc with
  | some q => sendOn s q vc payload last
  | none => s

/-- FLIT_RECEIVE: CRC, sequence, protection, and the acknowledgement; and a flit that the module sends (R336, R360,
R361). -/
def execFlitReceive (s : State) : Host.Outcome State Fault Refusal :=
  .next (match s.event with
    | some (.flitSend p vc payload last) => sendFlit s p vc payload last
    | some (.flitReceive p f) =>
      let x := portAt s p
      if !x.carries f.vc then s
      else
        let ahead := f.seq - x.rxSeq
        if f.crc ≠ Config.crc24 f.payload f.seq f.vc ∨ (ahead ≠ 0 ∧ ahead.toNat < 2 ^ 15) then
          out s (.event (.replayRequest p x.rxSeq))
        else if ahead ≠ 0 then s
        else
          let x1 := { x with rxSeq := x.rxSeq + 1 }
          let s1 := out (setPort s p x1) (.event (.flitAck p f.seq))
          if !x.protected' then out s1 (.delivered p f)
          else match f.tag with
            | some t => takeTag s1 p x1 t
            | none =>
              if 8 ≤ x.batch.length then portError s p
              else setPort s1 p { x1 with batch := x1.batch ++ [f] }
    | _ => s)

/-- Flits sent again. -/
def resend (p : BitVec 5) : List Flit → State → State
  | [], s => s
  | f :: rest, s => resend p rest (out s (.flit p f))

/-- REPLAY_REQUEST: the flits before it are acknowledged, and the rest go again as they were; more than 8 replays of
one flit end the link. An acknowledgement frees its flits (R336, R361). -/
def execReplayRequest (s : State) : Host.Outcome State Fault Refusal :=
  .next (match s.event with
    | some (.replayRequest p seq) =>
      let x := portAt s p
      let n := if x.replays ≠ 0 ∧ x.replaySeq = seq then x.replays + 1 else 1
      let keep := x.replay.dropWhile fun f => f.seq != seq
      if 8 < n ∧ x.protected' then portError s p
      else resend p keep (setPort s p { x with replays := n, replaySeq := seq, replay := keep })
    | some (.flitAck p seq) =>
      let x := portAt s p
      if x.replay.any fun f => f.seq == seq then
        let keep := (x.replay.dropWhile fun f => f.seq != seq).drop 1
        setPort s p { x with
          replay := keep, replays := if keep.any fun f => f.seq == x.replaySeq then x.replays else 0 }
      else s
    | _ => s)

/-- FEC_LOCK_LOSS (R336, R360). -/
def execFecLockLoss (s : State) : Host.Outcome State Fault Refusal :=
  .next (match s.event with
    | some (.fecLockLoss p) => portFault s p
    | _ => s)

/-- KEY_EXHAUSTION (R360, R361). -/
def execKeyExhaustion (s : State) : Host.Outcome State Fault Refusal :=
  .next (match s.event with
    | some (.keyExhaustion p _) => portFault s p
    | _ => s)

/-- LOCK: both ends have sent it in the session (R360). -/
def execLock (s : State) : Host.Outcome State Fault Refusal :=
  .next (match s.event with
    | some (.lock p) =>
      let x := portAt s p
      if x.state = .unlocked ∧ x.spdm = 9 then setPort s p { x with state := .locked } else s
    | _ => s)

/-- START: both ends have sent it; a module in recovery never reaches RUN (R360, R401). -/
def execStart (s : State) : Host.Outcome State Fault Refusal :=
  .next (match s.event with
    | some (.start p) =>
      let x := portAt s p
      if x.state = .locked ∧ !s.hw.control.recovery then setPort s p { x with state := .run } else s
    | _ => s)

/-- A port after a management reset: UNLOCKED, without a session; its configuration stays (R360). -/
def Port.cleared (x : Port) : Port :=
  { Port.reset with trained := x.trained, session := x.session, config := x.config }

/-- MANAGEMENT_RESET (R360). -/
def execManagementReset (s : State) : Host.Outcome State Fault Refusal :=
  .next (match s.event with
    | some (.managementReset p) =>
      let x := portAt s p
      if x.state = .error then setPort s p x.cleared else s
    | _ => s)

/-- LINK_TRAINING: each end is in UNLOCKED (R359). -/
def execLinkTraining (s : State) : Host.Outcome State Fault Refusal :=
  .next (match s.event with
    | some (.linkTraining p) => setPort s p { (portAt s p).cleared with trained := true }
    | _ => s)

/-- PORT_CONFIGURATION_WRITE (R360). -/
def execPortConfigurationWrite (s : State) : Host.Outcome State Fault Refusal :=
  .next (match s.event with
    | some (.portConfigurationWrite p v) =>
      if (portAt s p).protected' then portError s p else setPort s p { portAt s p with config := v }
    | _ => s)

/-! SPDM (R359). -/

/-- A level-1 alarm: an SPDM measurement outside policy is one (R402). -/
def alarmOne (s : State) : State := send s (.securityAlarm 1)

/-- A step of the session: in order, in UNLOCKED, after training; a failure leaves the port UNLOCKED and is reported.
FINISH starts the link keys of both directions. -/
def spdmStep (s : State) (p : BitVec 5) (k : Nat) (ok : Bool) : State :=
  let x := portAt s p
  if x.state ≠ .unlocked then s
  else if !ok ∨ x.spdm ≠ k ∨ !x.trained ∨ s.hw.control.seedErased && decide (3 ≤ k) then
    out (setPort s p { x with spdm := 0 }) (.report k)
  else if k = 8 then
    setPort s p { x with spdm := 9, session := x.session + 1, txKey := 0, rxKey := 0, txFlits := 0, rxFlits := 0
                         rxCounter := 0, txCounter := 0, txBatch := [], rxDue := false }
  else setPort s p { x with spdm := k + 1 }

/-- GET_VERSION. -/
def execGetVersion (s : State) : Host.Outcome State Fault Refusal :=
  .next (match s.event with
    | some (.getVersion p ok) => spdmStep s p 0 ok
    | _ => s)

/-- GET_CAPABILITIES. -/
def execGetCapabilities (s : State) : Host.Outcome State Fault Refusal :=
  .next (match s.event with
    | some (.getCapabilities p ok) => spdmStep s p 1 ok
    | _ => s)

/-- NEGOTIATE_ALGORITHMS. -/
def execNegotiateAlgorithms (s : State) : Host.Outcome State Fault Refusal :=
  .next (match s.event with
    | some (.negotiateAlgorithms p ok) => spdmStep s p 2 ok
    | _ => s)

/-- GET_DIGESTS. -/
def execGetDigests (s : State) : Host.Outcome State Fault Refusal :=
  .next (match s.event with
    | some (.getDigests p ok) => spdmStep s p 3 ok
    | _ => s)

/-- GET_CERTIFICATE. -/
def execGetCertificate (s : State) : Host.Outcome State Fault Refusal :=
  .next (match s.event with
    | some (.getCertificate p ok) => spdmStep s p 4 ok
    | _ => s)

/-- CHALLENGE. -/
def execChallenge (s : State) : Host.Outcome State Fault Refusal :=
  .next (match s.event with
    | some (.challenge p ok) => spdmStep s p 5 ok
    | _ => s)

/-- GET_MEASUREMENTS: one outside policy raises an alarm (R359, R402). -/
def execGetMeasurements (s : State) : Host.Outcome State Fault Refusal :=
  .next (match s.event with
    | some (.getMeasurements p ok) => if ok then spdmStep s p 6 ok else alarmOne (spdmStep s p 6 ok)
    | _ => s)

/-- KEY_EXCHANGE. -/
def execKeyExchange (s : State) : Host.Outcome State Fault Refusal :=
  .next (match s.event with
    | some (.keyExchange p ok) => spdmStep s p 7 ok
    | _ => s)

/-- FINISH. -/
def execFinish (s : State) : Host.Outcome State Fault Refusal :=
  .next (match s.event with
    | some (.finish p ok) => spdmStep s p 8 ok
    | _ => s)

/-- KEY_UPDATE: the sender switches keys at a batch boundary and announces it in band; the receiver switches at the boundary
that its peer announces. The counter starts again (R361). -/
def execKeyUpdate (s : State) : Host.Outcome State Fault Refusal :=
  .next (match s.event with
    | some (.keyUpdate p tx) =>
      let x := portAt s p
      if !x.protected' then s
      else if tx then
        if x.txBatch ≠ [] then send s (.keyUpdate p tx)
        else out (setPort s p { x with txKey := x.txKey + 1, txFlits := 0, txCounter := 0 }) (.event (.keyUpdate p false))
      else if x.batch ≠ [] then setPort s p { x with rxDue := true }
      else setPort s p x.newRxKey
    | _ => s)

end Sys2Proof.Machine
end

