-- ==== Sys2Proof/Machine/Interrupt.lean ====
section
/-!
DEFINITION. Upcalls, and the core messages PREEMPT, RESUME, SRESUME, HOLD, UNHOLD and RESTART; the precise traps of
fetch and decode (R63, R104, R124, R372, R376 to R378, R391).
-/

namespace Sys2Proof.Machine

/-! Fetch and decode (R104, R124). -/

/-- FETCH_CHECK: the address that is due fails a check. -/
def execFetchCheck (s : State) : Host.Outcome State Fault Refusal :=
  .next (match fetchFault s s.ctx.queue.q0 with
    | some c => trap s c s.ctx.queue.q0
    | none => s)

/-- ILLEGAL_INSTRUCTION_WORD: the word that is due is no instruction here. -/
def execIllegalInstructionWord (s : State) : Host.Outcome State Fault Refusal :=
  .next (trap s 1 ((curWord s).zeroExtend 64))

/-! Upcalls (R372). -/

/-- Can slot 0 take an upcall in the cycle in which it would issue? -/
def upcallDue (s : State) : Bool :=
  let c := s.at 0
  !c.upcall.inHandler && c.level == .c && c.act.wait.isNone && c.act.blocked.isNone && c.slotState == .ready
    && (c.upcall.pend != 0 || !s.core.events.isEmpty)

/-- Enter the upcall handler with a record (R372). -/
def enterUpcall (s : State) (cause tval : Word) (slot : Nat) : State :=
  let c := s.at 0
  let (e0, e1, e2) := c.epcNow
  s.setAt 0
    { c with
      trap := { epc0 := e0, epc1 := e1, epc2 := e2
                cause := BitVec.ofNat 64 (setFld (setFld cause.toNat 40 2 1) 44 4 slot)
                tval := tval, rptst := c.rptstNow }
      upcall := { c.upcall with inHandler := true }
      frame := none, idle := false
      queue := Queue.at (c.upcall.vec.zeroExtend 64) }

/-- A record as 16 bytes of the save area give it: the CAUSE word and TVAL (R366, R368). -/
def Event.ofBytes (bs : List Byte) : Event :=
  { cause := keepBits (BitVec.ofNat 64 (natLE (bs.take 8))) causeBits, tval := BitVec.ofNat 64 (natLE (bs.drop 8)) }

/-- The oldest held event as the event list of the save area has it; with SAVEB zero, as the core has it (R368, R372). -/
def heldRecord (s : State) (e : Event) : Option Event :=
  if s.core.sys.saveb = 0 then some e else (saveRead s 0x5900 16).map Event.ofBytes

/-- The oldest held event leaves the event list (R368, R372). -/
def dropEvent (s : State) : State :=
  let s1 := s.modCore fun c => { c with events := c.events.drop 1 }
  match saveRead s 0x5900 256 with
  | none => s1
  | some bs => saveSync s1 0x5900 (bs.drop 16 ++ List.replicate 16 0)

/-- TAKE_UPCALL: the lock of slot 0 lapses (R255); the trap of the lowest slot, else the oldest event; a place
that frees lets the spill ring go on
(R372, R378). -/
def takeUpcall (s0 : State) : State :=
  let s := endLlk s0 0
  let u := (s.at 0).upcall
  if !upcallDue s0 then s0
  else match helperSlots.find? fun i => maskBit u.pend i with
    | some i =>
      match saveRead s (0x800 * i.val + 0x5B8) 16 with
      | none => machineCheck s 0 s.core.sys.saveb false
      | some bs =>
        let e := Event.ofBytes bs
        let c := s.at 0
        enterUpcall (s.setAt 0 { c with upcall := { u with pend := u.pend &&& ~~~ BitVec.twoPow 10 (i.val - 1) } })
          e.cause e.tval i.val
    | none =>
      match s.core.events with
      | [] => s
      | e :: _ =>
        match heldRecord s e with
        | none => machineCheck s 0 s.core.sys.saveb false
        | some r =>
          let s1 := enterUpcall (dropEvent s) r.cause r.tval 0
          if s.core.spill.isEmpty then s1 else send s1 .spillRedelivery

/-- TAKE_UPCALL. -/
def execTakeUpcall (s : State) : Host.Outcome State Fault Refusal :=
  .next ((takeUpcall s).modCore fun c => { c with upcallNow := upcallDue s })

/-! Core messages (R376, R377). -/

/-- May the sender send core messages? -/
def senderOk (s : State) : Agent → Bool
  | .osAgent | .controller => true
  | .host dev => s.core.sys.dbghost.getLsbD 12 && fld s.core.sys.dbghost 0 12 == dev.toNat
  | _ => false

/-- Has a slot a request out whose answer ends its issue step? A stalled XPH has none. -/
def requestOut (s : State) (i : Fin 11) : Bool :=
  (s.at i).act.blocked.isSome && !(match due s i with
    | .ins (.xph ..) => true
    | _ => false)

/-- A stalled XPH is left to issue again. -/
def leaveXph (s : State) (i : Fin 11) : State :=
  if (s.at i).act.blocked.isSome ∧ !requestOut s i then s.modAct i fun a => { a with blocked := none } else s

/-- Slots that leave their phase (R343) and their locks (R255). -/
def leaveAll (l : List (Fin 11)) (s : State) : State := l.foldl endLlk (l.foldl leaveXph s)

/-- The frames and the header are written, and the core stops until RESUME (R376). -/
def preemptSaved (s : State) : State :=
  match (writeFrames s slots).bind fun t => writeHeader t true with
  | some s2 => out (s2.modCore fun c => { c with preempted := true }) .preempted
  | none => machineCheck s 0 s.core.sys.saveb false

/-- Every slot leaves its phase and its lock, and the core is saved. -/
def preemptNow (s : State) : State := preemptSaved (leaveAll slots s)

/-- PREEMPT: it waits for a phase of the core, and for the requests that issued instructions have out (R376). -/
def execPreempt (s : State) : Host.Outcome State Fault Refusal :=
  .next (match s.event with
    | some (.preempt src) =>
      if !senderOk s src then out s (.badSender src)
      else if (slots.any fun i => (s.at i).xch.running) || slots.any (requestOut s) then send s (.preempt src)
      else preemptNow s
    | _ => s)

/-- The header fields of the save area go back into the registers (R368, R377). -/
def readHeader (s : State) : Option State :=
  (saveRead s 0x5800 256).map fun bs =>
    let w (off : Nat) : Word := BitVec.ofNat 64 (natLE ((bs.drop (off - 0x5800)).take 8))
    s.modCore fun c => { c with
      spillHead := (w 0x5820).truncate 32, spillTail := (w 0x5828).truncate 32
      sys := { c.sys with
        xbound := keepBits (w 0x5808) xboundBits, qwgt := (w 0x5810).truncate 4
        owedb := keepBits (w 0x5818) owedbBits
        kepc0 := w 0x5840, kepc1 := w 0x5848, kepc2 := w 0x5850, kcause := keepBits (w 0x5858) causeBits
        ktval := w 0x5860, krptst := keepBits (w 0x5868) rptstBits
        bpa := Vector.ofFn fun j : Fin 4 => keepBits (w (0x5870 + 8 * j.val)) bpaBits } }

/-- Reload the frames of the slots that issued or waited; a slot that is TRAPPED, UNSETTLED or HELD keeps its frame for
its own return, and so does one that a HOLD is taking (R63, R369, R377). -/
def reloadFrames : List (Fin 11) → State → State
  | [], s => s
  | i :: rest, s =>
    let c := s.at i
    reloadFrames rest (if c.framed ∧ c.heldFrom.isNone ∧ (c.slotState = .ready ∨ c.slotState = .waiting) then
        reloadFrame s i false
      else s)

/-- The core issues again, after the spill ring has been delivered as far as it can be (R377, R378); not where a
frame could not be read. -/
def resumeCore (s : State) : State :=
  if s.core.machineCheck then s
  else
    let s1 := s.modCore fun c => { c with preempted := false, stopped := false }
    redeliver s1.core.spill.length s1

/-- RESUME (R377). -/
def execResume (s : State) : Host.Outcome State Fault Refusal :=
  .next (match s.event with
    | some (.resume src) =>
      if !senderOk s src then out s (.badSender src)
      else if !s.core.preempted ∨ s.core.stopped then s
      else match readHeader s with
        | none => machineCheck s 0 s.core.sys.saveb false
        | some s1 => resumeCore (reloadFrames slots s1)
    | _ => s)

/-- SRESUME: only for a slot that a debugger stopped (R377, R382). -/
def execSresume (s : State) : Host.Outcome State Fault Refusal :=
  .next (match s.event with
    | some (.sresume src slot) =>
      if !senderOk s src then out s (.badSender src)
      else match slotOf slot.toNat with
        | some i =>
          if (s.at i).debugged ∧ (s.at i).slotState = .trapped then
            let s1 := reloadFrame s i true
            let c := s1.at 0
            s1.setAt 0 { c with upcall := { c.upcall with
              pend := if i = 0 then c.upcall.pend else c.upcall.pend &&& ~~~ BitVec.twoPow 10 (i.val - 1) } }
          else s
        | none => s
    | _ => s)

/-- Hold a slot: its frame, then HELD at once, or when the answer to the cancel of its wait has come (R63). -/
def holdSlot (s : State) (i : Fin 11) : State :=
  let st := (s.at i).slotState
  if i = 0 ∨ st = .free ∨ st = .held ∨ (s.at i).heldFrom.isSome then s
  else if st = .trapped ∨ st = .unsettled then
    s.setAt i { s.at i with slotState := .held, heldFrom := some st }
  else
    let s1 := leaveXph (failPhase (endLlk s i) i) i
    let s2 := if (s1.at i).framed then some s1 else writeFrame s1 i
    match s2 with
    | none => machineCheck s1 0 s.core.sys.saveb false
    | some t =>
      match (t.at i).act.wait with
      | some a => send (t.setAt i { t.at i with heldFrom := some .waiting }) (.cancel a.h (selfId t i) 4)
      | none => t.setAt i { t.at i with slotState := .held, heldFrom := some .ready }

/-- HOLD (R63). -/
def execHold (s : State) : Host.Outcome State Fault Refusal :=
  .next (match s.event with
    | some (.hold src slot) =>
      if !senderOk s src then out s (.badSender src)
      else match slotOf slot.toNat with
        | some i => if requestOut s i then send s (.hold src slot) else holdSlot s i
        | none => s
    | _ => s)

/-- A held slot reloads its frame and is READY, or waits on where the end of its wait is still in the spill ring
(R63, R378). -/
def unholdSlot (s : State) (i : Fin 11) : State :=
  let t := reloadFrame s i false
  t.setAt i { t.at i with heldFrom := none }

/-- Does the spill ring hold an obligation for a slot (R378)? -/
def spillOwes (s : State) (i : Fin 11) : Bool :=
  s.core.spill.any fun m => match m with
    | .msg (.wake _ _ acq who) => acq.isSome && localSlot s who == some i
    | .msg (.obligationTransfer _ _ t _) => localSlot s t == some i
    | _ => false

/-- UNHOLD; or the system level frees a held slot that holds no obligation, nor has one in the spill ring (R63;
log 65). -/
def execUnhold (s : State) : Host.Outcome State Fault Refusal :=
  .next (match s.event with
    | some (.unhold src slot) =>
      if !senderOk s src then out s (.badSender src)
      else match slotOf slot.toNat with
        | some i =>
          let c := s.at i
          if c.slotState ≠ .held then s
          else match c.heldFrom with
            | some .trapped => s.setAt i { c with slotState := .trapped, heldFrom := none }
            | some .unsettled => s.setAt i { c with slotState := .unsettled, heldFrom := none }
            | _ => unholdSlot s i
        | none => s
    | some (.freeHeld src slot) =>
      if !senderOk s src then out s (.badSender src)
      else match slotOf slot.toNat with
        | some i => if (s.at i).slotState = .held ∧ (oblsOf s i).isEmpty ∧ !spillOwes s i then freeSlot s i else s
        | none => s
    | _ => s)

/-- Has the fault of a machine check been fenced: is this core, or its cluster, FENCED or SPARED (R391, R392; log 49)? -/
def faultFenced (s : State) : Bool :=
  decide (2 ≤ (fenceOf s (.core (myCore s))).state.toNat) || decide (2 ≤ (fenceOf s (.cluster (myCluster s))).state.toNat)

/-- May a stopped core be restarted: not in recovery, and after a machine check only with its fault fenced or cleared
(R391, R401)? -/
def mayRestart (s : State) : Bool :=
  s.core.stopped && !s.hw.control.recovery && (!s.core.machineCheck || faultFenced s)

/-- RESTART: every frame as at RESUME, and slot 0 at S level at SVEC with CAUSE.CODE 0; a core that never ran has no
frame to reload (R391, R404). -/
def execRestart (s : State) : Host.Outcome State Fault Refusal :=
  .next (match s.event with
    | some .restart =>
      if !mayRestart s then s
      else
        let s0 := s.modCore fun c => { c with machineCheck := false }
        match (if slots.any fun i => (s.at i).framed then readHeader s0 else some s0) with
        | none => machineCheck s 0 s.core.sys.saveb false
        | some s1 =>
          let s2 := if (s1.at 0).framed then reloadFrame s1 0 false else s1
          resumeCore (enterSystem (reloadFrames helperSlots s2) { code := 0, tval := 0 })
    | _ => s)

end Sys2Proof.Machine
end

