-- ==== Sys2Proof/Machine/Loader.lean ====
section
/-!
DEFINITION. The loader: code objects, their sections, kernel records, resource templates and relocations
(R18 to R31, R35 to R37).
-/

namespace Sys2Proof.Machine

/-- n bytes of an image at an offset, as a number. -/
def imgNat (img : List Byte) (off n : Nat) : Nat := natLE ((img.drop off).take n)

/-- A section-table entry (R19). -/
structure Sect where
  typ : Nat
  align : Nat
  link : Nat
  size : Nat
  off : Nat
  deriving DecidableEq, Repr

/-- Entry i of the section table. -/
def sectAt (img : List Byte) (i : Nat) : Sect :=
  let x := imgNat img (64 + 16 * i) 16
  { typ := nfld x 0 8, align := nfld x 8 8, link := nfld x 16 16, size := nfld x 32 32, off := nfld x 64 64 }

/-- The section table. -/
def sectsOf (img : List Byte) : List Sect := (List.range (imgNat img 8 2)).map (sectAt img)

/-- The bytes of a section in the image: a ZERO section has none (R19). -/
def Sect.len (x : Sect) : Nat := if x.typ = 4 then 0 else x.size

/-- The bytes of a section as loaded. -/
def Sect.bytes (x : Sect) (img : List Byte) : List Byte :=
  if x.typ = 4 then List.replicate x.size 0 else (img.drop x.off).take x.size

/-- Do two sections overlap? A section without bytes in the image overlaps nothing. -/
def Sect.meets (x y : Sect) : Bool :=
  decide (0 < x.len) && decide (0 < y.len) && decide (x.off < y.off + y.len) && decide (y.off < x.off + x.len)

/-- Does no section of a list overlap a later one? -/
def disjointSects : List Sect → Bool
  | [] => true
  | x :: rest => (rest.all fun y => !x.meets y) && disjointSects rest

/-- The type of a section by index. -/
def typeAt (ss : List Sect) (i : Nat) : Nat := match ss[i]? with
  | some x => x.typ
  | none => 0

/-- Is a section legal by itself: place, type, alignment, link (R19, R21 check 6)? -/
def Sect.ok (ss : List Sect) (total : Nat) (x : Sect) : Bool :=
  decide (x.off + x.len ≤ total) && decide (1 ≤ x.typ) && decide (x.typ ≤ 0x0B)
    && decide (2 ≤ x.align) && decide (x.align ≤ 16) && x.off % 2 ^ x.align == 0
    && (match x.typ with
      | 0x08 => typeAt ss x.link == 1 || typeAt ss x.link == 2 || typeAt ss x.link == 3
      | 0x06 => typeAt ss x.link == 7
      | _ => x.link == 0xFFFF)

/-- Is a section native text? -/
def Sect.native (x : Sect) : Bool := x.typ == 1 || x.typ == 2

/-- Check 6 of R21; where Zutur text is used, native sections are ignored (R20). DESIGN CHOICE: an NSECT outside
1 to 1,024 is refused here, with SECTION (log 58). -/
def sectsOk (zutur : Bool) (img : List Byte) : Bool :=
  let ss := sectsOf img
  let seen := ss.filter fun x => !(zutur && x.native)
  decide (1 ≤ ss.length) && decide (ss.length ≤ 1024) && seen.all (fun x => x.ok ss img.length) && disjointSects seen

/-- A section as it is loaded: type, alignment, link, size, its bytes, and its offset in TCM where it is data of a
kernel's TCM data area (R22; log 75). -/
structure Part where
  typ : Nat
  tcm : Option Nat
  align : Nat
  link : Nat
  size : Nat
  bytes : List Byte
  deriving DecidableEq, Repr

/-- The parts of an image, in the order of its section table, of which the first is number `first` of the object. -/
def partsOf (id : W32) (first : Nat) (img : List Byte) : List Part :=
  (sectsOf img).mapIdx fun i x =>
    { typ := x.typ, align := x.align, link := x.link, size := x.size, bytes := x.bytes img
      tcm := if x.typ = 3 ∨ x.typ = 4 then (Config.dataUnit id (first + i)).map fun u => 64 * u.toNat else none }

/-- A translated object's own parts: DATA and ZERO, with the symbols and relocations for them; what the translation
replaces has no type (R20, R35). -/
def ownParts (id : W32) (first : Nat) (img : List Byte) : List Part :=
  (partsOf id first img).map fun x => if [3, 4, 6, 7, 8].contains x.typ then x else { x with typ := 0 }

/-- The bytes of the parts of a type, joined. DESIGN CHOICE: several KERNEL, RESTAB or SYMTAB sections count as
one, in the order of the section table (log 58). -/
def joined (ps : List Part) (typ : Nat) : List Byte :=
  ps.flatMap fun x => if x.typ = typ then x.bytes else []

/-- Numbers of n bytes from bytes. -/
def chunks (n : Nat) (bs : List Byte) : List Nat := numsLE n (bs.length / n) bs

/-- The kernel records (R22). -/
def kernelRecs (ps : List Part) : List (BitVec 512) := (chunks 64 (joined ps 9)).map (BitVec.ofNat 512)

/-- The type of a part by index. -/
def partType (ps : List Part) (i : Nat) : Nat := match ps[i]? with
  | some x => x.typ
  | none => 0

/-- The share SCRATCH is measured against (R24). -/
def shareOf (gran : Nat) : Nat := 17856 * (if gran = 0 then 1 else if gran = 1 then 11 else 88)

/-- Is a kernel record valid (R22, R23)? DESIGN CHOICE: a must-be-zero bit of a record is a fault of the record,
refused with KERNEL; check 2 reads the header (log 58). -/
def kernelOk (ps : List Part) (k : BitVec 512) : Bool :=
  let f (lo n : Nat) : Nat := nfld k.toNat lo n
  f 224 288 == 0 && f 188 20 == 0 && f 138 6 == 0 && f 132 4 == 0 && f 48 16 == 0
    && decide (f 96 16 + f 112 16 ≤ 32768) && decide (f 64 32 < f 96 16) && f 64 32 % 4 == 0
    && decide (f 128 4 ≤ 10) && decide (f 136 2 ≤ 2) && decide (f 144 24 ≤ shareOf (f 136 2)) && f 144 24 % 64 == 0
    && decide (f 168 20 ≤ 2 ^ 20 - 1) && partType ps (f 32 16) == 1

/-- Check 7 of R21. DESIGN CHOICE: an NKERN outside 1 to 4,096, or other than the number of records, is refused
here, with KERNEL (log 58). -/
def kernelsOk (nkern : Nat) (ps : List Part) : Bool :=
  let ks := kernelRecs ps
  decide (1 ≤ ks.length) && decide (ks.length ≤ 4096) && ks.length == nkern && ks.all (kernelOk ps)

/-- Is a resource entry legal: its layout and what its kind uses (R26, R27, R181)? DESIGN CHOICE: the RIGHTS of a
CODE entry are execute and nothing else (log 58). -/
def resEntryOk (e : Nat) : Bool :=
  let f (lo n : Nat) : Nat := nfld e lo n
  let z (lo n : Nat) : Bool := nfld e lo n == 0
  let lay := f 144 2
  let region := z 0 64 && z 64 64
  let rights := z 136 8
  let memory := z 144 2 && z 148 4 && z 152 3 && z 160 16 && z 176 1
  let ranks := z 192 20 && z 216 21
  let handle := z 256 128
  let aux := z 384 128
  z 237 19 && z 212 4 && z 177 15 && z 155 5 && z 146 2 && z 142 2 && decide (lay ≠ 3)
    && (if lay = 2 then decide (1 ≤ f 148 4) && decide (f 148 4 ≤ 7) else z 148 4 && z 152 3)
    && (f 176 1 == 1 || z 160 16)
    && (match f 128 8 with
      | 0 => region && rights && memory && ranks && handle && aux
      | 1 => f 136 8 == 4 && memory && ranks && handle && z 416 96
      | 2 => ranks && handle && aux
      | 3 => rights && memory && ranks && handle && aux
      | 4 => lay == 1 && z 160 16 && z 176 1 && ranks && handle && decide (1 ≤ f 384 8) && decide (f 384 8 ≤ 0x10)
          && (f 384 8 != 7 || f 448 64 != 0)
      | 5 => region && rights && memory && ranks && z 320 64 && aux
      | 6 => region && rights && memory && decide (f 192 20 < f 216 21) && decide (f 216 21 ≤ 0x100000)
          && handle && aux
      | 7 => region && rights && memory && ranks && aux
      | 8 => rights && memory && ranks && handle && aux && decide (64 ≤ f 64 64) && decide (f 64 64 ≤ 256)
      | 9 => region && rights && memory && ranks && z 320 64 && z 300 20 && z 271 1 && aux
      | _ => false)

/-- The resource-table template. -/
def templateOf (ps : List Part) : List Nat := chunks 64 (joined ps 5)

/-- Check 8 of R21, with R25: the entries a kernel's table must hold exist. DESIGN CHOICE: a kernel whose NRES passes
the template's entries is refused here, with RESOURCE (log 58). -/
def resourcesOk (ps : List Part) : Bool :=
  (templateOf ps).all resEntryOk && (kernelRecs ps).all fun k => decide (nfld k.toNat 208 16 ≤ (templateOf ps).length)

/-! Places (R36). -/

/-- Has a part a resident place in device memory: TEXT, OVERLAY, and DATA and ZERO outside TCM? -/
def Part.resident (x : Part) : Bool := decide (1 ≤ x.typ) && decide (x.typ ≤ 4) && x.tcm.isNone

/-- Round up to a multiple. -/
def roundUp (a n : Nat) : Nat := (a + n - 1) / n * n

/-- Where each part lies, from the load's place on, and the end. DESIGN CHOICE: the resident parts follow each
other in the order of the section table, each aligned as it asks; ZERO has a space of its own (log 58). -/
def layParts (a : Nat) : List Part → List Nat × Nat
  | [] => ([], a)
  | x :: rest =>
    if x.resident then
      let at' := roundUp a (2 ^ x.align)
      let (l, e) := layParts (at' + x.size) rest
      (at' :: l, e)
    else
      let (l, e) := layParts a rest
      (a :: l, e)

/-- The offset of the first resource table: 64-byte aligned, after the parts (R25). -/
def tableBase (ps : List Part) : Nat := roundUp (layParts 0 ps).2 64

/-- The size of all that becomes resident: the parts, and a table for each kernel (R25). -/
def residentSize (ps : List Part) : Nat :=
  tableBase ps + 64 * (templateOf ps).length * (kernelRecs ps).length

/-! Relocations (R30, R31). -/

/-- A relocation: the part it patches, its record, the symbol table it names into, and the number of its object's
first part. -/
structure Reloc where
  link : Nat
  record : Nat
  syms : List Byte
  first : Nat
  deriving DecidableEq, Repr

/-- The relocation records of some parts, of which the first is number `first` of the object. -/
def relocsFrom (first : Nat) (ps : List Part) : List Reloc :=
  let syms := joined ps 6
  ps.flatMap fun x =>
    if x.typ = 8 then (chunks 16 x.bytes).map fun r => { link := x.link + first, record := r, syms := syms, first := first }
    else []

/-- The relocations of an object, and of the data of the object it was translated from (R20, R35). -/
def relocs (ps own : List Part) : List Reloc :=
  relocsFrom 0 ps ++ (relocsFrom ps.length own).filter fun r => partType own (r.link - ps.length) == 3

/-- The address a part's first byte has for the code: text at its TCM address, data at its generic address, in TCM or
in device memory (R30, R46, R225). -/
def partAddr (id : W32) (base : Nat) (ps : List Part) (i : Nat) : Nat :=
  match ps[i]? with
  | none => 0
  | some x =>
    match x.tcm with
    | some off => off
    | none =>
      if x.typ = 1 ∨ x.typ = 2 then 64 * (Config.textUnit id i).toNat
      else if x.typ = 3 ∨ x.typ = 4 then base + (layParts 0 ps).1.getD i 0
      else 0

/-- The exact value of a relocation: symbol plus addend, unbounded (R30, R31); none where the symbol is not
defined, or lies in a section that a translation has replaced. -/
def relocValue (id : W32) (base : Nat) (ps : List Part) (r : Reloc) : Option Int :=
  (Config.symbolOf r.syms (nfld r.record 40 24)).bind fun v =>
    (match v.1 with
      | some i => if partType ps (r.first + i) = 0 then none else some (partAddr id base ps (r.first + i) + v.2)
      | none => some v.2).map fun (x : Nat) => (x : Int) + signedN (nfld r.record 64 64) 64

/-- The bound of a resource index in a part (R25): the least NRES of the kernels whose text it is. DESIGN CHOICE:
an OVERLAY belongs to every kernel of the object (log 58). -/
def leastNres (ps : List Part) (sect : Nat) : Nat :=
  (kernelRecs ps).foldl
    (fun m k => if nfld k.toNat 32 16 = sect ∨ partType ps sect = 2 then min m (nfld k.toNat 208 16) else m) 65536

/-- The access size of a word with a 12-bit displacement (R30). -/
def memSize (w : W32) : Nat :=
  match decodeRaw w with
  | .ok (.ld _ _ k _) => 2 ^ (k.toNat % 4)
  | .ok (.st _ _ _ z _) => 2 ^ z.toNat
  | .ok (.mst _ _ _ z _) => 2 ^ z.toNat
  | _ => 1

/-- The field a relocation patches and the value stored: bytes of the word, first bit, width, value; none
where the value does not fit (R30, R31). A 64-bit value is one a 64-bit word can hold. -/
def relocField (id : W32) (ps : List Part) (sect off typ : Nat) (w : Nat) (v : Int) : Option (Nat × Nat × Nat) :=
  let here : Int := (partAddr id 0 ps sect + off : Nat)
  let near (n : Nat) : Option (Nat × Nat × Nat) :=
    if v % 4 = 0 ∧ here % 4 = 0 ∧ -(2 ^ (n - 1) : Nat) ≤ (v - here) / 4 ∧ (v - here) / 4 < (2 ^ (n - 1) : Nat) then
      some (4, n, wrapN ((v - here) / 4) n)
    else none
  let word : Bool := decide (-(2 ^ 63 : Nat) ≤ v) && decide (v < (2 ^ 64 : Nat))
  match typ with
  | 1 => if 0 ≤ v ∧ v < leastNres ps sect then some (4, 16, v.toNat) else none
  | 2 => near 11
  | 3 => near 26
  | 4 => if word then some (4, 16, nfld (wrapN v 64) (16 * nfld w 19 2) 16) else none
  | 5 => if -256 ≤ v ∧ v ≤ 255 then some (4, 9, wrapN v 9) else none
  | 6 =>
    let z : Int := memSize (BitVec.ofNat 32 w)
    if v % z = 0 ∧ -2048 ≤ v / z ∧ v / z ≤ 2047 then some (4, 12, wrapN (v / z) 12) else none
  | 7 => if word then some (8, 64, wrapN v 64) else none
  | 8 => if 0 ≤ v ∧ v < (2 ^ 32 : Nat) then some (4, 32, v.toNat) else none
  | _ => none

/-- Replace bytes of a list at an offset. -/
def patchBytes (bs : List Byte) (off : Nat) (new : List Byte) : List Byte :=
  bs.take off ++ new ++ bs.drop (off + new.length)

/-- Apply one relocation to the part it patches; none where it does not fit. -/
def relocate (id : W32) (ps : List Part) (link r : Nat) (v : Int) : Option (List Part) :=
  match ps[link]? with
  | none => none
  | some x =>
    let typ := nfld r 32 8
    let off := nfld r 0 32
    let data := typ == 7 || typ == 8
    let n := if typ = 7 then 8 else 4
    let w := natLE ((x.bytes.drop off).take n)
    if (x.typ == 3) != data ∨ x.size < off + n then none
    else match relocField id ps link off typ w v with
      | none => none
      | some (bytes, lo, val) =>
        some (setAt link { x with bytes := patchBytes x.bytes off (bytesLE bytes (setFld w 0 lo val)) } ps)

/-- Apply every relocation: the parts, or the code of the first refusal, with symbols checked before
values (R21 checks 9 and 10). -/
def relocateAll (id : W32) (base : Nat) (ps : List Part) : List Reloc → Except Nat (List Part)
  | [] => .ok ps
  | r :: rest =>
    match relocValue id base ps r with
    | none => .error 10
    | some v =>
      match relocate id ps r.link r.record v with
      | none => .error 9
      | some ps1 => relocateAll id base ps1 rest

/-- Does every RES of a native part name an index its kernels' tables hold (R25)? -/
def resWordsOk (ps : List Part) : Bool :=
  (ps.zip (List.range ps.length)).all fun p =>
    !(p.1.typ == 1 || p.1.typ == 2) || (chunks 4 p.1.bytes).all fun w =>
      match decodeRaw (BitVec.ofNat 32 w) with
      | .ok (.res _ _ k) => decide (k.toNat < leastNres ps p.2)
      | _ => true

/-- Checks 7 to 10 of R21 on the parts, and the relocated parts; `own` are those of a translated object. -/
def nativeParts (id : W32) (base nkern : Nat) (ps own : List Part) : Except Nat (List Part) :=
  let all := ps ++ own
  let rs := relocs ps own
  if !kernelsOk nkern ps then .error 7
  else if !resourcesOk ps then .error 8
  else if rs.any fun r => (relocValue id base all r).isNone then .error 10
  else match relocateAll id base all rs with
    | .error e => .error e
    | .ok ps1 => if resWordsOk ps1 then .ok ps1 else .error 9

/-- The grade code of GRADE (R18). -/
def gradeCode : Grade → Nat
  | .fv8 => 1
  | .fv8s => 2

/-- Does the object keep R20 on this grade: yes with native text, yes with Zutur text, or no? -/
def gradeUse (img : List Byte) (g : Grade) : Option Bool :=
  let flags := imgNat img 7 1
  let grade := imgNat img 6 1
  let ss := sectsOf img
  let has (t : Nat) : Bool := ss.any fun x => x.typ == t
  let native := flags.testBit 0
  let zutur := flags.testBit 1
  if 2 < grade then none
  else if native ∧ (grade = 0 ∨ !has 1) then none
  else if grade = 0 ∧ (has 1 ∨ has 2 ∨ !zutur) then none
  else if native ∧ grade = gradeCode g then some true
  else if zutur then some false
  else none

/-- AKLVL: the feature level of the device (R2). -/
def featureLevel : Nat := 1

/-- The parts that become resident, or the refusal code (R21 checks 1 to 11, R35). The object's own DATA and ZERO
sections stay, after those of a translation, relocated by its own records (R20, R35). DESIGN CHOICE: a TOTAL that is
no multiple of 64 is refused with BADMAGIC, and the NKERN of an object whose Zutur text is used is not looked at (log
58). -/
def loadParts (img : List Byte) (len : Nat) (g : Grade) (id : W32) (base : Nat) : Except Nat (List Part) :=
  if imgNat img 0 4 ≠ 0x46594B4F ∨ imgNat img 16 8 ≠ len ∨ len % 64 ≠ 0 ∨ len < 64 then .error 1
  else if imgNat img 4 1 ≠ 1 ∨ imgNat img 24 8 ≠ 0 ∨ imgNat img 12 4 ≠ 0 ∨ 8 ≤ imgNat img 7 1 then .error 2
  else if Config.shake256 (patchBytes img 32 (List.replicate 32 0)) ≠ BitVec.ofNat 256 (imgNat img 32 32) then
    .error 3
  else if featureLevel < imgNat img 5 1 then .error 4
  else match gradeUse img g with
    | none => .error 5
    | some true =>
      if !sectsOk false img then .error 6 else nativeParts id base (imgNat img 10 2) (partsOf id 0 img) []
    | some false =>
      if !sectsOk true img then .error 6
      else match Config.zutc (joined (partsOf id 0 img) 0x0A) (BitVec.ofNat 256 (imgNat img 32 32)) (gradeCode g)
          featureLevel Config.domainMembers with
        | none => .error 11
        | some img2 =>
          if !sectsOk false img2 then .error 6
          else nativeParts id base (imgNat img2 10 2) (partsOf id 0 img2)
            (ownParts id (sectsOf img2).length img)

/-- Is there memory at every block of a range? -/
def memoryAt (s : State) (pa len : Nat) : Bool :=
  (List.range ((len + 63) / 64)).all fun i => physExists s (pa + 64 * i)

/-- Has the device room from a place on (R21 check 12): memory that exists and where no loaded object is
resident? -/
def roomAt (s : State) (pa len : Nat) : Bool :=
  memoryAt s pa len && s.engine.code.all fun c => decide (pa + len ≤ c.lo) || decide (c.hi ≤ pa)

/-- Write the resident parts to their places (R36). -/
def placeParts (place : Nat) : List (Part × Nat) → State → State
  | [], s => s
  | (x, off) :: rest, s =>
    placeParts place rest (if x.resident then writeBytes s (place + off) x.bytes else s)

/-- A template entry as it stands in a table: an OBJECT's rank range is its handle's rank (R27), and the BASE of a
region that a label of the object's data names is that label's address (R25; log 75). -/
def tableEntry (id : W32) (base : Nat) (ps : List Part) (i e : Nat) : Nat :=
  if nfld e 128 8 = 5 then setFld (setFld e 192 20 (nfld e 300 20)) 216 21 (nfld e 300 20 + 1)
  else if nfld e 128 8 = 2 ∨ nfld e 128 8 = 4 ∨ nfld e 128 8 = 8 then
    match Config.entryLabel (joined ps 6) i with
    | none => e
    | some (sect, off) =>
      if partType ps sect = 3 ∨ partType ps sect = 4 then setFld e 0 64 (partAddr id base ps sect + off) else e
  else e

/-- A resource table as it is built from the template (R25). -/
def tableOf (id : W32) (base : Nat) (ps : List Part) : List Nat := (templateOf ps).mapIdx (tableEntry id base ps)

/-- Write a table for each kernel (R25). -/
def placeTables (at' : Nat) (entries : List Nat) : Nat → State → State
  | 0, s => s
  | n + 1, s =>
    placeTables (at' + 64 * entries.length) entries n (writeBytes s at' (entries.flatMap fun e => bytesLE 64 e))

/-- What a core's TCM holds for a load: index, type and bytes of the native parts, and offset in TCM, type and bytes of
the data of the TCM data area. -/
def textParts (ps : List Part) : List (Nat × Nat × List Byte) :=
  (ps.zip (List.range ps.length)).filterMap fun p =>
    match p.1.tcm with
    | some off => some (off, p.1.typ, p.1.bytes)
    | none => if p.1.typ = 1 ∨ p.1.typ = 2 then some (p.2, p.1.typ, p.1.bytes) else none

/-- Make the parts of a load resident, with its tables, and keep the object (R25, R36, R37). -/
def keepObject (s : State) (ps : List Part) (id : W32) (xroot base : Word) (place : Nat) : State :=
  let s1 := placeParts place (ps.zip (layParts 0 ps).1) s
  let s2 := placeTables (place + tableBase ps) (tableOf id base.toNat ps) (kernelRecs ps).length s1
  let c : CodeObj :=
    { id := id, kernels := kernelRecs ps, text := textParts ps, xroot := keepBits xroot xrootBits
      template := (templateOf ps).map (BitVec.ofNat 512), restab := base + BitVec.ofNat 64 (tableBase ps)
      lo := place, hi := place + residentSize ps, unloading := false }
  out { s2 with engine := { s2.engine with code := s2.engine.code ++ [c] } } (.loader id 0 c.restab)

/-- CODE_OBJECT_LOAD: the staged image is checked, relocated, and moved to its places; a place or a source
that cannot be used fails the load with SPACE, and so does a place that is not 64-byte aligned, where no table may
start (R21, R25, R36). -/
def execCodeObjectLoad (s : State) : Host.Outcome State Fault Refusal :=
  .next (match s.event with
    | some (.codeObjectLoad addr len xroot place base id) =>
      match loadParts (Memory.bytes s.mem addr.toNat len.toNat) len.toNat s.grade id base.toNat with
      | .error code => out s (.loader id code 0)
      | .ok ps =>
        if place.toNat % 64 ≠ 0 ∨ base.toNat % 64 ≠ 0 ∨ !roomAt s place.toNat (residentSize ps) ∨ !memoryAt s addr.toNat len.toNat
            ∨ eccBad s addr.toNat len.toNat then
          out s (.loader id 12 0)
        else keepObject s ps id xroot base place.toNat
    | _ => s)

/-- CODE_OBJECT_UNLOAD: refused while a launch that names the object has a counter above zero; then the
object is being unloaded, and goes (R37). -/
def execCodeObjectUnload (s : State) : Host.Outcome State Fault Refusal :=
  .next (match s.event with
    | some (.codeObjectUnload id) =>
      if (s.engine.ctxs.any fun l => l.objid == id) ∨
          s.engine.asking.any fun a => hfld a.hdr 128 32 == id.toNat then out s (.report 1)
      else match codeOf s id with
        | none => s
        | some c =>
          if c.unloading then
            ({ s with engine := { s.engine with code := s.engine.code.filter fun x => x.id != id } }).modCore
              fun k => { k with resident := k.resident.filter fun r => r.1 != id }
          else
            send { s with engine := { s.engine with code :=
              (s.engine.code.map fun x => if x.id = id then { x with unloading := true } else x) } }
              (.codeObjectUnload id)
    | _ => s)

end Sys2Proof.Machine
end

