-- ==== Sys2Proof/Machine/Long.lean ====
section
/-!
DEFINITION. Long vectors: the LVU queue and its arbitration, QM, QF, QI, QR, QDOT, QDOP and QMEM (R211 to
R222, R236, R237, R262, R263).
-/

namespace Sys2Proof.Machine

/-! The queue (R213, R214). -/

/-- The q registers an entry reads and writes; VLONG and VSHORT write all of them (R211, R213). -/
def entryRegs : Instr → List (BitVec 5) × List (BitVec 5)
  | .qmov d a => ([a], [d])
  | .qsplat d _ _ => ([], [d])
  | .qxv _ a _ => ([a], [])
  | .qxq d _ _ => ([d], [d])
  | .qfadd d a b _ | .qfmul d a b _ | .qfmin d a b _ | .qfmax d a b _ | .qfcmp d a b _ _ => ([a, b], [d])
  | .qfma d a b _ | .qsel d a b _ => ([a, b, d], [d])
  | .qcvt d a _ _ => ([a], [d])
  | .qadd d a b _ | .qsub d a b _ | .qmul d a b _ | .qand d a b _ | .qor d a b _ | .qxor d a b _
  | .qshl d a b _ | .qshr d a b _ | .qmin d a b _ | .qmax d a b _ | .qcmp d a b _ _ => ([a, b], [d])
  | .qrsum _ a _ _ | .qrmax _ a _ _ | .qrmin _ a _ _ => ([a], [])
  | .qdot _ d a b _ => ([a, b, d], [d])
  | .qdop d a b => ([a, b, d], [d])
  | .qld d _ _ _ => ([], [d])
  | .qst q _ _ _ => ([q], [])
  | .qgat d _ x _ => ([x], [d])
  | .qsct q _ x _ => ([q, x], [])
  | .vlong | .vshort => ([], (List.range 16).map (BitVec.ofNat 5))
  | _ => ([], [])

/-- The same q register: its number has four bits. -/
def sameQ (a b : BitVec 5) : Bool := a.toNat % 16 == b.toNat % 16

/-- Does a list of entries hold one of a slot that writes a q register? -/
def writesQ (slot : BitVec 4) (r : BitVec 5) (es : List LvuEntry) : Bool :=
  es.any fun e => e.slot == slot && (entryRegs e.instr).2.any (sameQ r)

/-- May an entry start after some incomplete ones (R213)? -/
def mayStart (before : List LvuEntry) (e : LvuEntry) : Bool :=
  let (rd, wr) := entryRegs e.instr
  before.all (fun b => b.left == 0) && !((rd ++ wr).any fun r => writesQ e.slot r before)

/-- The head: the oldest entry that may start and has a piece to assign. -/
def lvuHead : List LvuEntry → List LvuEntry → Option LvuEntry
  | _, [] => none
  | before, e :: rest =>
    if 0 < e.left then (if mayStart before e then some e else none) else lvuHead (before ++ [e]) rest

/-- Is an entry a QDOP, which takes the array? -/
def LvuEntry.isDop (e : LvuEntry) : Bool := match e.instr with
  | .qdop .. => true
  | _ => false

/-- The head that is eligible for a kind of resource. -/
def headFor (s : State) (array : Bool) : Option LvuEntry :=
  (lvuHead [] s.core.lvu).filter fun e => e.isDop == array

/-- Assign one piece of the head. -/
def assignPiece (s : State) (array : Bool) : State :=
  match headFor s array with
  | none => s
  | some e => s.modCore fun c => { c with lvu := c.lvu.map fun x =>
      if x.id = e.id then { x with left := x.left - 1 } else x }

/-- A core's part in an arbitration: core, weight, pieces left. -/
abbrev Demand := BitVec 3 × Nat × Nat

/-- The demands of a cycle: this core's, of its own queue, and the others'. -/
def demands (s : State) (array : Bool) (others : List Demand) : List Demand :=
  let mine := (headFor s array).toList.map fun (e : LvuEntry) => ((s.loc.core, s.core.sys.qwgt.toNat, e.left) : Demand)
  let all := mine ++ others.filter fun d => d.1 != s.loc.core
  let heavy := all.filter fun d => decide (0 < d.2.1)
  if heavy.isEmpty then all.map fun d => (d.1, 1, d.2.2) else heavy

/-- A core's credit. -/
def creditOf (cr : List (BitVec 3 × Int)) (k : BitVec 3) : Int := (assoc k cr).getD 0

/-- The core with the largest credit whose head has a piece, the lowest number on a tie. -/
def bestDemand (cr : List (BitVec 3 × Int)) : List Demand → Option Demand
  | [] => none
  | d :: rest =>
    if d.2.2 = 0 then bestDemand cr rest
    else match bestDemand cr rest with
      | none => some d
      | some e =>
        if creditOf cr e.1 < creditOf cr d.1 ∨ (creditOf cr e.1 = creditOf cr d.1 ∧ d.1.toNat < e.1.toNat) then some d
        else some e

/-- Take a piece of a core away from its demand. -/
def served (k : BitVec 3) (ds : List Demand) : List Demand :=
  ds.map fun d => if d.1 = k then (d.1, d.2.1, d.2.2 - 1) else d

/-- The n assignments of one cycle (R214). -/
def assignN (array : Bool) (sum : Int) : Nat → List Demand → List (BitVec 3 × Int) → State →
    List (BitVec 3 × Int) × State
  | 0, _, cr, s => (cr, s)
  | n + 1, ds, cr, s =>
    match bestDemand cr ds with
    | none => (cr, s)
    | some d =>
      let cr1 := setAssoc d.1 (creditOf cr d.1 - sum) cr
      if d.1 = s.loc.core then
        let s1 := assignPiece s array
        let ds1 := match headFor s1 array with
          | some e => ds.map fun x => if x.1 = d.1 then (x.1, x.2.1, e.left) else x
          | none => ds.map fun x => if x.1 = d.1 then (x.1, x.2.1, 0) else x
        assignN array sum n ds1 cr1 s1
      else assignN array sum n (served d.1 ds) cr1 s

/-- The credits after the add: zero outside A, and at most N × S inside (R214). -/
def addCredits (n : Nat) (sum : Int) (ds : List Demand) (cr : List (BitVec 3 × Int)) : List (BitVec 3 × Int) :=
  ds.map fun d => (d.1, min (creditOf cr d.1 + n * d.2.1) (n * sum))

/-- Arbitrate(N) of R214. -/
def arbitrate (array : Bool) (n : Nat) (others : List Demand) (cr : List (BitVec 3 × Int)) (s : State) :
    List (BitVec 3 × Int) × State :=
  let ds := demands s array others
  let sum : Int := (ds.foldl (fun k d => k + d.2.1) 0 : Nat)
  assignN array sum n ds (addCredits n sum ds cr) s

/-- What the queue needs next: an arbitration while pieces are left, the completion of an entry without. -/
def driveLvu (s : State) : State :=
  let s1 :=
    if (s.core.lvu.any fun e => decide (0 < e.left)) && !(inAgenda s fun m => match m with
        | .lvuArbitration _ _ => true
        | _ => false) then send s (.lvuArbitration [] [])
    else s
  match s1.core.lvu with
  | e :: _ =>
    if e.left == 0 && !(inAgenda s1 fun m => m == .lvuEntryComplete) then send s1 .lvuEntryComplete else s1
  | [] => s1

/-- LVU_ARBITRATION: one cycle (R214). The message names the other cores' demands for lane groups and for the array. -/
def execLvuArbitration (s : State) : Host.Outcome State Fault Refusal :=
  .next (match s.event with
    | some (.lvuArbitration others array) =>
      let (cr, s1) := arbitrate false 8 others s.cluster.credits s
      let (ar, s2) := arbitrate true 1 array s.cluster.arrayCredits s1
      driveLvu (s2.modCluster fun c => { c with credits := cr, arrayCredits := ar })
    | _ => s)

/-! Entering the queue (R191, R213). -/

/-- The entry of an instruction of the issuing context, before its number is given. -/
def newEntry (s : State) (i : Instr) (pieces : Nat) : LvuEntry :=
  { id := 0, slot := BitVec.ofNat 4 s.core.cur.val, instr := i, ga := 0, gb := 0, va := 0, fa := 0, fb := 0
    mode := s.ctx.user.fmode, seed := s.ctx.user.lfsr, level := s.ctx.level, seq := s.ctx.act.seq
    places := [], pieces := pieces
    left := pieces }

/-- Enqueue an entry: it takes its copies, its v destination becomes pending, the LFSR steps (R191, R213). -/
def enqueue (e : LvuEntry) (vd : Option (BitVec 5)) (s : State) : State :=
  if 16 ≤ s.core.lvu.length then stall s
  else
    let (id, s1) := newId s
    let s2 := (stepLfsr s1).mod fun c => match vd with
      | some d => c.pendV d true
      | none => c
    driveLvu (retire (s2.modCore fun c => { c with lvu := c.lvu ++ [{ e with id := id }] }))

/-- An entry with q operands alone. -/
def enqueueQ (i : Instr) (s : State) : Host.Outcome State Fault Refusal := .next (enqueue (newEntry s i 32) none s)

/-! QM (R211, R218). -/

/-- VLONG: long mode from the next instruction (R211). -/
def execVlong (s : State) : Host.Outcome State Fault Refusal :=
  .next (enqueue (newEntry s .vlong 0) none (s.mod fun c => { c with longMode := true }))

/-- VSHORT: short mode from the next instruction (R211). -/
def execVshort (s : State) : Host.Outcome State Fault Refusal :=
  .next (enqueue (newEntry s .vshort 0) none (s.mod fun c => { c with longMode := false }))

/-- QMOV (R218). -/
def execQmov (d a : BitVec 5) (s : State) : Host.Outcome State Fault Refusal := enqueueQ (.qmov d a) s

/-- QSPLAT (R218). -/
def execQsplat (d a : BitVec 5) (z : BitVec 2) (s : State) : Host.Outcome State Fault Refusal :=
  .next (enqueue { newEntry s (.qsplat d a z) 32 with ga := gv s a } none s)

/-- QXV (R218). -/
def execQxv (d a b : BitVec 5) (s : State) : Host.Outcome State Fault Refusal :=
  .next (enqueue { newEntry s (.qxv d a b) 1 with gb := gv s b } (some d) s)

/-- QXQ (R218). -/
def execQxq (d a b : BitVec 5) (s : State) : Host.Outcome State Fault Refusal :=
  .next (enqueue { newEntry s (.qxq d a b) 1 with gb := gv s b, va := s.ctx.v a } none s)

/-! QF, QI, QR, QDOT, QDOP (R219 to R222). -/

/-- QFADD (R219). -/
def execQfadd (d a b : BitVec 5) (t : BitVec 3) (s : State) : Host.Outcome State Fault Refusal := enqueueQ (.qfadd d a b t) s

/-- QFMUL (R219). -/
def execQfmul (d a b : BitVec 5) (t : BitVec 3) (s : State) : Host.Outcome State Fault Refusal := enqueueQ (.qfmul d a b t) s

/-- QFMA (R219). -/
def execQfma (d a b : BitVec 5) (t : BitVec 3) (s : State) : Host.Outcome State Fault Refusal := enqueueQ (.qfma d a b t) s

/-- QFMIN (R219). -/
def execQfmin (d a b : BitVec 5) (t : BitVec 3) (s : State) : Host.Outcome State Fault Refusal := enqueueQ (.qfmin d a b t) s

/-- QFMAX (R219). -/
def execQfmax (d a b : BitVec 5) (t : BitVec 3) (s : State) : Host.Outcome State Fault Refusal := enqueueQ (.qfmax d a b t) s

/-- QCVT (R219). -/
def execQcvt (d a src : BitVec 5) (t : BitVec 3) (s : State) : Host.Outcome State Fault Refusal :=
  enqueueQ (.qcvt d a src t) s

/-- QSEL (R219). -/
def execQsel (d a b : BitVec 5) (t : BitVec 3) (s : State) : Host.Outcome State Fault Refusal := enqueueQ (.qsel d a b t) s

/-- QFCMP (R219). -/
def execQfcmp (d a b : BitVec 5) (t cond : BitVec 3) (s : State) : Host.Outcome State Fault Refusal :=
  enqueueQ (.qfcmp d a b t cond) s

/-- QADD (R219). -/
def execQadd (d a b : BitVec 5) (t : BitVec 3) (s : State) : Host.Outcome State Fault Refusal := enqueueQ (.qadd d a b t) s

/-- QSUB (R219). -/
def execQsub (d a b : BitVec 5) (t : BitVec 3) (s : State) : Host.Outcome State Fault Refusal := enqueueQ (.qsub d a b t) s

/-- QMUL (R219). -/
def execQmul (d a b : BitVec 5) (t : BitVec 3) (s : State) : Host.Outcome State Fault Refusal := enqueueQ (.qmul d a b t) s

/-- QAND (R219). -/
def execQand (d a b : BitVec 5) (t : BitVec 3) (s : State) : Host.Outcome State Fault Refusal := enqueueQ (.qand d a b t) s

/-- QOR (R219). -/
def execQor (d a b : BitVec 5) (t : BitVec 3) (s : State) : Host.Outcome State Fault Refusal := enqueueQ (.qor d a b t) s

/-- QXOR (R219). -/
def execQxor (d a b : BitVec 5) (t : BitVec 3) (s : State) : Host.Outcome State Fault Refusal := enqueueQ (.qxor d a b t) s

/-- QSHL (R219). -/
def execQshl (d a b : BitVec 5) (t : BitVec 3) (s : State) : Host.Outcome State Fault Refusal := enqueueQ (.qshl d a b t) s

/-- QSHR (R219). -/
def execQshr (d a b : BitVec 5) (t : BitVec 3) (s : State) : Host.Outcome State Fault Refusal := enqueueQ (.qshr d a b t) s

/-- QMIN (R219). -/
def execQmin (d a b : BitVec 5) (t : BitVec 3) (s : State) : Host.Outcome State Fault Refusal := enqueueQ (.qmin d a b t) s

/-- QMAX (R219). -/
def execQmax (d a b : BitVec 5) (t : BitVec 3) (s : State) : Host.Outcome State Fault Refusal := enqueueQ (.qmax d a b t) s

/-- QCMP (R219). -/
def execQcmp (d a b : BitVec 5) (t cond : BitVec 3) (s : State) : Host.Outcome State Fault Refusal :=
  enqueueQ (.qcmp d a b t cond) s

/-- A QR instruction: v[d] stays pending (R220). -/
def enqueueQr (i : Instr) (d : BitVec 5) (s : State) : Host.Outcome State Fault Refusal :=
  .next (enqueue (newEntry s i 32) (some d) s)

/-- QRSUM (R220). -/
def execQrsum (d a : BitVec 5) (t : BitVec 3) (int : BitVec 1) (s : State) : Host.Outcome State Fault Refusal :=
  enqueueQr (.qrsum d a t int) d s

/-- QRMAX (R220). -/
def execQrmax (d a : BitVec 5) (t : BitVec 3) (int : BitVec 1) (s : State) : Host.Outcome State Fault Refusal :=
  enqueueQr (.qrmax d a t int) d s

/-- QRMIN (R220). -/
def execQrmin (d a : BitVec 5) (t : BitVec 3) (int : BitVec 1) (s : State) : Host.Outcome State Fault Refusal :=
  enqueueQr (.qrmin d a t int) d s

/-- QDOT takes its scales at issue (R221). -/
def execQdot (p : BitVec 3) (d a b : BitVec 5) (c : BitVec 4) (s : State) : Host.Outcome State Fault Refusal :=
  .next (enqueue { newEntry s (.qdot p d a b c) 32 with
    fa := s.ctx.f (c.zeroExtend 5), fb := s.ctx.f (c.zeroExtend 5 + 1) } none s)

/-- QDOP takes one cycle of the array (R217, R222). -/
def execQdop (d a b : BitVec 5) (s : State) : Host.Outcome State Fault Refusal :=
  .next (enqueue (newEntry s (.qdop d a b) 1) none s)

/-! QMEM (R236, R237, R262, R263). -/

/-- The addresses of a strided access. -/
def strideEas (base step : Word) (n : Nat) : List Word :=
  (List.range n).map fun i => base + BitVec.ofNat 64 i * step

/-- The addresses of an indexed access: idx is an i32 element of q[x]. -/
def indexEas (base : Word) (zb : Nat) (x : QReg) (n : Nat) : List Word :=
  (lanesOf 32 n x.toNat).map fun i => base + BitVec.ofNat 64 zb * sextN (BitVec.ofNat 64 i) 32

/-- Does the span of the addresses meet a lock of the range-lock table (R246, R263)? -/
def spanLocked (s : State) (eas : List Word) (zb : Nat) (writes : Bool) : Bool :=
  match eas with
  | [] => false
  | e :: rest =>
    let lo := rest.foldl (fun m x => min m x.toNat) e.toNat
    let hi := rest.foldl (fun m x => max m x.toNat) e.toNat
    rangeLocked s (BitVec.ofNat 64 lo) (hi - lo + zb) writes

/-- Every element in order: the first that fails a check, or where they lie (R172, R237). -/
def checkElems (acc : AccType) (zb : Nat) (locked : Bool) : List Word → State →
    State × Except (Cause × Word) (List Place)
  | [], s => (s, .ok [])
  | ea :: rest, s =>
    match checkAccess s ea zb acc with
    | (s1, .error c) => (s1, .error (if locked ∧ (c = 13 ∨ c = 14) then 12 else c, ea))
    | (s1, .ok p) =>
      if locked then (s1, .error (12, ea))
      else match checkElems acc zb locked rest s1 with
        | (s2, .error e) => (s2, .error e)
        | (s2, .ok ps) => (s2, .ok (p :: ps))

/-- A long access at issue: it enters the queue once every element has passed (R237), and stalls where it goes outside
the cluster while 64 such requests are outstanding (R129). -/
def longAccess (i : Instr) (acc : AccType) (zb : Nat) (eas : List Word) (s : State) : State :=
  if 16 ≤ s.core.lvu.length then stall s
  else match checkElems acc zb (spanLocked s eas zb acc.writes) eas s with
    | (s1, .error (c, ea)) => trap s1 c ea
    | (s1, .ok ps) =>
      if acc = .read ∧ ps.any (fun p => p.layout == 2 && mstPending s1 p.pte) then stall s1
      else if ps.any (fun p => outsideCluster s1 p.pa) ∧ 64 ≤ outstanding s1 then stall s1
      else enqueue { newEntry s1 i 32 with places := ps } none s1

/-- QLD (R262). -/
def execQld (q a b : BitVec 5) (z : BitVec 2) (s : State) : Host.Outcome State Fault Refusal :=
  let zb := 2 ^ z.toNat
  .next (longAccess (.qld q a b z) .read zb (strideEas (gv s a) (gv s b) (2048 / zb)) s)

/-- QST (R262). -/
def execQst (q a b : BitVec 5) (z : BitVec 2) (s : State) : Host.Outcome State Fault Refusal :=
  let zb := 2 ^ z.toNat
  .next (longAccess (.qst q a b z) .write zb (strideEas (gv s a) (gv s b) (2048 / zb)) s)

/-- The elements of an indexed access. -/
def indexCount (zb : Nat) : Nat := min 512 (2048 / zb)

/-- An indexed access waits until its index register holds what the earlier entries of the context leave
in it, so that its checks are made before anything is performed (R213, R237). -/
def indexed (i : Instr) (acc : AccType) (x a : BitVec 5) (zb : Nat) (s : State) : State :=
  if writesQ (BitVec.ofNat 4 s.core.cur.val) x s.core.lvu then stall s
  else longAccess i acc zb (indexEas (gv s a) zb (s.ctx.q x) (indexCount zb)) s

/-- QGAT (R262). -/
def execQgat (q a x : BitVec 5) (z : BitVec 2) (s : State) : Host.Outcome State Fault Refusal :=
  .next (indexed (.qgat q a x z) .read x a (2 ^ z.toNat) s)

/-- QSCT (R262). -/
def execQsct (q a x : BitVec 5) (z : BitVec 2) (s : State) : Host.Outcome State Fault Refusal :=
  .next (indexed (.qsct q a x z) .write x a (2 ^ z.toNat) s)

/-! Completion (R213, R237). -/

/-- Every lane of a mask. -/
def allLanes (n : Nat) : List Bool := List.replicate n true

/-- Apply a lane operation to whole q registers. -/
def qLanes (w : Nat) (f : LaneOp) (c : Ctx) (d a b : BitVec 5) (st : FEnv) : Nat × FEnv :=
  let n := 16384 / w
  let (r, st1) := mapLanes f (allLanes n) (lanesOf w n (c.q a).toNat) (lanesOf w n (c.q b).toNat)
    (lanesOf w n (c.q d).toNat) st
  (packLanes w r, st1)

/-- All ones of w bits, or zero. -/
def elemMask (w : Nat) (b : Bool) : Nat := if b then 2 ^ w - 1 else 0

/-- The 64 dot products of QDOT, strip by strip (R221). -/
def qdotStrips (p : BitVec 3) (fa fb : Word) : List Nat → List Nat → List Nat → FEnv → List Nat × FEnv
  | a :: as, b :: bs, acc :: accs, st =>
    let (r, st1) := dotOne p (allLanes (pairCount p)) a b acc fa fb st
    let (rs, st2) := qdotStrips p fa fb as bs accs st1
    (r :: rs, st2)
  | _, _, _, st => ([], st)

/-- One row of QDOP: the elements of b under one of a (R222). -/
def dopRow (x : Nat) : List Nat → List Nat → FEnv → List Nat × FEnv
  | y :: ys, z :: zs, st =>
    let (r, st1) := ffma st .fp64 (fread st.md .fp64 x) (fread st.md .fp64 y) (fread st.md .fp64 z)
    let (rs, st2) := dopRow x ys zs st1
    (r :: rs, st2)
  | _, _, st => ([], st)

/-- The rows of QDOP in order. -/
def dopRows (bs : List Nat) : List Nat → List Nat → FEnv → List Nat × FEnv
  | x :: xs, zs, st =>
    let (r, st1) := dopRow x bs (zs.take 64) st
    let (rs, st2) := dopRows bs xs (zs.drop 64) st1
    (r ++ rs, st2)
  | [], _, st => ([], st)

/-- The result of an entry without memory accesses: a q register, or a v register, and the environment. -/
inductive EntryOut where
  | q (d : BitVec 5) (x : Nat) (st : FEnv)
  | v (d : BitVec 5) (x : Nat) (st : FEnv)
  | fill (f : Nat → QReg)
  | none

/-- A floating element-wise entry. -/
def qfOp (op : FltOp) (c : Ctx) (d a b : BitVec 5) (t : BitVec 3) (st : FEnv) : EntryOut :=
  let (x, st1) := qLanes (fmtOf t).width (fltLane op (fmtOf t)) c d a b st
  .q d x st1

/-- An integer element-wise entry. -/
def qiOp (op : IntOp) (c : Ctx) (d a b : BitVec 5) (t : BitVec 3) (st : FEnv) : EntryOut :=
  let (x, st1) := qLanes (intWidth t) (pureOp (intLane op t)) c d a b st
  .q d x st1

/-- A reduction entry. -/
def qrOp (op : RedOp) (c : Ctx) (d a : BitVec 5) (t : BitVec 3) (int : BitVec 1) (st : FEnv) : EntryOut :=
  let w := redWidth t int
  let (x, st1) := reduce op t int ((lanesOf w (16384 / w) (c.q a).toNat).map some) st
  .v d x st1

/-- What an entry computes on its context's partition (R218 to R222). -/
def entryEffect (e : LvuEntry) (c : Ctx) (fresh : Nat) : EntryOut :=
  let st : FEnv := { md := e.mode, lfsr := e.seed, flags := 0 }
  match e.instr with
  | .vlong => .fill fun _ => 0
  | .vshort => .fill fun i => Config.freeLong (fresh + i)
  | .qmov d a => .q d (c.q a).toNat st
  | .qsplat d _ z =>
    let w := 8 * 2 ^ z.toNat
    .q d (packLanes w (List.replicate (16384 / w) e.ga.toNat)) st
  | .qxv d a _ => .v d (nfld (c.q a).toNat (256 * fld e.gb 0 6) 256) st
  | .qxq d _ _ => .q d (setFld (c.q d).toNat (256 * fld e.gb 0 6) 256 e.va.toNat) st
  | .qfadd d a b t => qfOp .add c d a b t st
  | .qfmul d a b t => qfOp .mul c d a b t st
  | .qfma d a b t => qfOp .fma c d a b t st
  | .qfmin d a b t => qfOp .min c d a b t st
  | .qfmax d a b t => qfOp .max c d a b t st
  | .qcvt d a src t =>
    let (x, st1) := convertLanes 16384 (fun _ => true) src t (c.q a).toNat (c.q d).toNat st
    .q d x st1
  | .qsel d a b t =>
    let (x, st1) := qLanes (fmtOf t).width (fun st x y z => (if z ≠ 0 then x else y, st)) c d a b st
    .q d x st1
  | .qfcmp d a b t cond =>
    let f := fmtOf t
    let (x, st1) := qLanes f.width (fun st x y _ =>
      let (r, st1) := fcond st cond.toNat (fread st.md f x) (fread st.md f y)
      (elemMask f.width r, st1)) c d a b st
    .q d x st1
  | .qadd d a b t => qiOp .add c d a b t st
  | .qsub d a b t => qiOp .sub c d a b t st
  | .qmul d a b t => qiOp .mul c d a b t st
  | .qand d a b t => qiOp .and c d a b t st
  | .qor d a b t => qiOp .or c d a b t st
  | .qxor d a b t => qiOp .xor c d a b t st
  | .qshl d a b t => qiOp .shl c d a b t st
  | .qshr d a b t => qiOp (if intSigned t then .sar else .shr) c d a b t st
  | .qmin d a b t => qiOp .min c d a b t st
  | .qmax d a b t => qiOp .max c d a b t st
  | .qcmp d a b t cond =>
    let (x, st1) := qLanes (intWidth t)
      (pureOp fun x y => elemMask (intWidth t) (intCond cond.toNat t x y)) c d a b st
    .q d x st1
  | .qrsum d a t int => qrOp .sum c d a t int st
  | .qrmax d a t int => qrOp .max c d a t int st
  | .qrmin d a t int => qrOp .min c d a t int st
  | .qdot p d a b _ =>
    let w := accWidth p
    let (rs, st1) := qdotStrips p e.fa e.fb (lanesOf 256 64 (c.q a).toNat) (lanesOf 256 64 (c.q b).toNat)
      (lanesOf w 64 (c.q d).toNat) st
    .q d (setFld (c.q d).toNat 0 (64 * w) (packLanes w rs)) st1
  | .qdop d a b =>
    let (rs, st1) := dopRows (lanesOf 64 64 (c.q b).toNat) (lanesOf 64 4 (c.q a).toNat)
      (lanesOf 64 256 (c.q d).toNat) st
    .q d (packLanes 64 rs) st1
  | _ => .none

/-- The element access of an entry. -/
def elemAccess (who : BitVec 36) (p : Place) (zb data : Nat) (store : Bool) : Access :=
  { who := who, seq := 0, after := 0, kind := if store then .store else .load, ea := 0, pa := p.pa, size := zb
    data := BitVec.ofNat 256 data, cmp := 0, dst := .none, layout := p.layout, lease := p.lease, mode := 0, seed := 0 }

/-- Must an element wait: a lock bit or a lessor holds it? -/
def elemHeld (s : State) (who : BitVec 36) (zb : Nat) (store : Bool) (p : Place) : Bool :=
  match (homeStep s (elemAccess who p zb 0 store)).2 with
  | .refused | .held => true
  | _ => false

/-- Load elements in order, up to the first that fails. -/
def loadElems (who : BitVec 36) (zb : Nat) : List Place → State → List Nat × Option Cause × State
  | [], s => ([], none, s)
  | p :: rest, s =>
    match homeStep s (elemAccess who p zb 0 false) with
    | (s1, .value x _) =>
      let (vs, c, s2) := loadElems who zb rest s1
      (x.toNat :: vs, c, s2)
    | (s1, .failed c) => ([], some c, s1)
    | (s1, _) => ([], none, s1)

/-- Store elements in order, up to the first that fails: how many were stored. -/
def storeElems (who : BitVec 36) (zb : Nat) : List (Place × Nat) → State → Nat × Option Cause × State
  | [], s => (0, none, s)
  | (p, v) :: rest, s =>
    match homeStep s (elemAccess who p zb v true) with
    | (s1, .stored) =>
      let (k, c, s2) := storeElems who zb rest s1
      (k + 1, c, s2)
    | (s1, .failed c) => (0, some c, s1)
    | (s1, _) => (0, none, s1)

/-- Piece p is performed when every element in it is among the first k of m (R237). -/
def pieceDone (zb k m p : Nat) : Bool := decide ((p + 1) * (64 / zb) ≤ k) || decide (m ≤ p * (64 / zb))

/-- The mask of TVAL (R237). -/
def pieceMask (zb k m : Nat) : Word := BitVec.ofNat 64 (packLanes 1 ((List.range 32).map fun p => (pieceDone zb k m p).toNat))

/-- The q register of a load that failed: pieces not performed are undefined (R237). -/
def partialQ (zb k m : Nat) (x free : Nat) : Nat :=
  packLanes 512 ((List.range 32).map fun p => if pieceDone zb k m p then nfld x (512 * p) 512 else nfld free (512 * p) 512)

/-- PEER, LEASE or ECC at completion: a trap (R237). DESIGN CHOICE: a context that does not run just then, because it
waits, is interrupted or is stopped, takes it before its next instruction at the level of the access (log 69). -/
def longError (s : State) (i : Fin 11) (level : Level) (c : Cause) (mask : Word) : State :=
  let x := s.at i
  if x.slotState = .ready ∧ x.act.blocked.isNone ∧ x.level = level ∧ !x.framed ∧ !x.debugged then
    trapIn s i { code := c, tval := mask }
  else s.modAct i fun a => { a with longErr := a.longErr ++ [(level, c, mask)] }

/-- A long load at its completion. -/
def completeLoad (s : State) (i : Option (Fin 11)) (who : BitVec 36) (e : LvuEntry) (d : BitVec 5) (zb : Nat) : State :=
  let (vs, c, s1) := loadElems who zb e.places s
  let x := packLanes (8 * zb) vs
  match i with
  | none => s1
  | some i =>
    match c with
    | none => s1.setAt i ((s1.at i).setQ d (BitVec.ofNat 16384 x))
    | some cause =>
      let m := e.places.length
      let q := partialQ zb vs.length m x (Config.freeLong s1.fresh).toNat
      let s2 := { s1 with fresh := s1.fresh + 1 }
      longError (s2.setAt i ((s2.at i).setQ d (BitVec.ofNat 16384 q))) i e.level cause (pieceMask zb vs.length m)

/-- A long store at its completion. -/
def completeStore (s : State) (i : Option (Fin 11)) (who : BitVec 36) (e : LvuEntry) (q : QReg) (zb : Nat) : State :=
  let (k, c, s1) := storeElems who zb (e.places.zip (lanesOf (8 * zb) e.places.length q.toNat)) s
  match i, c with
  | some i, some cause => longError s1 i e.level cause (pieceMask zb k e.places.length)
  | _, _ => s1

/-- The memory side of an entry: what it loads into or stores from, and its element size. -/
def LvuEntry.mem (e : LvuEntry) : Option (BitVec 5 × Nat × Bool) :=
  match e.instr with
  | .qld q _ _ z | .qgat q _ _ z => some (q, 2 ^ z.toNat, false)
  | .qst q _ _ z | .qsct q _ _ z => some (q, 2 ^ z.toNat, true)
  | _ => none

/-- The q registers of a context filled (R211). -/
def fillQ (f : Nat → QReg) (c : Ctx) : Ctx := { c with regs := { c.regs with q := Vector.ofFn fun i => f i.val } }

/-- The effect of the entry that completes: its result, its flags, and the pending bit of its v destination
(R192, R213). -/
def completeEntry (s : State) (e : LvuEntry) : State :=
  let i := slotOf e.slot.toNat
  let who := BitVec.ofNat 4 e.slot.toNat ++ (selfId s 0).truncate 32
  match e.mem with
  | some (q, zb, true) =>
    match i with
    | some j => completeStore s i who e ((s.at j).q q) zb
    | none => completeStore { s with fresh := s.fresh + 1 } i who e (Config.freeLong s.fresh) zb
  | some (q, zb, false) => completeLoad s i who e q zb
  | none =>
    match i with
    | none => s
    | some j =>
      match entryEffect e (s.at j) s.fresh with
      | .q d x st => deliverFlags (s.setAt j ((s.at j).setQ d (BitVec.ofNat 16384 x))) j st.flags
      | .v d x st => deliverV (deliverFlags s j st.flags) j d (BitVec.ofNat 256 x)
      | .fill f => { s.setAt j (fillQ f (s.at j)) with fresh := s.fresh + 16 }
      | .none => s

/-- Is an element of the entry held (R243, R252)? -/
def entryHeld (s : State) (e : LvuEntry) : Bool :=
  match e.mem with
  | some (_, zb, store) =>
    e.places.any (elemHeld s (BitVec.ofNat 4 e.slot.toNat ++ (selfId s 0).truncate 32) zb store)
  | none => false

/-- The context of an entry. -/
def entryWho (s : State) (e : LvuEntry) : BitVec 36 := BitVec.ofNat 4 e.slot.toNat ++ (selfId s 0).truncate 32

/-- The bank port of the LVU (R253). -/
def lvuPort : Nat := 11

/-- The lock bits that a long store wants (R252). -/
def entryKeys (e : LvuEntry) : List Nat :=
  match e.mem with
  | some (_, _, true) => byteKeys (e.places.map fun p => some p.pa)
  | _ => []

/-- The oldest entry, its pieces done: it completes, or a bank or a lessor holds it back for a cycle (R213, R252,
R253). -/
def finishEntry (s : State) (e : LvuEntry) (rest : List LvuEntry) : State :=
  let keys := entryKeys e
  let raised := decide (8 ≤ ((assoc lvuPort s.cluster.lost).getD (0, [])).1)
  let lost := keys.any (keyHeld s (some (entryWho s e)))
    || waitsAhead s keys none (some lvuPort) raised (lostPort lvuPort)
  if entryHeld s e || lost then send (if lost then engineLost s lvuPort keys else s) .lvuEntryComplete
  else driveLvu ((completeEntry (engineServed s lvuPort keys) e).modCore fun c => { c with lvu := rest })

/-- LVU_ENTRY_COMPLETE (R213). -/
def execLvuEntryComplete (s : State) : Host.Outcome State Fault Refusal :=
  .next (match s.event with
    | some .lvuEntryComplete =>
      match s.core.lvu with
      | [] => s
      | e :: rest => if e.left ≠ 0 then s else finishEntry s e rest
    | _ => s)

end Sys2Proof.Machine
end

