-- ==== Sys2Proof/Machine/Pipe.lean ====
section
/-!
DEFINITION. Pipelines: stage queues, PBIND, PFREE, PSTAT, ENQ, DEQ, Millrace and its weight streams, the
engine stages, and the governor (R90 to R102, R302 to R310, R315 to R317).
-/

namespace Sys2Proof.Machine

/-! Reading what a descriptor names (R28, R95, R305). -/

/-- A failure of PBIND: the state, with what an error has logged, and status and detail; (0, 0) where a lessor holds a
page, and PBIND waits. -/
abbrev Fail := State × Nat × Nat

/-- REFUSED. -/
def refused (s : State) : Fail := (s, 1, 17)

/-- Read bytes as an engine of the binder. -/
def peek (s : State) (xroot : Word) (level : Level) (ea : Word) (n : Nat) : Except Fail (List Byte) :=
  match engRead s xroot level ea n with
  | .ok _ bs => .ok bs
  | .fault s1 c _ => .error (s1, engDetail c)
  | .held s1 => .error (s1, 0, 0)

/-- Read a resource entry. DESIGN CHOICE: its 64 bytes in one step, no mix of old and new words (R29; log 12). -/
def peekEntry (s : State) (xroot restb : Word) (level : Level) (i : Nat) : Except Fail (BitVec 512) :=
  (peek s xroot level (restb + BitVec.ofNat 64 (64 * i)) 64).map fun bs => BitVec.ofNat 512 (natLE bs)

/-- BASE, SIZE, KIND and LAYOUT of an entry (R26). -/
def entBase (e : BitVec 512) : Word := BitVec.ofNat 64 (nfld e.toNat 0 64)

/-- SIZE of an entry. -/
def entSize (e : BitVec 512) : Nat := nfld e.toNat 64 64

/-- KIND of an entry. -/
def entKind (e : BitVec 512) : Nat := nfld e.toNat 128 8

/-- Does an entry give rights (R26)? -/
def entRights (e : BitVec 512) (need : Nat) : Bool := nfld e.toNat 136 8 &&& need == need

/-- A check of R28, R92, R95, R96, R302 or R315. -/
def require (s : State) (b : Bool) : Except Fail Unit := if b then .ok () else .error (refused s)

/-- A stage record's KIND. -/
def stKind (r : BitVec 192) : Nat := nfld r.toNat 0 4

/-- PARAM0. -/
def stP0 (r : BitVec 192) : Nat := nfld r.toNat 128 32

/-- PARAM1. -/
def stP1 (r : BitVec 192) : Nat := nfld r.toNat 160 32

/-- DEPTH. -/
def stDepth (r : BitVec 192) : Nat := nfld r.toNat 100 12

/-- FORMAT. -/
def stFmt (r : BitVec 192) : Nat := nfld r.toNat 24 8

/-- The 64 KiB pages of a range, each with where it lies (R305): page number, and the place of its offset 0. A part of
the range in TCM below BOUND or in a cluster's system area is PROT below S level (R24, R106). -/
def peekPages (s : State) (xroot : Word) (level : Level) (acc : AccType) (ea : Word) (n : Nat) (bankRow : Bool) :
    Except Fail (List (Nat × Place)) :=
  if n = 0 then .ok []
  else
    let lo := ea.toNat / 2 ^ 16
    let hi := (ea.toNat + n - 1) / 2 ^ 16
    (List.range (hi + 1 - lo)).mapM fun k => do
      let a := max ea.toNat ((lo + k) * 2 ^ 16)
      let last := min (ea.toNat + n) ((lo + k + 1) * 2 ^ 16) - 1
      match translate s xroot level (BitVec.ofNat 64 a) acc with
      | (s1, .error c) => .error (s1, engDetail c)
      | (s1, .ok p) =>
        if bankRow ∧ (p.layout ≠ 1 ∨ p.pa / 2 ^ 52 ≠ s.loc.dev.toNat) then .error (refused s1)
        else if acc.writes ∧ p.layout = 2 then .error (s1, engDetail 13)
        else if level ≠ .s ∧ (belowBound s p.pa ∨ inClusterSystemArea (p.pa + (last - a))) then .error (s1, engDetail 6)
        else .ok (lo + k, { p with pa := p.pa - a % 2 ^ 16 })

/-- The place of a generic address in translated pages. -/
def viaPages (pages : List (Nat × Place)) (ea : Nat) : Option Place :=
  (assoc (ea / 2 ^ 16) pages).map fun p => { p with pa := p.pa + ea % 2 ^ 16 }

/-- Row length, row count and scale array of a WEIGHTS entry (R27). -/
def wtLen (e : BitVec 512) : Nat := nfld e.toNat 392 24

/-- The row count. -/
def wtRows (e : BitVec 512) : Nat := nfld e.toNat 416 32

/-- The scale-array address. -/
def wtScales (e : BitVec 512) : Nat := nfld e.toNat 448 64

/-- The element format. -/
def wtFmt (e : BitVec 512) : Nat := nfld e.toNat 384 8

/-- Bytes of a row, rounded up to 64 (R315). -/
def wtStep (e : BitVec 512) : Nat := (vecBytes (wtFmt e) (wtLen e) + 63) / 64 * 64

/-- The pages of a binding: the source pages with the scale arrays', the results pages, the bank units of the source. -/
structure PipePages where
  pages : List (Nat × Place)
  results : List (Nat × Place)
  units : List Nat

/-- The window, ENDOBJ and BINDOBJ of a descriptor header. -/
def pdLo (h : Nat) : Nat := nfld h 64 21

/-- RANKHI. -/
def pdHi (h : Nat) : Nat := nfld h 96 21

/-- BINDOBJ. -/
def pdBind (h : Nat) : Word := BitVec.ofNat 64 (nfld h 384 64)

/-- ENDOBJ. -/
def pdEnd (h : Nat) : Word := BitVec.ofNat 64 (nfld h 448 64)

/-- Is an object live with a kind, and no ring? -/
def objKind (s : State) (h : Word) (p : Nat → Bool) : Bool :=
  match objOf s h with
  | some o => o.queue.isNone && p o.kind.toNat
  | none => false

/-- The header's map and the window (R92, R95). -/
def headerMap (h size : Nat) (lo hi : BitVec 21) : Bool :=
  let n := nfld h 0 4
  nfld h 4 4 == 0 && nfld h 19 13 == 0 && nfld h 85 11 == 0 && nfld h 117 267 == 0
    && decide (1 ≤ n) && decide (n ≤ 8) && decide (1 ≤ nfld h 8 11) && decide (nfld h 8 11 ≤ 2000)
    && decide (64 + 24 * n ≤ size) && decide (1 ≤ pdLo h) && decide (pdLo h + 2 * (n - 1) ≤ pdHi h)
    && decide (lo.toNat ≤ pdLo h) && decide (pdHi h ≤ hi.toNat)
    && decide (pdHi h ≤ rankOf (pdBind h)) && decide (pdHi h ≤ rankOf (pdEnd h))

/-- A stage record's map (R96, R302): its kind by place, and what follows it. -/
def recordOk (r : BitVec 192) (idx n : Nat) (prev : Option (BitVec 192)) : Bool :=
  let x := r.toNat
  let k := stKind r
  nfld x 4 16 == 0 && nfld x 64 12 == 0 && decide (nfld x 20 4 ≤ 1) && decide (nfld x 76 12 < nfld x 88 12)
    && (if idx + 1 = n then stDepth r == 0 else decide (1 ≤ stDepth r))
    && (if idx = 0 then k == 1 || k == 3 else 2 ≤ k && k ≤ 5)
    && (k == 1 || nfld x 32 16 == 0xFFFF)
    && (match k with
      | 1 => nfld x 48 16 == 0xFFFF && decide (1 ≤ stP0 r) && decide (1 ≤ stP1 r) && decide (stP1 r ≤ 65535)
          && (idx + 1 == n || stDepth r == 1)
      | 2 => decide (0x28 ≤ stP0 r) && decide (stP0 r ≤ 0x2C) && stP1 r / 2 ^ 16 == 0
          && stFmt r == aCode (stP0 r - 0x28)
          && (match prev with
            | some q => stKind q == 1 && stFmt q == bCode (stP0 r - 0x28)
            | none => false)
      | 3 => decide (1 ≤ stP0 r) && decide (stP0 r ≤ 1024) && stP1 r == 0 && stFmt r == 0
      | 4 => nfld x 48 16 == 0xFFFF && stP0 r == 0 && stP1 r == 0 && stFmt r == 0
      | _ => nfld x 48 16 == 0xFFFF && stP1 r == 0 && stFmt r == 0)

/-- The WEIGHTS entry of a weight stream: its kind, rights, bounds and layout, and that none of its rows crosses a
64 KiB granule (R27, R28, R302, R315). A row's bytes rounded up are a multiple of 64, so the offsets in a granule
repeat after 1,024 rows. -/
def weightsOk (r : BitVec 192) (e : BitVec 512) : Bool :=
  let f := wtFmt e
  entKind e == 4 && entRights e 0x11 && nfld e.toNat 144 2 == 1 && stFmt r == f && (f == 3 || f == 5 || f == 6 || f == 7)
    && decide (32 ≤ wtLen e) && wtLen e % 32 == 0 && (f != 7 || wtScales e != 0)
    && decide (stP0 r * stP1 r ≤ wtRows e)
    && decide (wtStep e * (stP0 r * stP1 r - 1) + vecBytes f (wtLen e) ≤ entSize e)
    && (List.range (min (wtRows e) 1024)).all fun j =>
      decide ((nfld e.toNat 0 64 + wtStep e * j) % 2 ^ 16 + vecBytes f (wtLen e) ≤ 2 ^ 16)

/-- The entry that a stage names, read and checked (R28, R302). DESIGN CHOICE: an entry whose RIGHTS or bounds do not
serve is REFUSED (log 12). -/
def peekStage (s : State) (xroot restb : Word) (level : Level) (r : BitVec 192) (prev : Option (BitVec 192)) :
    Except Fail (BitVec 512) := do
  let x := r.toNat
  match stKind r with
  | 1 =>
    let e ← peekEntry s xroot restb level (nfld x 32 16)
    require s (weightsOk r e)
    .ok e
  | 2 =>
    let e ← peekEntry s xroot restb level (nfld x 48 16)
    let n := match prev with
      | some q => 4 * stP0 q * stP1 q
      | none => 0
    require s (entKind e == 2 && entRights e 0x12 && decide (n ≤ entSize e))
    .ok e
  | 3 =>
    let e ← peekEntry s xroot restb level (nfld x 48 16)
    require s (entKind e == 1 && entRights e 4)
    .ok e
  | 5 =>
    require s (clusterPresent s.grade (stP0 r))
    .ok 0
  | _ => .ok 0

/-- The entries that the stages of a descriptor name, in order. -/
def peekStages (s : State) (xroot restb : Word) (level : Level) (n : Nat) :
    Nat → Option (BitVec 192) → List (BitVec 192) → Except Fail (List (BitVec 512))
  | _, _, [] => .ok []
  | idx, prev, r :: rest => do
    require s (recordOk r idx n prev)
    let e ← peekStage s xroot restb level r prev
    let es ← peekStages s xroot restb level n (idx + 1) (some r) rest
    .ok (e :: es)

/-- The PIPEDESC entry, its descriptor, and the entries it names (R28, R95, R305). -/
def peekPipe (s : State) (index xroot restb : Word) (level : Level) (lo hi : BitVec 21) :
    Except Fail (BitVec 512 × List (BitVec 192) × List (BitVec 512)) := do
  if 65536 ≤ index.toNat then .error (s, 1, 9)
  else
    let e ← peekEntry s xroot restb level index.toNat
    if entKind e ≠ 8 then .error (s, 1, 9)
    else
      require s (entSize e % 64 == 0 && decide (64 ≤ entSize e) && decide (entSize e ≤ 256))
      let bs ← peek s xroot level (entBase e) (entSize e)
      let h := natLE (bs.take 64)
      require s (headerMap h (entSize e) lo hi)
      let n := nfld h 0 4
      let recs := (List.range n).map fun i => BitVec.ofNat 192 (natLE ((bs.drop (64 + 24 * i)).take 24))
      let es ← peekStages s xroot restb level n 0 none recs
      .ok (BitVec.ofNat 512 h, recs, es)

/-- The pages that Millrace translates for a stage (R305): those of its source region and its scale array for a fresh
weight stream, those of its results region for a bank stage. -/
def stagePages (s : State) (xroot : Word) (level : Level) (isNew : Bool) (r : BitVec 192) (e : BitVec 512) :
    Except Fail PipePages := do
  match stKind r with
  | 1 =>
    if !isNew then .ok { pages := [], results := [], units := [] }
    else
      let src ← peekPages s xroot level .engineRead (entBase e) (entSize e) true
      let sc ← peekPages s xroot level .engineRead (BitVec.ofNat 64 (wtScales e))
        (if wtScales e = 0 then 0 else codeScale (wtFmt e) * (wtLen e / 32) * wtRows e) false
      .ok { pages := src ++ sc, results := []
            units := (src.map fun p => unitNo (unitOfPa p.2.pa).1 (unitOfPa p.2.pa).2).eraseDups }
  | 2 =>
    let pages ← peekPages s xroot level .engineWrite (entBase e) (entSize e) false
    .ok { pages := [], results := pages, units := [] }
  | _ => .ok { pages := [], results := [], units := [] }

/-- The pages of every stage. -/
def pipePages (s : State) (xroot : Word) (level : Level) (isNew : Bool) :
    List (BitVec 192) → List (BitVec 512) → Except Fail PipePages
  | r :: rs, e :: es => do
    let a ← stagePages s xroot level isNew r e
    let b ← pipePages s xroot level isNew rs es
    .ok { pages := a.pages ++ b.pages, results := a.results ++ b.results, units := a.units ++ b.units }
  | _, _ => .ok { pages := [], results := [], units := [] }

/-- The cores of the placement units of the issuing context's launch, from its own unit onward, wrapping to unit 0
(R76, R317); a context without an item has its own core alone. -/
def pipeUnits (s : State) : List W32 :=
  let here := (me s).truncate 32
  match s.ctx.act.item.bind fun k => (launchCtxOf s k.lref).map fun l => (k, l) with
  | none => [here]
  | some (k, l) =>
    let us := launchUnits s (fld (l.lref.zeroExtend 64) 17 3) l.hdr l.kslots
    let no := itemNo l.widxv (hdrExtm1 l.hdr) (layFields l.widxv) 0 k.wid.toNat * us.length / max 1 (hdrItems l.hdr)
    let core (p : Nat × Nat) : W32 := BitVec.ofNat 32
      (l.lref.toNat / 2 ^ 20 * 2 ^ 20 + fld (l.lref.zeroExtend 64) 17 3 * 2 ^ 17 + p.1 * 2 ^ 10 + p.2 * 2 ^ 7)
    here :: ((us.rotateLeft (no + 1)).dropLast.map core).take 1023

/-- What a PBIND that issues now brings to Millrace, with what an error has logged; none where a lessor holds a page. -/
def pipeSnap (s : State) (index : Word) : State × Option PipeSnap :=
  let u := s.ctx.user
  let snap : PipeSnap :=
    { fail := none, hdr := 0, stages := [], entries := [], level := s.ctx.level, units := pipeUnits s }
  match peekPipe s index u.xroot u.restb s.ctx.level u.rankLo u.rankHi with
  | .error (s1, 0, _) => (s1, none)
  | .error (s1, f) => (s1, some { snap with fail := some f })
  | .ok (h, rs, es) => (s, some { snap with hdr := h, stages := rs, entries := es })

/-! Issue (R305 to R307, R310). -/

/-- Make a second result register pending with a token. -/
def pendSecond (d : BitVec 5) (s : State) : State := s.mod fun c => c.pendG (d + 1) true

/-- A request of the issuing context to Millrace. -/
def millMsg (s : State) (op : MillOp) (d : BitVec 5) : Msg :=
  let u := s.ctx.user
  .millraceRequest op (me s) d u.xroot u.restb u.rankLo u.rankHi

/-- A PBIND whose descriptor could be read goes to Millrace. -/
def sendPbind (s : State) (d : BitVec 5) (p : PipeSnap) : State :=
  retire (send (pendSecond d (startToken (reserve (reserve s)) d)) (millMsg s (.pbind p) d))

/-- PBIND reserves two owed-area places, and reads and checks its descriptor and the entries it names, its earlier
stores being performed (R28, R305, R324). A fault met there fails it through its token. -/
def execPbind (d a : BitVec 5) (s : State) : Host.Outcome State Fault Refusal :=
  .next (if owedFree s s.core.cur < 2 then trap s 11 (gv s a)
    else if writesOut s (me s) ∨ acquireOut s (me s) s.ctx.act.after then stall s
    else match pipeSnap s (gv s a) with
      | (_, none) => stall s
      | (s1, some p) => sendPbind s1 d p)

/-- PFREE: the context stays until Millrace has answered its checks (R306). -/
def execPfree (d a : BitVec 5) (s : State) : Host.Outcome State Fault Refusal :=
  .next (askHome s { h := gv s a, d := some d, op := none, kind := none, reserved := false }
    (millMsg s (.pfree (gv s a) ((oblsOf s s.core.cur).map fun o => (o.h, o.kind))) d))

/-- PSTAT (R307). -/
def execPstat (d a : BitVec 5) (s : State) : Host.Outcome State Fault Refusal :=
  .next (retire (send (pendSecond d (startToken s d)) (millMsg s (.pstat (gv s a)) d)))

/-- ENQ reads NEED before it waits (R91, R310). -/
def execEnq (d a : BitVec 5) (s : State) : Host.Outcome State Fault Refusal :=
  let need := gv s d
  .next (if fld need 24 40 ≠ 0 then trap s 6 need
    else if 17856 < need.toNat then retire (wg s d (waitResult 1 0x8000001 0))
    else waitIssue s d (gv s a) .enq)

/-- DEQ (R310). -/
def execDeq (d a : BitVec 5) (s : State) : Host.Outcome State Fault Refusal :=
  .next (waitIssue s d (gv s a) .deq)

/-! Binding (R92, R97 to R99, R305, R309). -/

/-- Write the token of Millrace's answer with the second register, both together (R305, R307). -/
def millAnswer (s : State) (who : BitVec 36) (token : BitVec 5) (status detail count : Nat) (second : Word) : State :=
  applyResult s { who := who, cls := 1, num := token, value := (tokenWord status detail count).zeroExtend 256, cause := 0
                  ea := 0, token := true, flags := 0, pair := some (token + 1, second) }

/-- The two reserved places of a PBIND are released. -/
def unreserveTwo (s : State) (who : BitVec 36) : State :=
  match localSlot s who with
  | some i => unreserve (unreserve s i) i
  | none => s

/-- Install an obligation that Millrace gives a context (R98, R305). DESIGN CHOICE: it ends a wait on its rank or above,
as a transfer's does (R58, R72; log 76). -/
def millInstall (s : State) (who : BitVec 36) (h : Word) (k : OblKind) : State :=
  match localSlot s who with
  | some i => installKept (rankAbort s i (rankOf h)) i h k
  | none => out s (.event (.obligationTransfer h k who (.millrace 0)))

/-- Are two weight streams identical (R97)? -/
def sameStream (i : Instance') (d : PipeSnap) (domain : BitVec 8) : Bool :=
  match i.stages, i.entries, d.stages, d.entries with
  | r :: _, e :: _, r' :: _, e' :: _ =>
    stKind r == 1 && stKind r' == 1 && i.domain == domain
      && nfld e.toNat 0 128 == nfld e'.toNat 0 128 && nfld e.toNat 144 2 == nfld e'.toNat 144 2
      && nfld e.toNat 384 128 == nfld e'.toNat 384 128
      && stFmt r == stFmt r' && stP0 r == stP0 r' && stP1 r == stP1 r'
  | _, _, _, _ => false

/-- The least number that a list does not hold. -/
def leastFree (l : List Nat) : Nat := ((List.range (l.length + 1)).find? fun n => !l.contains n).getD l.length

/-- The scope of a stage queue's SEMs: every core of the device (R90). -/
def queueScope : Word := 0x7F3F0000

/-- A SEM of a stage queue with its value and a standing RELEASE (R309): some free index is found (log 7). -/
def newSem (rank value : Nat) (queue : Nat × Bool) : Nat → State → Option (State × Obj)
  | 0, _ => none
  | n + 1, s =>
    match newObject s rank 3 0 0 queueScope (some queue) with
    | none => newSem rank value queue n { s with fresh := s.fresh + 1 }
    | some (s1, o) =>
      let o1 := (o.setCount value).owe 1
      some (setObj s1 o1, o1)

/-- Where a ring of some entries goes: below the rings of the die's SRAM, from its top (R305; log 25). -/
def ringPlace (s : State) (die depth : Nat) : Option Nat :=
  let base := 3 * 2 ^ 56 + die * 2 ^ 26
  let low := s.signals.queues.foldl (fun m q =>
    if q.base.toNat / 2 ^ 26 = base / 2 ^ 26 then min m q.base.toNat else m) (base + 0x3000000)
  if low < base + 64 * depth then none else some (low - 64 * depth)

/-- A fresh stage queue with its ring at a place: its SEMs and their standing RELEASEs (R305, R309). -/
def newQueueAt (s : State) (stage depth rankD rankS base : Nat) : Option (State × Nat) :=
  let id := leastFree (s.signals.queues.map (·.id))
  match newSem rankD 0 (id, false) 64 s with
  | none => none
  | some (s1, od) =>
    match newSem rankS depth (id, true) 64 s1 with
    | none => none
    | some (s2, os) =>
      let q : StageQueue :=
        { id := id, data := od.handle, space := os.handle, depth := depth, t := 0, h := 0
          ring := List.replicate depth
            { count := 0, holder := none, consumer := none, filled := false, free := true, code := none }
          base := BitVec.ofNat 64 base, stage := stage }
      some ({ s2 with signals := { s2.signals with queues := s2.signals.queues ++ [q] } }, id)

/-- A fresh stage queue: its ring, its SEMs and their standing RELEASEs. -/
def newQueue (s : State) (die stage depth rankD rankS : Nat) : Option (State × Nat) :=
  (ringPlace s die depth).bind (newQueueAt s stage depth rankD rankS)

/-- The rings of every fresh queue with DEPTH 2 or more: queue number and id (R92, R305). -/
def newQueues (die lo q : Nat) : Nat → List (BitVec 192) → State → Option (State × List (Nat × Nat))
  | _, [], s => some (s, [])
  | i, r :: rest, s =>
    if stDepth r < 2 then newQueues die lo q (i + 1) rest s
    else (newQueue s die i (stDepth r) (lo + i - 1) (lo + 2 * q - i)).bind fun u =>
      (newQueues die lo q (i + 1) rest u.1).map fun t => (t.1, (i, u.2) :: t.2)

/-- The placement units of the core stages: PARAM0 of them each, from the binder's own onward (R317). -/
def coreUnits (cores : List W32) : Nat → List (BitVec 192) → List BoundUnit
  | _, [] => []
  | i, r :: rest =>
    (if stKind r = 3 then (cores.take (stP0 r)).mapIdx fun k c => { stage := i, core := c, own := k == 0, moved := none }
      else []) ++ coreUnits cores (i + 1) rest

/-- The DATA handle of the input queue of a stage of a binding; 0 where it has none. -/
def inputData (s : State) (b : Binding) (stage : Nat) : Word :=
  match assoc stage b.queues with
  | none => 0
  | some id => ((queueOf s id).map (·.data)).getD 0

/-- REBIND reaches the control context of a unit's core (R94, R303). -/
def rebind (s : State) (b : Binding) (core : W32) (stage : Nat) : State :=
  let h := inputData s b stage
  if core = (selfId s 0).truncate 32 then holdEvent s (eventOf 0x41 0 h) else out s (.rebind core h)

/-- The units of the core stages but the binder's own learn of the binding (R303). -/
def rebindAll (b : Binding) : List BoundUnit → State → State
  | [], s => s
  | u :: rest, s => rebindAll b rest (if u.own then s else rebind s b u.core u.stage)

/-- A new consumer place (R100). -/
def newConsumer (place bind laps : Nat) (stream : Bool) : Consumer :=
  { place := place, bind := bind, state := if stream then .joining else .idle, seg := 0, image := none, imageSeg := 0
    mode := 0, seed := 0, cur := none, curStaged := false, waitEntry := none, flags := 0, failCode := none
    misses := 0, missLap := 0, missSeg := 0, got := 0
    first := none, laps := 0, lapsDue := laps, owing := 0 }

/-- A fresh instance (R98). -/
def newInstance (s : State) (d : PipeSnap) (pg : PipePages) (domain : BitVec 8) (xroot : Word) (owner : Nat) :
    Instance' :=
  let stream := d.stages.take 1 |>.any fun r => stKind r == 1
  { id := leastFree (s.mill.insts.map (·.id)) % 2 ^ 15, stages := d.stages, entries := d.entries, domain := domain
    xroot := xroot, units := pg.units, segs := if stream then ((d.stages.head?.map stP1).getD 0) else 0
    rows := if stream then ((d.stages.head?.map stP0).getD 0) else 0, lap := 0, seg := 0, gateOpen := true, gateAt := 0
    deadline := nfld d.hdr.toNat 8 11, reading := false, stopped := !stream, owner := owner, pages := pg.pages, consumers := [] }

/-- Is the stream at a closed gate? -/
def Instance'.atGate (i : Instance') : Bool := !i.gateOpen && !i.reading && !i.stopped

/-- Does a binding join at a segment (R96, R100)? -/
def joinsAt (b : Binding) (seg : Nat) : Bool := match b.desc with
  | r :: _ => r.toNat.testBit (112 + seg % 16)
  | [] => false

/-- The consumer of a new binding joins the instance: a gate still closed counts, and a stopped stream goes on
(R100, R101). -/
def attach (s : State) (i : Instance') (b : Binding) (c : Consumer) : State :=
  let c1 := if c.state = .joining ∧ i.atGate ∧ joinsAt b i.seg then { c with state := .gated, seg := i.seg } else c
  let i1 := { i with consumers := i.consumers ++ [c1] }
  if i.segs = 0 then setInst s i1
  else
    let i2 := if i.stopped then { i1 with stopped := false, gateOpen := true } else i1
    send (setInst s i2) (.segmentStart i.id)

/-- The generation of a new binding. -/
def nextGen (s : State) (id : Nat) : BitVec 8 := (assoc id s.mill.gens).getD 0 + 1

/-- A governor sample is due every 10 µs, which is 1,562.5 reference cycles (R15, R93). DEDUCED: the samples fall on the
multiples of 10 µs of the reference count (log 43). -/
def armGovernor (s : State) : State :=
  if (s.timers.any fun t => t.2 == .governorSample) || (inAgenda s fun m => m == .governorSample) || s.mill.binds.isEmpty
  then s
  else after s (((s.clock.ref * 2 / 3125 + 1) * 3125 + 1) / 2) .governorSample

/-- BINDOBJ of a PBIND. -/
def pipeBind (d : PipeSnap) : Word := pdBind d.hdr.toNat

/-- ENDOBJ of a PBIND. -/
def pipeEnd (d : PipeSnap) : Word := pdEnd d.hdr.toNat

/-- The instance that a PBIND attaches to: the oldest with the same weight stream and a free place (R97 to R99). -/
def sharedBy (s : State) (d : PipeSnap) (domain : BitVec 8) : Option Instance' :=
  s.mill.insts.find? fun i => sameStream i d domain && decide (i.consumers.length < 16)

/-- Millrace has a PBIND in hand no more. -/
def millDone (s : State) : State := { s with mill := { s.mill with asking := none } }

/-- PBIND fails (R305). -/
def pbindFail (s : State) (who : BitVec 36) (token : BitVec 5) (f : Nat × Nat) : State :=
  millAnswer (unreserveTwo (millDone s) who) who token f.1 f.2 0 0

/-- ENDOBJ's home installs the SIGNAL: here, or where it is homed. -/
def ownEnd (s : State) (h : Word) : State :=
  if !homeHere s h then out s (.event (.pipeStep h .own s.loc.dev))
  else match objOf s h with
    | some e => setObj s e.created
    | none => s

/-- One unit of BINDOBJ, with its RELEASE (R49, R98). -/
def takeBind (s : State) (h : Word) : State :=
  match objOf s h with
  | some o => setObj s ((o.setCount (o.count - 1)).owe 1)
  | none => s

/-- The binding is made, its unit of BINDOBJ being taken and its rings allocated (R98, R305). DESIGN CHOICE: BIND
counts up from 0, and INST and the consumer place are the lowest free ones (log 68). -/
def bindPipe (s1 : State) (d : PipeSnap) (pg : PipePages) (queues : List (Nat × Nat)) (who : BitVec 36) (token : BitVec 5)
    (xroot : Word) : State :=
  let domain := BitVec.ofNat 8 (fld xroot 8 8)
  let shared := sharedBy s1 d domain
  let id := s1.mill.ids % 2 ^ 20
  let gen := nextGen s1 id
  let i := shared.getD (newInstance s1 d pg domain xroot id)
  let place := leastFree (i.consumers.map (·.place))
  let b : Binding :=
    { id := id, gen := gen, inst := i.id, place := place, pos := if shared.isSome then 1 else 0, binder := who
      bindObj := pipeBind d, endObj := pipeEnd d, hasEnd := shared.isNone, queues := queues
      fresh := queues.map (·.2), desc := d.stages, units := coreUnits d.units 0 d.stages, jobs := []
      pages := pg.results
      base := (((d.stages.findIdx? fun r => stKind r == 2).bind fun k => d.entries[k]?).map fun e =>
        nfld e.toNat 0 64).getD 0 }
  let s3 := millInstall (unreserveTwo s1 who) who (pipeBind d) .release
  let s4 := if shared.isSome then s3
    else
      let u := millInstall (ownEnd s3 (pipeEnd d)) who (pipeEnd d) .signal
      { u with mill := { u.mill with insts := u.mill.insts ++ [i] } }
  let s5 := { s4 with mill := { s4.mill with
    asking := none, binds := s4.mill.binds ++ [b], ids := s4.mill.ids + 1, gens := setAssoc id gen s4.mill.gens } }
  let c := newConsumer place id (nfld d.hdr.toNat 32 32) (decide (i.segs ≠ 0))
  let s6 := rebindAll b b.units (attach s5 i b c)
  let h := BitVec.ofNat 64 (s1.loc.dev.toNat * 2 ^ 52 + gen.toNat * 2 ^ 39 + place * 2 ^ 35 + i.id * 2 ^ 20 + id)
  armGovernor (millAnswer s6 who token 0 0 b.pos h)

/-- What Millrace knows of an object of a PBIND: the detail of the failure or 0, or none where its home on another
device has not answered. -/
def pipeKnown (s : State) (h : Word) (p : Nat → Bool) (answered : PipeAsking → Option Nat) : Option Nat :=
  if homeHere s h then some (if objKind s h p then 0 else 17) else s.mill.asking.bind answered

/-- Millrace keeps a PBIND in hand (R98). -/
def millHold (s : State) (m : Msg) : State :=
  if s.mill.asking.isSome then s
  else { s with mill := { s.mill with asking := some { msg := m, checked := none, taken := none } } }

/-- A PBIND that fails after its first step gives the unit of BINDOBJ back (R98, R305). -/
def giveBack (s : State) (h : Word) : State :=
  if homeHere s h then dischargeAt s h .release .ok (.millrace 0) else out s (.event (.discharge h .release .ok (.millrace 0)))

/-- PBIND after its unit of BINDOBJ is taken (R98, R305): ENDOBJ, the pages, the rings. A page that a lessor holds keeps
it in hand. -/
def pbindRest (s : State) (m : Msg) (d : PipeSnap) (who : BitVec 36) (token : BitVec 5) (xroot : Word) : State :=
  let fail (t : State) (f : Nat × Nat) : State := pbindFail (giveBack t (pipeBind d)) who token f
  match pipeKnown s (pipeEnd d) (fun k => k == 1 || k == 2) (·.checked) with
  | none => out s (.event (.pipeStep (pipeEnd d) .check s.loc.dev))
  | some 0 =>
    match pipePages s xroot d.level (sharedBy s d (BitVec.ofNat 8 (fld xroot 8 8))).isNone d.stages d.entries with
    | .error (s1, 0, _) => send s1 m
    | .error (s1, f) => fail s1 f
    | .ok pg =>
      let q := d.stages.length - 1
      match newQueues (nfld who.toNat 17 3) (pdLo d.hdr.toNat) q 1 (d.stages.take q) s with
      | none => fail s (1, 17)
      | some (s1, queues) => bindPipe s1 d pg queues who token xroot
  | some code => fail s (1, code)

/-- Millrace keeps in hand a PBIND whose unit of BINDOBJ is taken (R98). -/
def millTook (s : State) (m : Msg) : State :=
  { s with mill := { s.mill with asking := some { msg := m, checked := s.mill.asking.bind (·.checked), taken := some 0 } } }

/-- PBIND at Millrace: first its unit of BINDOBJ, here or at its home on another device, then the rest (R98, R305). -/
def pbindAt (s : State) (m : Msg) (d : PipeSnap) (who : BitVec 36) (token : BitVec 5) (xroot : Word) : State :=
  match d.fail, s.mill.asking.bind (·.taken) with
  | some f, _ => pbindFail s who token f
  | none, some 0 => pbindRest s m d who token xroot
  | none, some code => pbindFail s who token (1, code)
  | none, none =>
    if homeHere s (pipeBind d) then
      if !objKind s (pipeBind d) (· == 3) then pbindFail s who token (1, 17)
      else if (objOf s (pipeBind d)).any fun o => o.count == 0 then pbindFail s who token (1, 16)
      else pbindRest (takeBind (millTook s m) (pipeBind d)) m d who token xroot
    else out (millHold s m) (.event (.pipeStep (pipeBind d) .take s.loc.dev))

/-- A home's part in another device's PBIND: the answer's code and the state (R98, R305). -/
def pipeStepAt (s : State) (h : Word) : PipeAsk → State × Nat
  | .check => (s, if objKind s h (fun k => k == 1 || k == 2) then 0 else 17)
  | .own => (ownEnd s h, 0)
  | .take =>
    if !objKind s h (· == 3) then (s, 17)
    else if (objOf s h).any fun o => o.count == 0 then (s, 16)
    else (takeBind s h, 0)

/-- The home's answer joins the PBIND in hand, which goes on. -/
def pipeAnswered (s : State) (what : PipeAsk) (code : Nat) : State :=
  match s.mill.asking with
  | none => s
  | some a =>
    let a1 : PipeAsking := match what with
      | .check => { a with checked := some code }
      | .take => { a with taken := some code }
      | .own => a
    send { s with mill := { s.mill with asking := some a1 } } a.msg

/-! PFREE and PSTAT (R102, R306, R307). -/

/-- The standing obligations of a binding's fresh queues are discharged (R309). -/
def dropStanding (b : Binding) : List Nat → State → State
  | [], s => s
  | id :: rest, s =>
    match queueOf s id with
    | none => dropStanding b rest s
    | some q =>
      dropStanding b rest (dischargeAt (dischargeAt s q.data .release .standing (.millrace b.id)) q.space .release .standing
        (.millrace b.id))

/-- The context that issued the oldest remaining binding's PBIND. -/
def oldestBinder (s : State) (inst : Nat) : Option (BitVec 36) :=
  (s.mill.binds.find? fun b => b.inst == inst).map (·.binder)

/-- Does the caller of a PFREE hold an obligation: now for a context of this core, with its request for another? -/
def callerHolds (s : State) (who : BitVec 36) (held : List (Word × OblKind)) (h : Word) (k : OblKind) : Bool :=
  match localSlot s who with
  | some i => holds s i h k
  | none => held.contains (h, k)

/-- The caller of a PFREE gives an obligation up. -/
def callerLoses (s : State) (who : BitVec 36) (h : Word) (k : OblKind) : State :=
  match localSlot s who with
  | some i => (removeObl s i h k).getD s
  | none => s

/-- The caller's stream-end SIGNAL moves on, or is discharged (R102). -/
def moveEnd (s : State) (b : Binding) (who : BitVec 36) (held : List (Word × OblKind)) (left : Bool) : State :=
  if !callerHolds s who held b.endObj .signal then s
  else
    let s1 := callerLoses s who b.endObj .signal
    match (if left then oldestBinder s1 b.inst else none) with
    | some t =>
      if (localSlot s1 t).isSome then send s1 (.obligationTransfer b.endObj .signal t (.millrace b.id))
      else out s1 (.event (.obligationTransfer b.endObj .signal t (.millrace b.id)))
    | none => send s1 (.discharge b.endObj .signal .ok (.ctx who))

/-- The owner of an instance's SIGNAL after a binding has gone: the ENDOBJ of the fresh binding stays the
instance's (R102). -/
def endObjOf (s : State) (b : Binding) : Word :=
  match (s.mill.binds.find? fun x => x.inst == b.inst && x.hasEnd) with
  | some x => x.endObj
  | none => b.endObj

/-- PFREE, its checks passed (R102, R306). -/
def freeBinding (s : State) (b : Binding) (who : BitVec 36) (held : List (Word × OblKind)) : State :=
  let laps := match instOf s b.inst with
    | some i => ((i.consumers.find? fun c => c.place == b.place).map (·.laps)).getD 0
    | none => 0
  let s1 := callerLoses s who b.bindObj .release
  let s2 := if homeHere s1 b.bindObj then dischargeAt s1 b.bindObj .release .ok (.ctx who)
    else out s1 (.event (.discharge b.bindObj .release .ok (.ctx who)))
  let endH := endObjOf s2 b
  let next := (s2.mill.binds.filter fun x => x.inst == b.inst && x.id != b.id).head?
  let binds := (s2.mill.binds.filter fun x => x.id != b.id).map fun x =>
    if b.hasEnd && (next.map (·.id)) == some x.id then { x with hasEnd := true, endObj := endH } else x
  let s3 := { s2 with mill := { s2.mill with binds := binds } }
  let s4 := match instOf s3 b.inst with
    | none => s3
    | some i =>
      let i1 := { i with consumers := i.consumers.filter fun c => c.place != b.place }
      if i1.consumers.isEmpty then
        { s3 with mill := { s3.mill with insts := s3.mill.insts.filter fun x => x.id != i.id } }
      else send (setInst s3 i1) (.segmentStart i.id)
  let s5 := moveEnd s4 { b with endObj := endH } who held next.isSome
  let s6 := dropStanding b b.fresh s5
  answer s6 (.ctx who) (.done (tokenWord 0 0 laps) none none)

/-- PFREE at Millrace: its checks in order (R306). -/
def pfreeAt (s : State) (h : Word) (who : BitVec 36) (held : List (Word × OblKind)) : State :=
  let reply (a : HomeAns) : State := answer s (.ctx who) a
  if fld h 47 5 ≠ 0 then reply (.done (tokenWord 1 9 0) none none)
  else match bindingOf s h with
    | none => reply (.done (tokenWord 1 18 0) none none)
    | some b =>
      if callerHolds s who held b.bindObj .release then freeBinding s b who held else reply (.fault 6 h false)

/-- States of a consumer as PSTAT codes them. -/
def consCode : ConsState → Nat
  | .joining => 0
  | .gated => 1
  | .active => 2
  | .idle => 3

/-- The answer to a query (R307). -/
def pstatValue (s : State) (b : Binding) (i : Instance') (q : Nat) : Word :=
  match i.consumers.find? fun c => c.place == b.place with
  | none => 0
  | some c =>
    match q with
    | 0 => BitVec.ofNat 64 (c.laps % 2 ^ 32 * 2 ^ 32 + c.seg % 2 ^ 16 * 2 ^ 16 + consCode c.state)
    | 1 => BitVec.ofNat 64 (min c.misses 65535 * 2 ^ 48 + c.missLap % 2 ^ 32 * 2 ^ 16 + c.missSeg % 2 ^ 16)
    | 2 => BitVec.ofNat 64 (i.lap % 2 ^ 32 * 2 ^ 32 + i.seg % 2 ^ 16 * 2 ^ 16 + i.consumers.length * 2 ^ 8 + b.pos)
    | q =>
      let n := if q ≤ 9 then q - 2 else q - 9
      match (assoc n b.queues).bind (queueOf s) with
      | none => 0
      | some x => if q ≤ 9 then x.data else x.space

/-- PSTAT at Millrace (R307). -/
def pstatAt (s : State) (h : Word) (who : BitVec 36) (token : BitVec 5) : State :=
  let q := fld h 47 5
  match bindingOf s h with
  | none => millAnswer s who token 1 18 0 0
  | some b =>
    match instOf s b.inst with
    | none => millAnswer s who token 1 18 0 0
    | some i => if 17 ≤ q then millAnswer s who token 1 9 0 0 else millAnswer s who token 0 0 0 (pstatValue s b i q)

/-- Millrace notes the cycle and the die of a request it takes: a lower die's comes no later in that cycle (R98). -/
def millTakes (s : State) (who : BitVec 36) : State :=
  { s with mill := { s.mill with last := (s.clock.cycle, nfld who.toNat 17 3) } }

/-- An image that a BVLD of another core stages (R298, R308). -/
def stageForeign (s : State) (h : Nat) (image : Except (Nat × Nat) (List Byte)) (who : BitVec 36) (token : BitVec 5)
    (xroot mode : Word) (seed : W32) : State :=
  match stageRefusal s h xroot, image with
  | some detail, _ => giveToken s who token 0 (tokenWord 1 detail 0)
  | none, .error (status, detail) => giveToken s who token 0 (tokenWord status detail 0)
  | none, .ok bs => putStaged (giveToken s who token 0 (tokenWord 0 0 1)) h bs mode seed

/-- MILLRACE_REQUEST (R98): a request at Millrace, what another device's Millrace asks of this home, and the answer of
one that this Millrace asked. -/
def execMillraceRequest (s : State) : Host.Outcome State Fault Refusal :=
  .next (match s.event with
    | some (.millraceRequest op who token xroot restb lo hi) =>
      match op with
      | .pbind p => pbindAt (millTakes s who) (.millraceRequest op who token xroot restb lo hi) p who token xroot
      | .pfree h held => pfreeAt (millTakes s who) h who held
      | .pstat h => pstatAt (millTakes s who) h who token
      | .stage hdr image mode seed => stageForeign s hdr.toNat image who token xroot mode seed
    | some (.pipeStep h what dev) =>
      if !homeHere s h then out s (.event (.pipeStep h what dev))
      else
        let (s1, code) := pipeStepAt s h what
        if what = .own then s1 else out s1 (.event (.pipeStepAnswer what dev code))
    | some (.pipeStepAnswer what dev code) =>
      if dev = s.loc.dev then pipeAnswered s what code else out s (.event (.pipeStepAnswer what dev code))
    | _ => s)

/-! Queues as the engine stages use them (R302, R308, R309). -/

/-- The SEM of a queue that an engine takes from. -/
def semOf (s : State) (q : StageQueue) (space : Bool) : Option Obj := objOf s (if space then q.space else q.data)

/-- Write the bytes of an entry. -/
def writeEntry (s : State) (ea : Word) (bs : List Byte) : State :=
  match resolve s ea with
  | .ok pa => writeBytes s pa bs
  | .error _ => s

/-- Enqueue an entry into a queue for a binding: none where no entry is free. With a code the entry carries
OFAIL's (R308). -/
def enqueueFor (s : State) (b : Binding) (id : Nat) (bs : List Byte) (code : Option (BitVec 28)) : Option State :=
  match queueOf s id with
  | none => none
  | some q =>
    if !q.ready true then none
    else match semOf s q true with
      | none => none
      | some o =>
        let (s1, _) := takeEntry s o id true (.millrace b.id)
        some (dischargeAt (writeEntry s1 (q.addr q.t) bs) q.data .release
          (match code with
            | some c => .fail c
            | none => .ok) (.millrace b.id))

/-- The bytes and the carried code of the entry a DEQ would take; none where it is not FILLED. -/
def peekQueue (s : State) (id : Nat) : Option (StageQueue × List Byte × Option (BitVec 28)) :=
  match queueOf s id with
  | none => none
  | some q =>
    if !q.ready false then none
    else match resolve s (q.addr q.h) with
      | .ok pa => some (q, Memory.bytes s.mem pa 64, (q.entry q.h).code)
      | .error _ => none

/-- Take the entry and give its place back at once. -/
def dequeueFor (s : State) (b : Binding) (q : StageQueue) : State :=
  match semOf s q false with
  | none => s
  | some o =>
    let (s1, _) := takeEntry s o q.id false (.millrace b.id)
    dischargeAt s1 q.space .release .ok (.millrace b.id)

/-- A job of an engine stage: it has no issuing context, so FMODE and the seed are free values (log 5). -/
def stageJob (s : State) (b : Binding) (i : Instance') : Job × State :=
  let (md, s1) := takeFree s
  let (sd, s2) := takeFree s1
  ({ id := s.core.ids, who := noSlot b.binder, token := 0, op := .copy 0 0 0 0 0 0, mode := md, seed := sd.truncate 32
     level := .h, started := true, startRef := s.clock.ref, rows := 0, xroot := i.xroot, seq := 0, after := 0
     flags := 0 }, s2)

/-- What an engine stage made of an entry: tried again later, with the job in hand; left to another cluster; or the
entry to pass on, with a code where it failed. -/
inductive StageOut where
  | wait (s : State) (j : Option Job)
  | away (s : State)
  | done (s : State) (bs : List Byte) (code : Option (BitVec 28))

/-- A failure code as R308 forms it. -/
def failCode (f : Nat × Nat) : BitVec 28 := BitVec.ofNat 28 (f.1 * 2 ^ 24 + f.2)

/-- What a stage has in hand. -/
def Binding.jobOf (b : Binding) (idx : Nat) : Option StageJob := assoc idx b.jobs

/-- The job that a stage has got some way with, or a new one. -/
def stageJobOf (s : State) (b : Binding) (i : Instance') (idx : Nat) : Job × State :=
  match b.jobOf idx with
  | some (.here j) => (j, s)
  | _ => stageJob s b i

/-- The blocks that a stage's copy has moved. -/
def Job.moved (j : Job) : Nat :=
  match j.op with
  | .copy _ _ _ _ _ k => k
  | _ => 0

/-- KIND 4: the entry's copy (R302). -/
def stageCopy (s : State) (b : Binding) (i : Instance') (idx : Nat) (bs : List Byte) : StageOut :=
  let w (k : Nat) : Word := BitVec.ofNat 64 (natLE ((bs.drop (8 * k)).take 8))
  let g : Geo := { fn := 0, dst := w 0, src := w 1, ctl := w 3, desc := 0 }
  let (j, s1) := stageJobOf s b i idx
  match g.refusal s .h with
  | some detail => .done s bs (some (failCode (1, detail)))
  | none =>
    if launchPort g.dst then .done (copyLaunch s1 j g) bs none
    else match copyBlocks j g ((g.total + 63) / 64 - j.moved) j.moved s1
        { md := j.mode, lfsr := j.seed, flags := j.flags } with
      | .done s2 _ => .done s2 bs none
      | .fault s2 _ _ c => .done s2 bs (some (failCode (engDetail c)))
      | .held s2 st k => .wait s2 (some { j with seed := st.lfsr, flags := st.flags, op := .copy 0 0 0 0 0 k })

/-- The entry with the token word of its job in bytes 24 to 31 (R302). -/
def withToken (bs : List Byte) (w : Word) : List Byte := bs.take 24 ++ bytesLE 8 w.toNat ++ bs.drop 32

/-- The compute job of an MXJ descriptor that a stage starts, or goes on with. -/
def stageCompute (s : State) (j : Job) (major : BitVec 6) (aaddr jw : Word) (sa sb : BitVec 8) (bs : List Byte) : StageOut :=
  match doCompute s j major aaddr jw sa sb with
  | .done s3 _ status detail count => .done s3 (withToken bs (tokenWord status detail count)) none
  | .wait s3 st r => .wait s3 (some { j with
      op := .compute major aaddr jw sa sb, rows := r, seed := st.lfsr, flags := st.flags })

/-- KIND 5 on this cluster's engine, when its queue holds no matrix job (R302). -/
def stageHere (s : State) (b : Binding) (i : Instance') (bs : List Byte) : StageOut :=
  let pass (t : State) (w : Word) : StageOut := .done t (withToken bs w) none
  if (s.cluster.jobs.any fun j => !j.isCopy) || stageRuns s then .wait s none
  else
    let ea := BitVec.ofNat 64 (natLE (bs.take 8))
    if ea.toNat % 32 ≠ 0 then pass s (tokenWord 1 1 0)
    else match engRead s i.xroot .h ea 32 with
      | .held s1 => .wait s1 none
      | .fault s1 c _ => pass s1 (tokenWord (engDetail c).1 (engDetail c).2 0)
      | .ok s1 ds =>
        let x := natLE ds
        let aaddr := BitVec.ofNat 64 (nfld x 0 64)
        let jw := BitVec.ofNat 64 (nfld x 64 64)
        if !mxjFormat x then pass s1 (tokenWord 1 9 0)
        else match jobRefusal s1 (nfld x 160 8 - 0x28) aaddr jw with
          | some detail => pass s1 (tokenWord 1 detail 0)
          | none =>
            let (j, s2) := stageJob s1 b i
            stageCompute (swapTiles s2) j (BitVec.ofNat 6 (nfld x 160 8)) aaddr jw (BitVec.ofNat 8 (nfld x 128 8))
              (BitVec.ofNat 8 (nfld x 144 8)) bs

/-- KIND 5: the entry's matrix job, on this cluster's engine, or sent to the cluster it names (R302). -/
def stageMatrix (s : State) (b : Binding) (i : Instance') (idx m : Nat) (bs : List Byte) : StageOut :=
  match b.jobOf idx with
  | some (.away none) => .away s
  | some (.away (some w)) => .done s (withToken bs w) none
  | some (.here j) =>
    match j.op with
    | .compute major aaddr jw sa sb => stageCompute s j major aaddr jw sa sb bs
    | _ => .away s
  | none =>
    if m = myCluster s then stageHere s b i bs
    else .away (out s (.stageJob m (BitVec.ofNat 64 (natLE (bs.take 8))) i.xroot i.id b.place idx))

/-- Set what a stage has in hand. -/
def setStageJob (s : State) (b : Binding) (idx : Nat) (v : Option StageJob) : State :=
  { s with mill := { s.mill with binds := s.mill.binds.map fun x =>
    if x.id ≠ b.id then x
    else { x with jobs := match v with
      | none => x.jobs.filter fun y => y.1 != idx
      | some j => setAssoc idx j x.jobs } } }

/-- What a stage makes of an entry: a failed one passes on (R302, R308). -/
def stageOut (s : State) (b : Binding) (i : Instance') (idx : Nat) (r : BitVec 192) (bs : List Byte) :
    Option (BitVec 28) → StageOut
  | some c => .done s bs (some c)
  | none => if stKind r = 4 then stageCopy s b i idx bs else stageMatrix s b i idx (stP0 r) bs

/-- The entry leaves its queue and enters the next (R308). -/
def stagePass (b : Binding) (i : Instance') (idx : Nat) (q : StageQueue) (outQ : Option Nat) : StageOut → State
  | .wait t j => send (match j with
      | some j => setStageJob t b idx (some (.here j))
      | none => t) (.bankStageEnqueue i.id b.place)
  | .away t => if (b.jobOf idx).isSome then t else setStageJob t b idx (some (.away none))
  | .done t bs c =>
    let t1 := setStageJob (dequeueFor t b q) b idx none
    match outQ with
    | none => t1
    | some o => (enqueueFor t1 b o bs c).getD t1

/-- One entry through an engine stage, when its input has one and its output has room. -/
def stepStage (b : Binding) (i : Instance') (idx : Nat) (r : BitVec 192) (s : State) : State :=
  match (assoc idx b.queues).bind (peekQueue s) with
  | none => s
  | some (q, bs, code) =>
    let outQ := assoc (idx + 1) b.queues
    if outQ.any fun o => !((queueOf s o).any fun x => x.ready true) then s
    else stagePass b i idx q outQ (stageOut s b i idx r bs code)

/-- The engine stages of a binding. -/
def stepStages (b : Binding) (i : Instance') : Nat → List (BitVec 192) → State → State
  | _, [], s => s
  | idx, r :: rest, s => stepStages b i (idx + 1) rest (if 4 ≤ stKind r then stepStage b i idx r s else s)

/-! The weight stream (R100, R101, R308, R315, R316). -/

/-- One segment more: own laps, and IDLE after LAPS of them (R316). -/
def Consumer.count (c : Consumer) (segs : Nat) : Consumer :=
  let laps := (c.got + 1) / max 1 segs
  { c with got := c.got + 1, laps := laps
           state := if c.lapsDue ≠ 0 ∧ c.lapsDue ≤ laps then .idle else c.state }

/-- The bank stage's place in a binding. -/
def bankIndex (b : Binding) : Option Nat := b.desc.findIdx? fun r => stKind r == 2

/-- The bank stage enqueues its entry, or holds it (R308). -/
def bankEnqueue (s : State) (i : Instance') (b : Binding) (c : Consumer) (bs : List Byte) (code : Option (BitVec 28)) : State :=
  let outQ := (bankIndex b).bind fun k => assoc (k + 1) b.queues
  match outQ with
  | none => setInst s (i.modCons c.place fun _ => { c.count i.segs with waitEntry := none, failCode := none })
  | some o =>
    match enqueueFor s b o bs code with
    | some s1 =>
      setInst s1 (((instOf s1 i.id).getD i).modCons c.place fun _ => { c.count i.segs with waitEntry := none, failCode := none })
    | none => setInst s (i.modCons c.place fun _ => { c with waitEntry := some bs, failCode := code })

/-- The binding at a consumer place of an instance. -/
def bindAt (s : State) (inst place : Nat) : Option Binding :=
  s.mill.binds.find? fun b => b.inst == inst && b.place == place

/-- The failed entries that a consumer is owed, one for each segment, while its output queue takes them (R387, R395). -/
def failOwed (inst place : Nat) : Nat → State → State
  | 0, s => s
  | n + 1, s =>
    match instOf s inst, bindAt s inst place with
    | some i, some b =>
      match i.consumers.find? fun c => c.place == place with
      | some c =>
        if c.owing = 0 ∨ c.waitEntry.isSome then s
        else failOwed inst place n
          (bankEnqueue s i b { c with owing := c.owing - 1 } (List.replicate 64 0) (some 0x2000003))
      | none => s
    | _, _ => s

/-- A binding's engine stages go on, an entry held for a full queue, and the failed entries behind it (R302, R308,
R395). -/
def stageStep (s : State) (inst place : Nat) : State :=
  match instOf s inst, bindAt s inst place with
  | some i, some b =>
    let s1 := match i.consumers.find? fun c => c.place == place with
      | some c => match c.waitEntry with
        | some bs => failOwed inst place c.owing (send (bankEnqueue s i b c bs c.failCode) (.segmentStart inst))
        | none => s
      | none => s
    stepStages b i 0 b.desc s1
  | _, _ => s

/-- The rows that a job of another cluster wrote. -/
def writeRows (s : State) : List (Word × List Byte) → State
  | [] => s
  | r :: rest => writeRows (writeBytes s r.1.toNat r.2) rest

/-- BANK_STAGE_ENQUEUE: an entry held for a full queue, the engine stages of the binding, and the end of a stage's job
on another cluster (R302, R308). -/
def execBankStageEnqueue (s : State) : Host.Outcome State Fault Refusal :=
  .next (match s.event with
    | some (.bankStageEnqueue inst place) => stageStep s inst place
    | some (.stageAnswer inst place idx word rows) =>
      let s1 := writeRows s rows
      match bindAt s1 inst place with
      | some b => stageStep (setStageJob s1 b idx (some (.away (some word)))) inst place
      | none => s1
    | _ => s)

/-- Where Millrace reaches a translated place: where its lessor serves it, or the status and detail (R243, R305). -/
def millPlace (s : State) (p : Place) : Except (Nat × Nat) Nat :=
  match leaseRoute s p.pa p.lease with
  | .failed => .error (engDetail 14)
  | .held => if physExists s p.pa p.layout then .ok p.pa else .error (2, 1)
  | .at pa => if physExists s pa p.layout then .ok pa else .error (2, 1)

/-- Read bytes through the translations of PBIND: a page that names nothing is PEER, and an uncorrectable error is logged
(R305, R308, R390). -/
def readVia (s : State) (pages : List (Nat × Place)) (ea : Nat) : Nat → Except Fail (List Byte)
  | 0 => .ok []
  | n + 1 =>
    match viaPages pages ea with
    | none => .error (s, 2, 1)
    | some p =>
      match millPlace s p with
      | .error f => .error (s, f)
      | .ok pa =>
        if eccBad s pa 1 then .error (logEcc s pa p.layout, 1, 7)
        else (readVia s pages (ea + 1) n).map (Memory.get s.mem pa :: ·)

/-- Write a result through the translations of PBIND. -/
def writeVia (s : State) (pages : List (Nat × Place)) (ea v : Nat) : Except Fail State :=
  match viaPages pages ea with
  | none => .error (s, 2, 1)
  | some p =>
    match millPlace s p with
    | .error f => .error (s, f)
    | .ok pa =>
      match storeAt s pa 4 v p.layout with
      | (s1, .stored) => .ok s1
      | (s1, _) => .error (s1, 1, 7)

/-- One row of a segment for a consumer's image: its result and the environment, or the failure (R308). -/
def segRow (s : State) (i : Instance') (e : BitVec 512) (r : BitVec 192) (a : List MBlock) (row : Nat) (st : FEnv) :
    Except Fail (Nat × FEnv) := do
  let f := wtFmt e
  let nb := wtLen e / 32
  let bs ← readVia s i.pages (nfld e.toNat 0 64 + wtStep e * row) (vecBytes f (wtLen e))
  let sc ← if wtScales e = 0 then .ok (List.replicate (nb * codeScale f) 127)
    else readVia s i.pages (wtScales e + codeScale f * (row * nb)) (nb * codeScale f)
  .ok (rowDot (nfld r.toNat 160 8) (nfld r.toNat 168 8) a (lineBlocks st.md f nb (bs ++ sc)) st)

/-- The rows of a segment in increasing order, with results at an address: the state, the environment, the first
failure. -/
def segRows (i : Instance') (pages : List (Nat × Place)) (e : BitVec 512) (r : BitVec 192) (a : List MBlock) :
    Nat → Nat → Nat → State → FEnv → State × FEnv × Option (Nat × Nat)
  | 0, _, _, s, st => (s, st, none)
  | n + 1, row, ea, s, st =>
    let (s1, st1, f) : State × FEnv × Option (Nat × Nat) := match segRow s i e r a row st with
      | .error (t, f) => (t, st, some f)
      | .ok (y, st1) => match writeVia s pages ea y with
        | .error (t, f) => (t, st1, some f)
        | .ok s1 => (s1, st1, none)
    let (s2, st2, g) := segRows i pages e r a n (row + 1) (ea + 4) s1 st1
    (s2, st2, f.orElse fun _ => g)

/-- The task entry of a segment (R91, R308): bytes 24 to 63 are zero. -/
def taskEntry (lap t : Nat) (results : Nat) (flags : BitVec 5) : List Byte :=
  bytesLE 8 (lap * 2 ^ 32 + t) ++ bytesLE 8 results ++ bytesLE 3 0 ++ bytesLE 1 flags.toNat ++ bytesLE 44 0

/-- An ACTIVE consumer at the end of a segment: its results, then its entry; it is GATED at the next (R100,
R308, R316). -/
def consumeSegment (s : State) (inst place : Nat) : State :=
  match instOf s inst with
  | none => s
  | some i =>
    match i.consumers.find? fun c => c.place == place, bindAt s inst place with
    | some c, some b =>
      let t := i.seg
      let c1 := { c with state := .gated, seg := (t + 1) % max 1 i.segs, first := some (c.first.getD t) }
      match bankStage b, i.entries with
      | some r, e :: _ =>
        let code := nfld r.toNat 24 8
        let (image, mode, seed) := c.cur.getD ([], 0, 0)
        let a := lineBlocks mode code (wtLen e / 32) image
        let ea := b.base + 4 * i.rows * t
        let (s1, st, f) := segRows i b.pages e r a i.rows (t * i.rows) ea s { md := mode, lfsr := seed, flags := 0 }
        let c2 := if c.curStaged then { c1 with seed := st.lfsr } else c1
        bankEnqueue s1 i b { c2 with cur := none, flags := st.flags } (taskEntry i.lap t ea st.flags)
          (f.map fun x => BitVec.ofNat 28 (2 ^ 24 + x.2))
      | _, _ => setInst s (i.modCons place fun _ => c1.count i.segs)
    | _, _ => s

/-- Is a GATED consumer ready at a segment (R308)? Without a bank stage it has nothing to stage. -/
def consReady (s : State) (i : Instance') (t : Nat) (c : Consumer) : Bool :=
  match (bindAt s i.id c.place).bind bankStage with
  | some _ => c.waitEntry.isNone && c.image.isSome && c.imageSeg == t
  | none => true

/-- Is a consumer GATED at a segment? -/
def gatedAt (t : Nat) (c : Consumer) : Bool := c.state == .gated && c.seg == t

/-- The image of a ready consumer goes into its slot on every unit of the stream (R308). -/
def placeImage (s : State) (i : Instance') (c : Consumer) (r : BitVec 192) : State :=
  let f := nfld r.toNat 24 8
  let len := instLen i
  let im : Image := { fmt := f, len := len, elems := (c.image.getD []).take (vecBytes f len)
                      scales := (c.image.getD []).drop (vecBytes f len) }
  i.units.foldl (fun t u => loadSlot im t (u / 32) (u % 32) c.place) s

/-- The images of the consumers that receive a segment. -/
def placeImages (i : Instance') : List Consumer → State → State
  | [], s => s
  | c :: rest, s =>
    placeImages i rest (match (bindAt s i.id c.place).bind bankStage with
      | some r => placeImage s i c r
      | none => s)

/-- The segment after one: its number and its lap. -/
def Instance'.nextSeg (i : Instance') : Instance' :=
  if i.seg + 1 < i.segs then { i with seg := i.seg + 1, gateOpen := true, reading := false }
  else { i with seg := 0, lap := i.lap + 1, gateOpen := true, reading := false }

/-- The gate opens (R101): ready consumers become ACTIVE, the others record a miss; with none ready nothing is
read. -/
def openGate (s : State) (i : Instance') : State :=
  let t := i.seg
  let got := i.consumers.filter fun c => gatedAt t c && consReady s i t c
  let cons := i.consumers.map fun c =>
    if !gatedAt t c then c
    else if consReady s i t c then
      { c with state := .active, cur := c.image.map fun im => (im, c.mode, c.seed), curStaged := true }
    else { c with misses := c.misses + 1, missLap := i.lap, missSeg := t }
  let i1 := { i with consumers := cons, gateOpen := true }
  if got.isEmpty then send (setInst s i1.nextSeg) (.segmentStart i.id)
  else send (setInst (placeImages i got s) { i1 with reading := true }) (.segmentEnd i.id)

/-- DEADLINE in reference cycles: units of 10 ns, of 6.4 ns each, rounded up (R15, R95). -/
def deadlineRef (i : Instance') : Nat := (i.deadline * 25 + 15) / 16

/-- Is the gate's deadline past (R101)? -/
def gateDue (s : State) (i : Instance') : Bool := decide (i.gateAt + deadlineRef i ≤ s.clock.ref)

/-- The gate opens when every GATED consumer is ready, or at its deadline (R101). -/
def tryGate (s : State) (i : Instance') : State :=
  if gateDue s i || i.consumers.all fun c => !gatedAt i.seg c || consReady s i i.seg c then openGate s i else s

/-- The stream reaches a segment start (R100, R101): the joiners, the gate, or the stop. -/
def startSegment (s : State) (i : Instance') : State :=
  let t := i.seg
  let cons := i.consumers.map fun c =>
    if c.state == .joining && (bindAt s i.id c.place).any fun b => joinsAt b t
    then { c with state := .gated, seg := t } else c
  if cons.all fun c => c.state == .idle then setInst s { i with consumers := cons, stopped := true }
  else
    let i1 := { i with consumers := cons, gateOpen := false, gateAt := s.clock.ref }
    tryGate (after (setInst s i1) (s.clock.ref + deadlineRef i) (.gateDeadline i.id)) i1

/-- SEGMENT_START: the stream reaches a segment start, or what holds its gate has changed (R101). -/
def execSegmentStart (s : State) : Host.Outcome State Fault Refusal :=
  .next (match s.event with
    | some (.segmentStart inst) =>
      match instOf s inst with
      | none => s
      | some i =>
        if i.segs = 0 || i.reading || i.stopped then s
        else if i.gateOpen then startSegment s i
        else tryGate s i
    | _ => s)

/-- GATE_DEADLINE (R101). -/
def execGateDeadline (s : State) : Host.Outcome State Fault Refusal :=
  .next (match s.event with
    | some (.gateDeadline inst) =>
      match instOf s inst with
      | none => s
      | some i => if i.atGate ∧ gateDue s i then openGate s i else s
    | _ => s)

/-- The ACTIVE consumers of a segment in order of place. -/
def consumeAll (inst : Nat) : List Consumer → State → State
  | [], s => s
  | c :: rest, s => consumeAll inst rest (if c.state = .active then consumeSegment s inst c.place else s)

/-- SEGMENT_END (R100, R101). -/
def execSegmentEnd (s : State) : Host.Outcome State Fault Refusal :=
  .next (match s.event with
    | some (.segmentEnd inst) =>
      match instOf s inst with
      | none => s
      | some i =>
        if !i.reading then s
        else
          let s1 := consumeAll inst i.consumers s
          match instOf s1 inst with
          | none => s1
          | some i1 => send (setInst s1 i1.nextSeg) (.segmentStart inst)
    | _ => s)

/-! The governor (R93, R94). -/

/-- The occupancy of the input queue of a core stage, with the queue's HI and LO (R93). -/
def stageLoad (s : State) (b : Binding) (idx : Nat) : Option (Nat × Nat × Nat) :=
  match (assoc idx b.queues).bind (queueOf s), b.desc[idx - 1]? with
  | some q, some r =>
    match objOf s q.data with
    | some o => some (o.count, nfld r.toNat 88 12, nfld r.toNat 76 12)
    | none => none
  | _, _ => none

/-- The core stages of a binding that have an input queue. -/
def coreStages (b : Binding) : List Nat :=
  (List.range b.desc.length).filter fun i => i != 0 && (b.desc[i]?.any fun r => stKind r == 3)

/-- The units that lie in one unit of GRANB size with another: on its core, or on its cluster (R93, R96). DEDUCED: GRANB
is that of the donor stage's own record (log 43). -/
def granGroup (b : Binding) (idx : Nat) (u : BoundUnit) (x : BoundUnit) : Bool :=
  let sh := if (b.desc[idx]?.any fun r => nfld r.toNat 20 4 == 1) then 10 else 7
  x.stage == idx && x.core >>> sh == u.core >>> sh

/-- The unit of GRANB size that a donor gives: that of the lowest placement unit, none of it moved within 4 samples;
never the stage's last (R93). -/
def donorUnit (b : Binding) (samples idx : Nat) : Option BoundUnit :=
  let us := b.units.filter fun u => u.stage == idx
  us.find? fun u =>
    let g := us.filter (granGroup b idx u)
    decide (g.length < us.length) && g.all fun x => !(x.moved.any fun m => decide (samples < m + 5))

/-- REBIND reaches each core of a unit that moves (R94). -/
def rebindCores (b : Binding) (stage : Nat) : List W32 → State → State
  | [], s => s
  | c :: rest, s => rebindCores b stage rest (rebind s b c stage)

/-- Move one unit for each needy stage in increasing order (R93, R94). DEDUCED: a donor that has no unit to move now is
passed over, and the next donor serves the stage (log 43). -/
def govern (samples : Nat) : List Nat → List Nat → Binding → State → Binding × State
  | [], _, b, s => (b, s)
  | need :: rest, donors, b, s =>
    match donors.find? fun d => d != need && (donorUnit b samples d).isSome with
    | none => govern samples rest donors b s
    | some d =>
      match donorUnit b samples d with
      | none => govern samples rest donors b s
      | some u =>
        let mv := granGroup b d u
        let b1 := { b with units := b.units.map fun x => if mv x then { x with stage := need, moved := some samples } else x }
        govern samples rest (donors.filter (· != d)) b1
          (rebindCores b1 need ((b.units.filter mv).map (·.core)).eraseDups s)

/-- The governor on every binding. -/
def governAll (samples : Nat) : List Binding → State → State
  | [], s => s
  | b :: rest, s =>
    let st := coreStages b
    let needy := st.filter fun i => (stageLoad s b i).any fun l => decide (l.2.1 ≤ l.1)
    let donors := st.filter fun i => (stageLoad s b i).any fun l => decide (l.1 ≤ l.2.2)
    let (b1, s1) := govern samples needy donors b s
    governAll samples rest { s1 with mill := { s1.mill with binds := s1.mill.binds.map fun x =>
      if x.id = b1.id then b1 else x } }

/-- GOVERNOR_SAMPLE (R93), and a REBIND of a pipeline's governor or Millrace that reaches this core (R94, R303). -/
def execGovernorSample (s : State) : Host.Outcome State Fault Refusal :=
  .next (match s.event with
    | some (.rebindIn h) => holdEvent s (eventOf 0x41 0 h)
    | some .governorSample =>
      let n := s.mill.samples + 1
      armGovernor (governAll n s.mill.binds { s with mill := { s.mill with samples := n } })
    | _ => s)

end Sys2Proof.Machine
end

