-- ==== Sys2Proof/Machine/Service.lean ====
section
/-!
DEFINITION. Retirement and service: fences, spares, leaving a domain, scrubbing, firmware, alarms, heat and
bring-up (R387 to R404).
-/

namespace Sys2Proof.Machine

/-! Fences (R392 to R396). -/

/-- Is the core drained: slots 1 to 10 FREE, its queues and its spill ring empty (R393)? -/
def coreDrained (s : State) : Bool :=
  (helperSlots.all fun i => (s.at i).slotState == .free) && s.core.itemQ.isEmpty && s.core.contQ.isEmpty
    && s.core.spill.isEmpty

/-- Is the cluster drained: its cores are, and its job queue, LVU queues and range-lock table are empty (R393)? -/
def clusterDrained (s : State) : Bool :=
  (List.range 8).all (fun k => (fenceOf s (.core (8 * myCluster s + k))).state == 2)
    && s.cluster.jobs.isEmpty && s.core.lvu.isEmpty && s.cluster.ranges.isEmpty

/-- Has a channel's bank unit no pending job (R395)? -/
def channelDrained (s : State) (c : Nat) : Bool :=
  !(s.banks.jobs.any fun j => (jobUnits s j).contains (c / 32, c % 32))

/-- Does a FENCING unit hold no work? A unit whose work the model does not hold has its deadline. -/
def drained (s : State) : FenceUnit → Bool
  | .core n => n == myCore s && coreDrained s
  | .cluster m => m == myCluster s && clusterDrained s
  | .channel c => channelDrained s c
  | .port _ => false

/-- Key of a channel among the absent ones (R8, R395). -/
def channelKey (s : State) (c : Nat) : Nat := (s.loc.dev.toNat * 2 ^ 16 + c / 32) * 32 + c % 32

/-- A unit is FENCED: a channel's accesses end with PEER from now on; a port has had its management reset (R395,
R396). -/
def fenced (s : State) (u : FenceUnit) : State :=
  let s0 := setFence s u 2
  let s1 := { s0 with agenda := s0.agenda.filter fun m => m != .unitFence u }
  match u with
  | .channel c => { s1 with hw := { s1.hw with absent := s1.hw.absent ++ [channelKey s c] } }
  | .port p => setPort s1 (BitVec.ofNat 5 p) (portAt s1 (BitVec.ofNat 5 p)).cleared
  | _ => s1

/-- The segments that a consumer has still to get: what is left of its LAPS, or with LAPS 0 of the lap it is in (R100;
log 50). -/
def segsLeft (i : Instance') (c : Consumer) : Nat :=
  if c.state = .idle then 0
  else if c.lapsDue = 0 then i.segs - c.got % max 1 i.segs
  else c.lapsDue * i.segs - c.got

/-- A Millrace consumer's outstanding segments fail, one entry each (R387, R395). -/
def failConsumer (i : Instance') (c : Consumer) (s : State) : State :=
  let n := segsLeft i c
  failOwed i.id c.place n (setInst s (((instOf s i.id).getD i).modCons c.place fun x => { x with owing := n }))

/-- The stream-end SIGNAL of an instance is discharged by OFAIL with a code (R395). -/
def failEnd (s : State) (i : Instance') (code : BitVec 28) : State :=
  match s.mill.binds.find? fun b => b.inst == i.id && b.hasEnd with
  | none => s
  | some b =>
    let s1 := match slots.find? fun k => holds s k b.endObj .signal with
      | some k => (removeObl s k b.endObj .signal).getD s
      | none => s
    send s1 (.discharge b.endObj .signal (.fail code) (.millrace b.id))

/-- The instances that read a channel stop (R395). -/
def failInstances (c : Nat) : List Instance' → State → State
  | [], s => s
  | i :: rest, s =>
    if i.units.contains (unitNo (c / 32) (c % 32)) ∧ !i.stopped then
      let s1 := i.consumers.foldl (fun t x => failConsumer i x t) s
      let s2 := match instOf s1 i.id with
        | some j => setInst s1 { j with
            stopped := true, reading := false, consumers := j.consumers.map fun x => { x with state := .idle } }
        | none => s1
      failInstances c rest (failEnd s2 i 0x2000003)
    else failInstances c rest s

/-- A deadline of microseconds in reference cycles (R15). -/
def microRef (us : Nat) : Nat := (us * 625 + 3) / 4

/-- What FENCING starts, by unit (R393, R395, R396). -/
def startFence (s : State) (u : FenceUnit) : State :=
  let due := s.clock.ref + microRef (fenceOf s u).deadline.toNat
  match u with
  | .core _ => after (out s (.fenceNotice u)) due (.fenceDeadline u)
  | .cluster m =>
    (List.range 8).foldl (fun t k =>
      if (fenceOf t (.core (8 * m + k))).state = 0 then send t (.unitFence (.core (8 * m + k))) else t)
      (after s due (.fenceDeadline u))
  | .channel c => after (failInstances c s.mill.insts s) due (.fenceDeadline u)
  | .port p =>
    let was := trunkPort { s with hw := { s.hw with fences := s.hw.fences.filter fun f => f.unit != u } }
    let kept := was != some p || (trunkPort s).any fun q => Config.sameTiming p q
    after (if kept then s else failLink s) (min due (s.clock.ref + 156250)) (.fenceDeadline u)

/-- A cluster is FENCING from when all 8 of its cores are under a fence (R393). -/
def clusterToo (s : State) : FenceUnit → State
  | .core n =>
    let u : FenceUnit := .cluster (n / 8)
    if ((List.range 8).all fun k => (fenceOf s (.core (8 * (n / 8) + k))).state != 0) ∧ (fenceOf s u).state = 0 then
      send (startFence (setFence s u 1) u) (.unitFence u)
    else s
  | _ => s

/-- UNIT_FENCE: IN to FENCING; a FENCING unit that holds no work is FENCED; a write that skips a state is ignored and
logged (R392). And a core of another device is fenced, or no longer (R87). -/
def execUnitFence (s : State) : Host.Outcome State Fault Refusal :=
  .next (match s.event with
    | some (.unitFence u) =>
      let st := (fenceOf s u).state
      if st = 0 then clusterToo (send (startFence (setFence s u 1) u) (.unitFence u)) u
      else if st = 1 then if drained s u then fenced s u else send s (.unitFence u)
      else logUnit s 0 u
    | some (.awayFence core on) =>
      let l := s.hw.fencedAway.filter fun c => c != core
      { s with hw := { s.hw with fencedAway := if on then l ++ [core] else l } }
    | _ => s)

/-- The fault of this core's machine check has been cleared (R391). -/
def clearFault (s : State) : State := s.modCore fun c => { c with machineCheck := false }

/-- UNFENCE: after a test, which clears the fault of a core or of its cluster; and the controller's own word that a fault is
cleared (R391, R392; log 49). -/
def execUnfence (s : State) : Host.Outcome State Fault Refusal :=
  .next (match s.event with
    | some (.unfence u) =>
      let st := (fenceOf s u).state
      if st = 2 ∨ st = 3 then
        let s1 := setFence s u 0
        match u with
        | .channel c => { s1 with hw := { s1.hw with absent := s1.hw.absent.filter fun k => k != channelKey s c } }
        | .core n => if n = myCore s then clearFault s1 else s1
        | .cluster m => if m = myCluster s then clearFault s1 else s1
        | _ => s1
      else logUnit s 0 u
    | some .faultCleared => clearFault s
    | _ => s)

/-- Discharge every obligation of a list by OFAIL with a code. -/
def failObls (code : BitVec 28) : List Obl → State → State
  | [], s => s
  | o :: rest, s =>
    failObls code rest
      { s with agenda := s.agenda ++ List.replicate o.mult (.discharge o.h o.kind (.fail code) .osAgent) }

/-- At the deadline the OS agent pre-empts the core, and holds each remaining helper (R63, R393): the messages that are
not out yet. -/
def holdRest : List (Fin 11) → State → State
  | [], s => s
  | i :: rest, s =>
    let c := s.at i
    let m : Msg := .hold .osAgent (BitVec.ofNat 4 i.val)
    holdRest rest
      (if c.slotState = .free ∨ c.slotState = .held ∨ c.heldFrom.isSome ∨ s.agenda.contains m then s else send s m)

/-- PREEMPT, where the core goes on and none is under way. -/
def preemptRest (s : State) : State :=
  if s.core.preempted ∨ s.core.stopped ∨ s.agenda.contains (.preempt .osAgent) then s else send s (.preempt .osAgent)

/-- The obligations that a message of the spill ring brings to a slot. -/
def spilledObls (s : State) (i : Fin 11) : Spilled → List (Word × OblKind)
  | .msg (.wake _ _ (some (h, k)) who) => if localSlot s who = some i then [(h, k)] else []
  | .msg (.obligationTransfer h k t _) => if localSlot s t = some i then [(h, k)] else []
  | _ => []

/-- A held helper at the deadline: every obligation of it is seized and failed, those that still stand in the spill ring
too, the slot is freed and its frame is discarded (R62, R393). -/
def failHelper (s : State) (i : Fin 11) : State :=
  if (s.at i).slotState ≠ .held then s
  else
    let ring := s.core.spill.flatMap (spilledObls s i)
    let s1 := failObls 0x2000001 (oblsOf s i) s
    let s2 := { s1 with agenda := s1.agenda ++ ring.map fun (o : Word × OblKind) => Msg.discharge o.1 o.2 (.fail 0x2000001) .osAgent }
    let s3 := s2.modCore fun c => { c with
      reeve := c.reeve.filter fun o => o.owner.toNat != i.val
      spilled := c.spilled.filter fun o => o.owner.toNat != i.val
      spill := c.spill.filter fun m => (spilledObls s i m).isEmpty }
    freeSlot (endLlk s3 i) i

/-- Is every remaining helper held? -/
def allHeld (s : State) : Bool :=
  helperSlots.all fun i => (s.at i).slotState == .free || (s.at i).slotState == .held

/-- FENCE_DEADLINE: a core is FENCED once its remaining helpers are held and have been freed (R392, R393). -/
def execFenceDeadline (s : State) : Host.Outcome State Fault Refusal :=
  .next (match s.event with
    | some (.fenceDeadline u) =>
      if (fenceOf s u).state ≠ 1 then s
      else if u ≠ .core (myCore s) then fenced s u
      else if allHeld s then fenced (helperSlots.foldl failHelper s) u
      else send (holdRest helperSlots (preemptRest s)) (.fenceDeadline u)
    | _ => s)

/-- Zero a range of memory. -/
def zeroRange (s : State) (lo n : Nat) : State :=
  { s with mem := s.mem.filter fun c => decide (c.1 < lo) || decide (lo + n ≤ c.1) }

/-- A spare takes the number of this cluster: its stores start at zero, and K_e is loaded again (R394). -/
def freshCluster (s : State) : State :=
  let lo := scratchBase s (myCluster s)
  let s0 := zeroRange s lo 0x180000
  let s1 := { s0 with badEcc := s0.badEcc.filter fun g => decide (4 * g < lo) || decide (lo + 0x180000 ≤ 4 * g) }
  let s2 := s1.modCluster fun c =>
    { c with locks := [], raised := [], lost := [], farLlk := [], sumErr := [], cur := none, next := none, swapDue := false
             tlb2 := [], loadFrom := s.clock.cycle, ke := Config.engineKey (myCluster s) }
  { s2 with core := { s2.core with
    tlb1 := [], ctxs := s2.core.ctxs.map fun c => { c with regs := { c.regs with q := Vector.replicate 16 0 } } } }

/-- The clusters of a die that are present and not FENCED (R8, R394). -/
def clustersLeft (s : State) (die : BitVec 3) : Nat :=
  presentClusters s.grade - ((List.range (presentClusters s.grade)).filter fun k =>
    (fenceOf s (.cluster (128 * die.toNat + k))).state == 2).length

/-- SPARE_ASSIGN: only to a FENCED cluster, while the die has a spare; else an FV-8 die with fewer than 128 reports its
count (R394). -/
def execSpareAssign (s : State) : Host.Outcome State Fault Refusal :=
  .next (match s.event with
    | some (.spareAssign m) =>
      let die := BitVec.ofNat 3 (m / 128)
      let used := (assoc die s.hw.control.spares).getD 0
      if (fenceOf s (.cluster m)).state ≠ 2 then logUnit s 0 (.cluster m)
      else if 8 ≤ used then
        let n := clustersLeft s die
        let s1 := { s with hw := { s.hw with control := { s.hw.control with reduced := true } } }
        if s.grade = .fv8 ∧ n < 128 then out s1 (.clusterCount die n) else s1
      else
        let s1 := setFence s (.cluster m) 3
        let s2 := { s1 with hw := { s1.hw with control := { s1.hw.control with
          spares := setAssoc die (used + 1) s1.hw.control.spares } } }
        if m = myCluster s then clearFault (freshCluster s2) else s2
    | _ => s)

/-- ROW_REPAIR: the row is copied first, so that it reads what it read before (R395). -/
def execRowRepair (s : State) : Host.Outcome State Fault Refusal :=
  .next (match s.event with
    | some (.rowRepair pa spare) =>
      out { s with badEcc := s.badEcc.filter fun g => decide (4 * g < pa.toNat) || decide (pa.toNat + 64 ≤ 4 * g) }
        (.report (spare.toNat % 2 ^ 32))
    | _ => s)

/-! Leaving a domain (R397). -/

/-- The numbers of the module's present cores (R8). -/
def moduleCores (s : State) : List Nat :=
  (List.range 1024).filter (clusterPresent s.grade) |>.flatMap fun m => (List.range 8).map fun k => 8 * m + k

/-- Is a step of R397 complete? -/
def leaveDone (s : State) (step : Nat) : Bool :=
  match step with
  | 1 => s.engine.refusing
  | 2 => (moduleCores s).all fun n => (fenceOf s (.core n)).state == 2
  | 3 => s.hw.leases.all fun l => l.fld 316 4 == 3
  | 4 => s.hw.mig.all fun p => !p.onDevice
  | 5 => true
  | 6 => s.bell.state == 0
  | _ => (List.range 32).all fun p => (fenceOf s (.port p)).state == 2

/-- The obligations of this core that are owed on another device's object are failed, and objects with nothing owed
are freed (R65, R397 step 5). -/
def settleModule (s : State) : State :=
  let away (o : Obl) : Bool := !homeHere s o.h
  let all := s.core.reeve ++ s.core.spilled ++ s.core.sysOwed
  let s1 := failObls 0x2000002 (all.filter away) s
  let s2 := s1.modCore fun c => { c with
    reeve := c.reeve.filter fun o => !away o, spilled := c.spilled.filter fun o => !away o
    sysOwed := c.sysOwed.filter fun o => !away o }
  s2.signals.objects.foldl (fun t o => if o.owed = 0 then dropObject t o else t) s2

/-- A page goes back to the host for good: its bytes first, where it is on the device (R397 step 4). -/
def homePage (s : State) (p : MigPage) : State :=
  let s1 := if p.onDevice then (migCopy s p false).getD s else s
  setMig s1 { p with onDevice := false, remote := false, pinned := false }

/-- The lessee copies the data of a leased region to its fallback, and the lease ends. DEDUCED: the data that it keeps is the
whole region, and each core's deadline is the fence doubleword's own (R240, R397; log 52). -/
def returnLease (s : State) (l : Lease) : State :=
  let n := l.fld 320 9 * 2 ^ 30
  let src := l.fld 384 64
  let dst := l.fld 448 64
  let cells := s.mem.filter fun c => decide (src ≤ c.1) && decide (c.1 < src + n)
  let s1 := zeroRange (eccClear s dst n) dst n
  let s2 := { s1 with mem := cells.foldl (fun m c => Memory.put m (c.1 - src + dst) c.2) s1.mem }
  out (setLease s2 (l.setSt 3)) (.event (.leaseSetup (l.setSt 3).record 0))

/-- Begin a step of R397. -/
def leaveStep (s : State) (step : Nat) : State :=
  match step with
  | 1 => { s with engine := { s.engine with refusing := true } }
  | 2 => { s with agenda := s.agenda ++ (moduleCores s).map fun n => .unitFence (.core n) }
  | 3 => (s.hw.leases.filter fun l => l.state != 3).foldl (fun t l =>
      if l.fld 292 12 = s.loc.dev.toNat then send t (.reclaim (BitVec.ofNat 12 l.id)) else returnLease t l) s
  | 4 => s.hw.mig.foldl (fun t p => homePage t p) s
  | 5 => settleModule s
  | 6 => if s.bell.state = 0 then s else send s (.leave s.loc.dev)
  | _ => (List.range 32).foldl (fun t p => send t (.unitFence (.port p))) s

/-- MODULE_LEAVE: each step begins when the one before it is complete (R397). -/
def execModuleLeave (s : State) : Host.Outcome State Fault Refusal :=
  .next (match s.event with
    | some .moduleLeave =>
      let k := s.hw.control.leaving
      if 7 < k then s
      else if k ≠ 0 ∧ !leaveDone s k then send s .moduleLeave
      else
        let s1 := { s with hw := { s.hw with control := { s.hw.control with leaving := k + 1 } } }
        if k = 7 then s1 else send (leaveStep s1 (k + 1)) .moduleLeave
    | _ => s)

/-- Does a lock bit of a word belong to a context, so that the scrub's locked read-modify-write is refused (R252, R398)? -/
def scrubRefused (s : State) (pa : Nat) : Bool := inScratch pa && (lockKeys pa 8).any (keyHeld s none)

/-- A corrected error is counted, at a bank unit for BSTAT too, and logged where it passes its unit's threshold (R297, R390,
R398). -/
def countCorrected (s : State) (unit : BitVec 16) (addr : Word) : State :=
  let n := (assoc unit s.hw.corrected).getD 0 + 1
  let key := 64 * s.loc.die.toNat + unit.toNat % 64
  let s1 := { s with hw := { s.hw with corrected := setAssoc unit n s.hw.corrected } }
  let s2 := if unit.toNat / 2 ^ 13 = 2 then
      { s1 with banks := { s1.banks with corrected := setAssoc key ((assoc key s.banks.corrected).getD 0 + 1) s.banks.corrected } }
    else s1
  if Config.eccThreshold unit < n then logClass s2 1 unit addr else s2

/-- SCRUB: a corrected word is rewritten as it reads, in one locked read-modify-write that waits while its lock bits are
held, so no thread's atomic is lost; an uncorrectable error is logged; a corrected one is counted (R390, R398). -/
def execScrub (s : State) : Host.Outcome State Fault Refusal :=
  .next (match s.event with
    | some (.scrub pa) =>
      if scrubRefused s pa.toNat then send s (.scrub pa)
      else if eccBad s pa.toNat 8 then logEcc s pa.toNat else s
    | some (.corrected unit addr) => countCorrected s unit addr
    | _ => s)

/-! Firmware (R400, R401). -/

/-- Change the controller. -/
def modControl (s : State) (f : Control → Control) : State := { s with hw := { s.hw with control := f s.hw.control } }

/-- The version and SVN of an image, where it passes R400 with a least SVN. -/
def imageOk (bs : List Byte) (least : Nat) : Option (Nat × Nat) :=
  let hb := bs.take 64
  let h := natLE hb
  let n := nfld h 32 32
  if nfld h 0 32 ≠ 0x46594D43 ∨ nfld h 384 128 ≠ 0 ∨ bs.length < 64 + n + 29792 ∨ nfld h 96 32 < least
      ∨ BitVec.ofNat 256 (nfld h 128 256) ≠ Config.shake256 ((bs.drop 64).take n)
      ∨ !Config.slhVerify Config.fusedKeyDigest hb ((bs.drop (64 + n)).take 29792) then none
  else some (nfld h 64 32, nfld h 96 32)

/-- Mask ROM runs the image in flash where it passes, and else enters recovery, unless the identity seed is gone (R400 to
R402). -/
def bootFlash (s : State) : State :=
  let c := s.hw.control
  match imageOk c.flash c.minSvn.toNat with
  | some (v, svn) => modControl s fun c => { c with running := true, version := BitVec.ofNat 32 v, svn := BitVec.ofNat 32 svn }
  | none => modControl (logClass s 0 (4 * 2 ^ 13) 0) fun c => { c with running := false, recovery := !c.seedErased }

/-- BOOT: in recovery mask ROM waits for a new image (R400, R401). -/
def execBoot (s : State) : Host.Outcome State Fault Refusal :=
  .next (match s.event with
    | some .boot => if s.hw.control.recovery then s else bootFlash s
    | _ => s)

/-- FIRMWARE_UPDATE: the staged image is checked, then written over the old one, with the fused minimum raised (R401). -/
def execFirmwareUpdate (s : State) : Host.Outcome State Fault Refusal :=
  .next (match s.event with
    | some (.firmwareUpdate addr len) =>
      let c := s.hw.control
      let image := Memory.bytes s.mem addr.toNat len.toNat
      if !c.running then s
      else match c.staged with
        | some im => modControl s fun c => { c with
            writing := false, flash := im, staged := none
            minSvn := BitVec.ofNat 32 (nfld (natLE (im.take 64)) 96 32) }
        | none => match imageOk image (max c.minSvn.toNat c.svn.toNat) with
          | none => out s (.report 401)
          | some _ => send (modControl s fun c => { c with writing := true, staged := some image }) (.firmwareUpdate addr len)
    | _ => s)

/-- CONTROLLER_RESTART: mask ROM checks the image in flash, and the new one runs; cores go on, and ANN holds (R400,
R401). -/
def execControllerRestart (s : State) : Host.Outcome State Fault Refusal :=
  .next (match s.event with
    | some .controllerRestart => if s.hw.control.writing ∨ s.hw.control.recovery then s else bootFlash s
    | _ => s)

/-- POWER_FAIL: the module is as after power-on; fuses, the identity and a broken write stay (R401). -/
def execPowerFail (s : State) : Host.Outcome State Fault Refusal :=
  .next (match s.event with
    | some .powerFail =>
      let c := s.hw.control
      let r := State.reset
      { r with
        loc := s.loc, grade := s.grade, board := s.board, rack := s.rack, l5Port := s.l5Port, clock := { s.clock with n := 40 }
        cluster := { r.cluster with loadFrom := s.clock.cycle }
        mem := s.mem, badEcc := s.badEcc, outbox := s.outbox, tick := s.tick, fresh := s.fresh
        hw := { r.hw with control := { r.hw.control with
          version := c.version, svn := c.svn, minSvn := c.minSvn, flash := c.flash, recovery := c.recovery || c.writing
          seedErased := c.seedErased, spares := c.spares } } }
    | _ => s)

/-- RECOVERY: a new image, checked and written, over the management class, with a port in LOCKED (R401); refused once the seed is erased
(R402). -/
def execRecovery (s : State) : Host.Outcome State Fault Refusal :=
  .next (match s.event with
    | some (.recovery addr len) =>
      let c := s.hw.control
      if !c.recovery ∨ c.seedErased ∨ !(s.hw.ports.toList.any fun x => x.state == .locked) then s
      else match imageOk (Memory.bytes s.mem addr.toNat len.toNat) c.minSvn.toNat with
        | none => out s (.report 401)
        | some (v, svn) => modControl s fun c =>
            { c with flash := Memory.bytes s.mem addr.toNat len.toNat, recovery := false, running := true, version := BitVec.ofNat 32 v, svn := BitVec.ofNat 32 svn
                     minSvn := BitVec.ofNat 32 svn, staged := none, writing := false }
    | _ => s)

/-! Alarms and heat (R402, R403). -/

/-- Every port enters ERROR, where what is in flight through it fails, and its session keys are gone (R360, R402). -/
def erasePorts (s : State) : State :=
  (List.range 32).foldl (fun t p =>
    let t1 := portError t (BitVec.ofNat 5 p)
    setPort t1 (BitVec.ofNat 5 p) { (portAt t1 (BitVec.ofNat 5 p)).cleared with state := .error }) s

/-- The OS agent fails the waits that can no longer be met. DEDUCED: those of this core at homes on other devices, which
nothing reaches any more (R387, R402; log 53). -/
def failFarWaits : List (Fin 11) → State → State
  | [], s => s
  | i :: rest, s =>
    failFarWaits rest (match (s.at i).act.wait with
      | some a => if homeHere s a.h then s else send s (.wake (waitResult 1 0x2000004 0) none none (selfId s i))
      | none => s)

/-- A reducing copy in flight ends with status 2 and the blocks it has applied (R269, R402). -/
def endReducing : List Job → State → State
  | [], s => s
  | j :: rest, s =>
    endReducing rest (match j.op with
      | .copy fn _ _ _ _ start => if 4 ≤ fn.toNat ∧ j.started then send (endJob s j j.flags 2 2 start) .copyStart else s
      | _ => s)

/-- SECURITY_ALARM: a second level-1 alarm within 1 s, or one during recovery, is level 2 (R402). -/
def execSecurityAlarm (s : State) : Host.Outcome State Fault Refusal :=
  .next (match s.event with
    | some (.securityAlarm level) =>
      let c := s.hw.control
      let second := c.lastAlarm.any fun t => decide (s.clock.ref < t + 156250000)
      let two := level = 2 ∨ second = true ∨ c.recovery = true
      let s1 := endReducing s.cluster.jobs (erasePorts (logClass s 5 (4 * 2 ^ 13) 0))
      let s2 := modControl s1 fun c => { c with keysErased := true, lastAlarm := some s.clock.ref }
      if two then stopCore (out (modControl s2 fun c => { c with seedErased := true }) .stopCores) false
      else failFarWaits slots s2
    | _ => s)

/-- The budget of a domain, in watts (R16). -/
def powerBudget : PowerDomain → Nat
  | .die _ => 560
  | .stack _ => 45
  | .fabric => 512
  | .rest => 200

/-- The least n that the budgets allow. -/
def budgetLimit (s : State) : Nat := s.hw.control.budget.foldl (fun m b => min m b.2.1) 40

/-- A domain's budget falls by one n from what is in force, a die's at most once in an epoch; a member announces the lower
limit, or breaches where it must fall at once (R16, R403). -/
def lowerBudget (s : State) (d : PowerDomain) (atOnce : Bool) : State :=
  let k := epochOf s.clock.ref
  let cur := if isMember s then s.bell.ann.toNat else s.clock.n
  let (b, last) := (assoc d s.hw.control.budget).getD (40, 0)
  let held := match d with
    | .die _ => (assoc d s.hw.control.budget).isSome && last == k
    | _ => false
  let s1 := if held then s
    else modControl s fun c => { c with budget := setAssoc d (max 20 (min b cur - 1), k) c.budget }
  let limit := BitVec.ofNat 6 (min cur (budgetLimit s1))
  if isMember s ∧ atOnce then breachTo s1 limit else controlN s1 limit

/-- THERMAL_LIMIT: above 95 °C one step of n, through ANN for a member; above 105 °C at once; an alarm at 125 °C too
(R16, R403). -/
def execThermalLimit (s : State) : Host.Outcome State Fault Refusal :=
  .next (match s.event with
    | some (.thermalLimit die temp) =>
      let s1 := modControl s fun c => { c with temps := setAssoc die temp c.temps }
      let s2 := if temp ≤ 95 then s1 else lowerBudget s1 (.die die) (decide (105 < temp))
      if 125 ≤ temp then send s2 (.securityAlarm 1) else s2
    | some (.powerDraw d watts) => if watts ≤ powerBudget d then s else lowerBudget s d false
    | some (.controllerClock n) =>
      controlN (modControl s fun c => { c with budget := c.budget.map fun b => (b.1, max b.2.1 (clampN n).toNat, b.2.2) }) n
    | _ => s)


/-! Bring-up (R404). -/

/-- Step 4: the core is stopped, and SAVEB and OWEDB name places that the controller chooses in the die's SRAM and
reports to the OS agent. -/
def placeCore (s : State) : State :=
  let (x, s1) := takeFree s
  let (y, s2) := takeFree s1
  let die := 3 * 2 ^ 56 + s.loc.die.toNat * 2 ^ 26
  let s3 := s2.modCore fun c => { c with stopped := true, sys := { c.sys with
    saveb := BitVec.ofNat 64 (die + x.toNat % 192 * 2 ^ 17)
    owedb := BitVec.ofNat 64 (die + 192 * 2 ^ 17 + y.toNat % 6000 * 2 ^ 12) } }
  let s4 := slots.foldl (fun t i =>
    t.setAt i { t.at i with user := { (t.at i).user with xroot := (t.at i).user.xroot &&& ~~~ 1 } }) s3
  out s4 (.savePlaces s4.core.sys.saveb s4.core.sys.owedb)

/-- Every port begins to train its link. -/
def trainLinks (s : State) : List Nat → State
  | [] => s
  | p :: rest => trainLinks (send s (.linkTraining (BitVec.ofNat 5 p))) rest

/-- No group and no lease is left. -/
def freshFabric (s : State) : State :=
  { s with exchange := { s.exchange with groups := Vector.replicate 64 0 }, hw := { s.hw with leases := [] } }

/-- The controller places its module's board number, rack number and L5 port in each die's response slot (R405;
log 47). -/
def placeCabling (s : State) : State :=
  (List.range 8).foldl (fun t d =>
    let pa := t.loc.dev.toNat * 2 ^ 52 + 2 ^ 51 + d * 2 ^ 41 + 64
    writeNat (writeNat (writeNat t pa 8 t.board) (pa + 8) 8 t.rack) (pa + 16) 8 t.l5Port) s

/-- Step 2: row and column repair leaves the stacks of this device without an uncorrectable error. -/
def repairStacks (s : State) : State :=
  { s with badEcc := s.badEcc.filter fun g =>
      decide (4 * g / 2 ^ 52 ≠ s.loc.dev.toNat) || decide (2 ^ 40 ≤ 4 * g % 2 ^ 52) }

/-- Step 3: the clusters that fail the self-test are given spares (R394). -/
def selfTest (s : State) : State :=
  Config.selfTestFails.foldl (fun t m => send (setFence t (.cluster m) 2) (.spareAssign m)) s

/-- Have the ports trained and passed R359 (step 5)? -/
def portsUp (s : State) : Bool := s.hw.ports.toList.all fun p => p.trained && p.spdm == 9

/-- The action of a step. -/
def bringUp (s : State) (step : Nat) : State :=
  match step with
  | 2 => repairStacks s
  | 3 => selfTest s
  | 4 => placeCore s
  | 5 => freshFabric (placeCabling (trainLinks s (List.range 32)))
  | 6 => send s .restart
  | 7 =>
    let s1 := { s with engine := { s.engine with refusing := false } }
    if (anyGroup s1).isSome then send s1 (.join s.loc.dev) else s1
  | _ => s

/-- POWER_ON: the next step, in order, each when the one before is complete; without a running image the module stays at
step 1, and a step that fails is where it stays; both are logged (R404). -/
def execPowerOn (s : State) : Host.Outcome State Fault Refusal :=
  .next (match s.event with
    | some .powerOn =>
      let k := s.hw.control.step
      if 7 ≤ k then s
      else if k = 0 ∧ !s.hw.control.running then logClass s 0 (4 * 2 ^ 13) 0
      else if k = 5 ∧ !portsUp s then send s .powerOn
      else
        let s1 := modControl (bringUp s (k + 1)) fun c => { c with step := k + 1 }
        if k + 1 < 7 then send s1 .powerOn else s1
    | some .powerOnFailed =>
      logClass { s with agenda := s.agenda.filter fun m => m != .powerOn } 0 (4 * 2 ^ 13) 0
    | _ => s)

end Sys2Proof.Machine
end

