-- ==== Sys2Proof/Machine/Dispatch.lean ====
section
/-!
DEFINITION. The dispatch of every instruction and event to its meaning.
-/

namespace Sys2Proof.Machine

def exec (i : Instr) (s : State) : Host.Outcome State Fault Refusal :=
  match i with
  | .nop => Sys2Proof.Machine.execNop s
  | .halt => Sys2Proof.Machine.execHalt s
  | .idle => Sys2Proof.Machine.execIdle s
  | .eret => Sys2Proof.Machine.execEret s
  | .trap code => Sys2Proof.Machine.execTrap code s
  | .brk code => Sys2Proof.Machine.execBrk code s
  | .yield => Sys2Proof.Machine.execYield s
  | .fencei => Sys2Proof.Machine.execFencei s
  | .mfc g n => Sys2Proof.Machine.execMfc g n s
  | .mtc g n => Sys2Proof.Machine.execMtc g n s
  | .mxc g n => Sys2Proof.Machine.execMxc g n s
  | .mset g n => Sys2Proof.Machine.execMset g n s
  | .mclr g n => Sys2Proof.Machine.execMclr g n s
  | .add d a b => Sys2Proof.Machine.execAdd d a b s
  | .sub d a b => Sys2Proof.Machine.execSub d a b s
  | .and d a b => Sys2Proof.Machine.execAnd d a b s
  | .or d a b => Sys2Proof.Machine.execOr d a b s
  | .xor d a b => Sys2Proof.Machine.execXor d a b s
  | .andn d a b => Sys2Proof.Machine.execAndn d a b s
  | .orn d a b => Sys2Proof.Machine.execOrn d a b s
  | .shl d a b => Sys2Proof.Machine.execShl d a b s
  | .shr d a b => Sys2Proof.Machine.execShr d a b s
  | .sar d a b => Sys2Proof.Machine.execSar d a b s
  | .rol d a b => Sys2Proof.Machine.execRol d a b s
  | .min d a b => Sys2Proof.Machine.execMin d a b s
  | .max d a b => Sys2Proof.Machine.execMax d a b s
  | .minw d a b => Sys2Proof.Machine.execMinw d a b s
  | .maxw d a b => Sys2Proof.Machine.execMaxw d a b s
  | .slt d a b => Sys2Proof.Machine.execSlt d a b s
  | .sltw d a b => Sys2Proof.Machine.execSltw d a b s
  | .seq d a b => Sys2Proof.Machine.execSeq d a b s
  | .sne d a b => Sys2Proof.Machine.execSne d a b s
  | .cmov d a b c => Sys2Proof.Machine.execCmov d a b c s
  | .mul d a b => Sys2Proof.Machine.execMul d a b s
  | .mulh d a b => Sys2Proof.Machine.execMulh d a b s
  | .mulhw d a b => Sys2Proof.Machine.execMulhw d a b s
  | .mulw d a b => Sys2Proof.Machine.execMulw d a b s
  | .div d a b => Sys2Proof.Machine.execDiv d a b s
  | .divw d a b => Sys2Proof.Machine.execDivw d a b s
  | .rem d a b => Sys2Proof.Machine.execRem d a b s
  | .remw d a b => Sys2Proof.Machine.execRemw d a b s
  | .clz d a => Sys2Proof.Machine.execClz d a s
  | .ctz d a => Sys2Proof.Machine.execCtz d a s
  | .popc d a => Sys2Proof.Machine.execPopc d a s
  | .brev d a => Sys2Proof.Machine.execBrev d a s
  | .bswap d a => Sys2Proof.Machine.execBswap d a s
  | .sext d a h n => Sys2Proof.Machine.execSext d a h n s
  | .zext d a h n => Sys2Proof.Machine.execZext d a h n s
  | .bext d a b => Sys2Proof.Machine.execBext d a b s
  | .bins d a b => Sys2Proof.Machine.execBins d a b s
  | .addi d a k => Sys2Proof.Machine.execAddi d a k s
  | .andi d a k => Sys2Proof.Machine.execAndi d a k s
  | .ori d a k => Sys2Proof.Machine.execOri d a k s
  | .xori d a k => Sys2Proof.Machine.execXori d a k s
  | .shli d a sv => Sys2Proof.Machine.execShli d a sv s
  | .shri d a sv => Sys2Proof.Machine.execShri d a sv s
  | .sari d a sv => Sys2Proof.Machine.execSari d a sv s
  | .roli d a sv => Sys2Proof.Machine.execRoli d a sv s
  | .slti d a k => Sys2Proof.Machine.execSlti d a k s
  | .sltwi d a k => Sys2Proof.Machine.execSltwi d a k s
  | .movk d pos keep k => Sys2Proof.Machine.execMovk d pos keep k s
  | .lea d a b sc disp => Sys2Proof.Machine.execLea d a b sc disp s
  | .gcoord d a => Sys2Proof.Machine.execGcoord d a s
  | .widf d f => Sys2Proof.Machine.execWidf d f s
  | .self d => Sys2Proof.Machine.execSelf d s
  | .cload d => Sys2Proof.Machine.execCload d s
  | .beq a b nul disp => Sys2Proof.Machine.execBeq a b nul disp s
  | .bne a b nul disp => Sys2Proof.Machine.execBne a b nul disp s
  | .blt a b nul disp => Sys2Proof.Machine.execBlt a b nul disp s
  | .bge a b nul disp => Sys2Proof.Machine.execBge a b nul disp s
  | .bltw a b nul disp => Sys2Proof.Machine.execBltw a b nul disp s
  | .bgew a b nul disp => Sys2Proof.Machine.execBgew a b nul disp s
  | .bbs a b nul disp => Sys2Proof.Machine.execBbs a b nul disp s
  | .bbc a b nul disp => Sys2Proof.Machine.execBbc a b nul disp s
  | .j disp => Sys2Proof.Machine.execJ disp s
  | .call disp => Sys2Proof.Machine.execCall disp s
  | .jr a => Sys2Proof.Machine.execJr a s
  | .callr a => Sys2Proof.Machine.execCallr a s
  | .ret => Sys2Proof.Machine.execRet s
  | .rpt n count sd sa sb => Sys2Proof.Machine.execRpt n count sd sa sb s
  | .hstart d a b c => Sys2Proof.Machine.execHstart d a b c s
  | .hexit => Sys2Proof.Machine.execHexit s
  | .cpack d a b => Sys2Proof.Machine.execCpack d a b s
  | .cresume d a => Sys2Proof.Machine.execCresume d a s
  | .migrate d a b => Sys2Proof.Machine.execMigrate d a b s
  | .hstat d slot => Sys2Proof.Machine.execHstat d slot s
  | .onew d a b kind => Sys2Proof.Machine.execOnew d a b kind s
  | .ofree a => Sys2Proof.Machine.execOfree a s
  | .oblig d a => Sys2Proof.Machine.execOblig d a s
  | .osig a => Sys2Proof.Machine.execOsig a s
  | .orel a => Sys2Proof.Machine.execOrel a s
  | .osend d a b c => Sys2Proof.Machine.execOsend d a b c s
  | .ofail a b => Sys2Proof.Machine.execOfail a b s
  | .otrn a b kind => Sys2Proof.Machine.execOtrn a b kind s
  | .oseize d a => Sys2Proof.Machine.execOseize d a s
  | .rsplit a b => Sys2Proof.Machine.execRsplit a b s
  | .wait d a => Sys2Proof.Machine.execWait d a s
  | .barw d a => Sys2Proof.Machine.execBarw d a s
  | .poll d a => Sys2Proof.Machine.execPoll d a s
  | .oqry d a field => Sys2Proof.Machine.execOqry d a field s
  | .ld d a w disp => Sys2Proof.Machine.execLd d a w disp s
  | .st sv a rel z disp => Sys2Proof.Machine.execSt sv a rel z disp s
  | .aadd d a b ord z => Sys2Proof.Machine.execAadd d a b ord z s
  | .aand d a b ord z => Sys2Proof.Machine.execAand d a b ord z s
  | .aor d a b ord z => Sys2Proof.Machine.execAor d a b ord z s
  | .axor d a b ord z => Sys2Proof.Machine.execAxor d a b ord z s
  | .amin d a b ord z => Sys2Proof.Machine.execAmin d a b ord z s
  | .amax d a b ord z => Sys2Proof.Machine.execAmax d a b ord z s
  | .aminw d a b ord z => Sys2Proof.Machine.execAminw d a b ord z s
  | .amaxw d a b ord z => Sys2Proof.Machine.execAmaxw d a b ord z s
  | .aswp d a b ord z => Sys2Proof.Machine.execAswp d a b ord z s
  | .acas d a b ord z => Sys2Proof.Machine.execAcas d a b ord z s
  | .afadd d a b ord z => Sys2Proof.Machine.execAfadd d a b ord z s
  | .llk d a z => Sys2Proof.Machine.execLlk d a z s
  | .sul d a b z => Sys2Proof.Machine.execSul d a b z s
  | .sun d a => Sys2Proof.Machine.execSun d a s
  | .fence a => Sys2Proof.Machine.execFence a s
  | .fencea a => Sys2Proof.Machine.execFencea a s
  | .fencer a => Sys2Proof.Machine.execFencer a s
  | .bfence => Sys2Proof.Machine.execBfence s
  | .qfence => Sys2Proof.Machine.execQfence s
  | .efence => Sys2Proof.Machine.execEfence s
  | .mst sv a rel z disp => Sys2Proof.Machine.execMst sv a rel z disp s
  | .vld v a disp => Sys2Proof.Machine.execVld v a disp s
  | .vst v a disp => Sys2Proof.Machine.execVst v a disp s
  | .qld q a b z => Sys2Proof.Machine.execQld q a b z s
  | .qst q a b z => Sys2Proof.Machine.execQst q a b z s
  | .qgat q a x z => Sys2Proof.Machine.execQgat q a x z s
  | .qsct q a x z => Sys2Proof.Machine.execQsct q a x z s
  | .cpy d a b c => Sys2Proof.Machine.execCpy d a b c s
  | .cpy2 d a b c => Sys2Proof.Machine.execCpy2 d a b c s
  | .cpy3 d a b c => Sys2Proof.Machine.execCpy3 d a b c s
  | .cpyi d a b c => Sys2Proof.Machine.execCpyi d a b c s
  | .cpyr d a b c => Sys2Proof.Machine.execCpyr d a b c s
  | .cpyrs d a b c => Sys2Proof.Machine.execCpyrs d a b c s
  | .sopen d a sv cls => Sys2Proof.Machine.execSopen d a sv cls s
  | .sclose d sv cls => Sys2Proof.Machine.execSclose d sv cls s
  | .sstat d sv cls => Sys2Proof.Machine.execSstat d sv cls s
  | .vadd d a b m t => Sys2Proof.Machine.execVadd d a b m t s
  | .vsub d a b m t => Sys2Proof.Machine.execVsub d a b m t s
  | .vmul d a b m t => Sys2Proof.Machine.execVmul d a b m t s
  | .vmulh d a b m t => Sys2Proof.Machine.execVmulh d a b m t s
  | .vmin d a b m t => Sys2Proof.Machine.execVmin d a b m t s
  | .vmax d a b m t => Sys2Proof.Machine.execVmax d a b m t s
  | .vand d a b m t => Sys2Proof.Machine.execVand d a b m t s
  | .vor d a b m t => Sys2Proof.Machine.execVor d a b m t s
  | .vxor d a b m t => Sys2Proof.Machine.execVxor d a b m t s
  | .vshl d a b m t => Sys2Proof.Machine.execVshl d a b m t s
  | .vshr d a b m t => Sys2Proof.Machine.execVshr d a b m t s
  | .vsar d a b m t => Sys2Proof.Machine.execVsar d a b m t s
  | .vsel d a b m t => Sys2Proof.Machine.execVsel d a b m t s
  | .vabs d a m t => Sys2Proof.Machine.execVabs d a m t s
  | .vcmp d a b m t cond => Sys2Proof.Machine.execVcmp d a b m t cond s
  | .vfadd d a b m t => Sys2Proof.Machine.execVfadd d a b m t s
  | .vfsub d a b m t => Sys2Proof.Machine.execVfsub d a b m t s
  | .vfmul d a b m t => Sys2Proof.Machine.execVfmul d a b m t s
  | .vfma d a b m t => Sys2Proof.Machine.execVfma d a b m t s
  | .vfms d a b m t => Sys2Proof.Machine.execVfms d a b m t s
  | .vfmin d a b m t => Sys2Proof.Machine.execVfmin d a b m t s
  | .vfmax d a b m t => Sys2Proof.Machine.execVfmax d a b m t s
  | .vfabs d a m t => Sys2Proof.Machine.execVfabs d a m t s
  | .vfneg d a m t => Sys2Proof.Machine.execVfneg d a m t s
  | .vfcmp d a b m t cond => Sys2Proof.Machine.execVfcmp d a b m t cond s
  | .vcvt d a src m t => Sys2Proof.Machine.execVcvt d a src m t s
  | .vqnt d a f t => Sys2Proof.Machine.execVqnt d a f t s
  | .vdq d a f t => Sys2Proof.Machine.execVdq d a f t s
  | .vshuf d a b m t => Sys2Proof.Machine.execVshuf d a b m t s
  | .vperm d a b m t => Sys2Proof.Machine.execVperm d a b m t s
  | .vbc d a m t => Sys2Proof.Machine.execVbc d a m t s
  | .vext d a lane t => Sys2Proof.Machine.execVext d a lane t s
  | .vins d a lane t => Sys2Proof.Machine.execVins d a lane t s
  | .vmovk d a => Sys2Proof.Machine.execVmovk d a s
  | .vexp2 d a m t => Sys2Proof.Machine.execVexp2 d a m t s
  | .vlog2 d a m t => Sys2Proof.Machine.execVlog2 d a m t s
  | .vrcp d a m t => Sys2Proof.Machine.execVrcp d a m t s
  | .vrsq d a m t => Sys2Proof.Machine.execVrsq d a m t s
  | .vsin d a m t => Sys2Proof.Machine.execVsin d a m t s
  | .vcos d a m t => Sys2Proof.Machine.execVcos d a m t s
  | .vtanh d a m t => Sys2Proof.Machine.execVtanh d a m t s
  | .vsigm d a m t => Sys2Proof.Machine.execVsigm d a m t s
  | .vrsum d a m t int => Sys2Proof.Machine.execVrsum d a m t int s
  | .vrmax d a m t int => Sys2Proof.Machine.execVrmax d a m t int s
  | .vrmin d a m t int => Sys2Proof.Machine.execVrmin d a m t int s
  | .res d word k => Sys2Proof.Machine.execRes d word k s
  | .vdot p d a b c m => Sys2Proof.Machine.execVdot p d a b c m s
  | .qdot p d a b c => Sys2Proof.Machine.execQdot p d a b c s
  | .mxa p d a b c => Sys2Proof.Machine.execMxa p d a b c s
  | .bmv p d a b c => Sys2Proof.Machine.execBmv p d a b c s
  | .qdop d a b => Sys2Proof.Machine.execQdop d a b s
  | .vlong => Sys2Proof.Machine.execVlong s
  | .vshort => Sys2Proof.Machine.execVshort s
  | .qmov d a => Sys2Proof.Machine.execQmov d a s
  | .qsplat d a z => Sys2Proof.Machine.execQsplat d a z s
  | .qxv d a b => Sys2Proof.Machine.execQxv d a b s
  | .qxq d a b => Sys2Proof.Machine.execQxq d a b s
  | .qfadd d a b t => Sys2Proof.Machine.execQfadd d a b t s
  | .qfmul d a b t => Sys2Proof.Machine.execQfmul d a b t s
  | .qfma d a b t => Sys2Proof.Machine.execQfma d a b t s
  | .qfmin d a b t => Sys2Proof.Machine.execQfmin d a b t s
  | .qfmax d a b t => Sys2Proof.Machine.execQfmax d a b t s
  | .qcvt d a src t => Sys2Proof.Machine.execQcvt d a src t s
  | .qsel d a b t => Sys2Proof.Machine.execQsel d a b t s
  | .qfcmp d a b t cond => Sys2Proof.Machine.execQfcmp d a b t cond s
  | .qadd d a b t => Sys2Proof.Machine.execQadd d a b t s
  | .qsub d a b t => Sys2Proof.Machine.execQsub d a b t s
  | .qmul d a b t => Sys2Proof.Machine.execQmul d a b t s
  | .qand d a b t => Sys2Proof.Machine.execQand d a b t s
  | .qor d a b t => Sys2Proof.Machine.execQor d a b t s
  | .qxor d a b t => Sys2Proof.Machine.execQxor d a b t s
  | .qshl d a b t => Sys2Proof.Machine.execQshl d a b t s
  | .qshr d a b t => Sys2Proof.Machine.execQshr d a b t s
  | .qmin d a b t => Sys2Proof.Machine.execQmin d a b t s
  | .qmax d a b t => Sys2Proof.Machine.execQmax d a b t s
  | .qcmp d a b t cond => Sys2Proof.Machine.execQcmp d a b t cond s
  | .qrsum d a t int => Sys2Proof.Machine.execQrsum d a t int s
  | .qrmax d a t int => Sys2Proof.Machine.execQrmax d a t int s
  | .qrmin d a t int => Sys2Proof.Machine.execQrmin d a t int s
  | .mxb d a b => Sys2Proof.Machine.execMxb d a b s
  | .mxj d a => Sys2Proof.Machine.execMxj d a s
  | .mxcap d a b => Sys2Proof.Machine.execMxcap d a b s
  | .mxst d a => Sys2Proof.Machine.execMxst d a s
  | .bvld d a b => Sys2Proof.Machine.execBvld d a b s
  | .bvrd d a b => Sys2Proof.Machine.execBvrd d a b s
  | .bcfg d a => Sys2Proof.Machine.execBcfg d a s
  | .bstat d a => Sys2Proof.Machine.execBstat d a s
  | .pbind d a => Sys2Proof.Machine.execPbind d a s
  | .pfree d a => Sys2Proof.Machine.execPfree d a s
  | .pstat d a => Sys2Proof.Machine.execPstat d a s
  | .enq d a => Sys2Proof.Machine.execEnq d a s
  | .deq d a => Sys2Proof.Machine.execDeq d a s
  | .xph d a b => Sys2Proof.Machine.execXph d a b s
  | .xsnd d a b c => Sys2Proof.Machine.execXsnd d a b c s
  | .xrcv d a b c => Sys2Proof.Machine.execXrcv d a b c s
  | .xend d => Sys2Proof.Machine.execXend d s
  | .xmrk a b => Sys2Proof.Machine.execXmrk a b s
  | .xvs a b => Sys2Proof.Machine.execXvs a b s
  | .codeObjectLoad => Sys2Proof.Machine.execCodeObjectLoad s
  | .launchMessage => Sys2Proof.Machine.execLaunchMessage s
  | .placementDecision => Sys2Proof.Machine.execPlacementDecision s
  | .itemDelivery => Sys2Proof.Machine.execItemDelivery s
  | .launchAging => Sys2Proof.Machine.execLaunchAging s
  | .waitRequest => Sys2Proof.Machine.execWaitRequest s
  | .discharge => Sys2Proof.Machine.execDischarge s
  | .homeOperation => Sys2Proof.Machine.execHomeOperation s
  | .homeAnswer => Sys2Proof.Machine.execHomeAnswer s
  | .wake => Sys2Proof.Machine.execWake s
  | .cancel => Sys2Proof.Machine.execCancel s
  | .obligationTransfer => Sys2Proof.Machine.execObligationTransfer s
  | .hostRegistration => Sys2Proof.Machine.execHostRegistration s
  | .hostLost => Sys2Proof.Machine.execHostLost s
  | .refill => Sys2Proof.Machine.execRefill s
  | .continuationMessage => Sys2Proof.Machine.execContinuationMessage s
  | .spillRedelivery => Sys2Proof.Machine.execSpillRedelivery s
  | .clustldUpdate => Sys2Proof.Machine.execClustldUpdate s
  | .governorSample => Sys2Proof.Machine.execGovernorSample s
  | .takeUpcall => Sys2Proof.Machine.execTakeUpcall s
  | .resultArrival => Sys2Proof.Machine.execResultArrival s
  | .streamRefill => Sys2Proof.Machine.execStreamRefill s
  | .lockRetry => Sys2Proof.Machine.execLockRetry s
  | .llkLapse => Sys2Proof.Machine.execLlkLapse s
  | .pageWalk => Sys2Proof.Machine.execPageWalk s
  | .tlbInvalidation => Sys2Proof.Machine.execTlbInvalidation s
  | .completionNotice => Sys2Proof.Machine.execCompletionNotice s
  | .migrationRequest => Sys2Proof.Machine.execMigrationRequest s
  | .pinrExpiry => Sys2Proof.Machine.execPinrExpiry s
  | .mstStamp => Sys2Proof.Machine.execMstStamp s
  | .mstApply => Sys2Proof.Machine.execMstApply s
  | .leaseSetup => Sys2Proof.Machine.execLeaseSetup s
  | .reclaim => Sys2Proof.Machine.execReclaim s
  | .demotionPageCopy => Sys2Proof.Machine.execDemotionPageCopy s
  | .leaseAcknowledgement => Sys2Proof.Machine.execLeaseAcknowledgement s
  | .boundReached => Sys2Proof.Machine.execBoundReached s
  | .copyStart => Sys2Proof.Machine.execCopyStart s
  | .copyComplete => Sys2Proof.Machine.execCopyComplete s
  | .cpyrAckTimeout => Sys2Proof.Machine.execCpyrAckTimeout s
  | .mxbStart => Sys2Proof.Machine.execMxbStart s
  | .mxbComplete => Sys2Proof.Machine.execMxbComplete s
  | .computeJobStart => Sys2Proof.Machine.execComputeJobStart s
  | .computeJobComplete => Sys2Proof.Machine.execComputeJobComplete s
  | .mxcapArrival => Sys2Proof.Machine.execMxcapArrival s
  | .mxcapTimeout => Sys2Proof.Machine.execMxcapTimeout s
  | .bankJobComplete => Sys2Proof.Machine.execBankJobComplete s
  | .lvuEntryComplete => Sys2Proof.Machine.execLvuEntryComplete s
  | .segmentStart => Sys2Proof.Machine.execSegmentStart s
  | .gateDeadline => Sys2Proof.Machine.execGateDeadline s
  | .segmentEnd => Sys2Proof.Machine.execSegmentEnd s
  | .bankStageEnqueue => Sys2Proof.Machine.execBankStageEnqueue s
  | .hostAccess => Sys2Proof.Machine.execHostAccess s
  | .flitReceive => Sys2Proof.Machine.execFlitReceive s
  | .replayRequest => Sys2Proof.Machine.execReplayRequest s
  | .fecLockLoss => Sys2Proof.Machine.execFecLockLoss s
  | .keyExhaustion => Sys2Proof.Machine.execKeyExhaustion s
  | .lock => Sys2Proof.Machine.execLock s
  | .start => Sys2Proof.Machine.execStart s
  | .managementReset => Sys2Proof.Machine.execManagementReset s
  | .getVersion => Sys2Proof.Machine.execGetVersion s
  | .getCapabilities => Sys2Proof.Machine.execGetCapabilities s
  | .negotiateAlgorithms => Sys2Proof.Machine.execNegotiateAlgorithms s
  | .getDigests => Sys2Proof.Machine.execGetDigests s
  | .getCertificate => Sys2Proof.Machine.execGetCertificate s
  | .challenge => Sys2Proof.Machine.execChallenge s
  | .getMeasurements => Sys2Proof.Machine.execGetMeasurements s
  | .keyExchange => Sys2Proof.Machine.execKeyExchange s
  | .finish => Sys2Proof.Machine.execFinish s
  | .keyUpdate => Sys2Proof.Machine.execKeyUpdate s
  | .phaseArrival => Sys2Proof.Machine.execPhaseArrival s
  | .phaseRelease => Sys2Proof.Machine.execPhaseRelease s
  | .arrivalTimeout => Sys2Proof.Machine.execArrivalTimeout s
  | .startTick => Sys2Proof.Machine.execStartTick s
  | .phaseEnd => Sys2Proof.Machine.execPhaseEnd s
  | .failureNotice => Sys2Proof.Machine.execFailureNotice s
  | .wordDelivery => Sys2Proof.Machine.execWordDelivery s
  | .combine => Sys2Proof.Machine.execCombine s
  | .markerStep => Sys2Proof.Machine.execMarkerStep s
  | .entryReplace => Sys2Proof.Machine.execEntryReplace s
  | .epochBoundary => Sys2Proof.Machine.execEpochBoundary s
  | .contributionCutoff => Sys2Proof.Machine.execContributionCutoff s
  | .bellResult => Sys2Proof.Machine.execBellResult s
  | .clockSettle => Sys2Proof.Machine.execClockSettle s
  | .join => Sys2Proof.Machine.execJoin s
  | .leave => Sys2Proof.Machine.execLeave s
  | .breach => Sys2Proof.Machine.execBreach s
  | .preempt => Sys2Proof.Machine.execPreempt s
  | .resume => Sys2Proof.Machine.execResume s
  | .sresume => Sys2Proof.Machine.execSresume s
  | .hold => Sys2Proof.Machine.execHold s
  | .unhold => Sys2Proof.Machine.execUnhold s
  | .restart => Sys2Proof.Machine.execRestart s
  | .unitFence => Sys2Proof.Machine.execUnitFence s
  | .unfence => Sys2Proof.Machine.execUnfence s
  | .fenceDeadline => Sys2Proof.Machine.execFenceDeadline s
  | .spareAssign => Sys2Proof.Machine.execSpareAssign s
  | .moduleLeave => Sys2Proof.Machine.execModuleLeave s
  | .scrub => Sys2Proof.Machine.execScrub s
  | .boot => Sys2Proof.Machine.execBoot s
  | .firmwareUpdate => Sys2Proof.Machine.execFirmwareUpdate s
  | .recovery => Sys2Proof.Machine.execRecovery s
  | .securityAlarm => Sys2Proof.Machine.execSecurityAlarm s
  | .thermalLimit => Sys2Proof.Machine.execThermalLimit s
  | .powerOn => Sys2Proof.Machine.execPowerOn s
  | .illegalInstructionWord => Sys2Proof.Machine.execIllegalInstructionWord s
  | .fetchCheck => Sys2Proof.Machine.execFetchCheck s
  | .accessAtHome => Sys2Proof.Machine.execAccessAtHome s
  | .storeAcknowledgement => Sys2Proof.Machine.execStoreAcknowledgement s
  | .millraceRequest => Sys2Proof.Machine.execMillraceRequest s
  | .lvuArbitration => Sys2Proof.Machine.execLvuArbitration s
  | .linkTraining => Sys2Proof.Machine.execLinkTraining s
  | .portConfigurationWrite => Sys2Proof.Machine.execPortConfigurationWrite s
  | .powerFail => Sys2Proof.Machine.execPowerFail s
  | .controllerRestart => Sys2Proof.Machine.execControllerRestart s
  | .rowRepair => Sys2Proof.Machine.execRowRepair s
  | .codeObjectUnload => Sys2Proof.Machine.execCodeObjectUnload s

end Sys2Proof.Machine
end

