-- ==== Sys2Proof/Machine/Issue.lean ====
section
/-!
DEFINITION. What a step does: which message or timer is handled next (R55, R337, R406), which context
issues (R126 to R130), and the issue of one instruction (R134 to R140, R255, R343, R372, R381).
-/

namespace Sys2Proof.Machine

/-! Time (R15): a core cycle is 5 / n of a reference cycle. -/

/-- The next cycle of the clock. -/
def Clock.tick (k : Clock) : Clock :=
  { k with cycle := k.cycle + 1, ref := k.ref + (k.refFrac + 5) / max 1 k.n, refFrac := (k.refFrac + 5) % max 1 k.n }

/-- Is CLUSTLD updated in a cycle: every 64 cycles from the cluster's last reset or repair (R89)? -/
def loadsDue (s : State) (cycle : Nat) : Bool := (cycle - s.cluster.loadFrom) % 64 == 0

/-- The next cycle. -/
def tickClock (s : State) : State :=
  let t := { s with clock := s.clock.tick }
  if loadsDue s t.clock.cycle then send t .clustldUpdate else t

/-! Which messages may be handled. -/

/-- The source of a message of a context: its core (R337). -/
def sourceOf : Agent → Agent
  | .ctx sel => .ctx (0#4 ++ (sel.truncate 32 : BitVec 32))
  | a => a

/-- The device of a context. -/
def devOf (sel : BitVec 36) : Nat := nfld sel.toNat 20 12

/-- The handle a home operation names; ONEW names none yet. -/
def handleOf : HomeOp → Option Word
  | .onew .. => none
  | .ofree h | .oblig h | .poll h | .oqry h _ | .osend h _ _ | .withdraw h | .claim h => some h

/-- The device whose home an operation goes to: ONEW's is the one that makes the object. -/
def homeOf (s : State) (op : HomeOp) : Nat :=
  match handleOf op with
  | some h => fld h 32 12
  | none => s.loc.dev.toNat

/-- Messages of one channel keep their order: one class, one source, one destination device (R337, R406). The class is the
virtual channel of R338; signals towards a context have a number of their own, and so have the agents' own messages. Accesses
have none: they are performed after they arrive, and R324 orders them. -/
def channel (s : State) : Msg → Option (Nat × Agent × Nat)
  | .hostAccess a => some (0, .host a.dev, 0)
  | .launchMessage _ src _ _ _ _ => some (2, sourceOf src, 0)
  | .waitRequest h _ w => some (3, sourceOf w, fld h 32 12)
  | .discharge h _ _ w => some (3, sourceOf w, fld h 32 12)
  | .homeOperation op w => some (3, sourceOf w, homeOf s op)
  | .cancel h w _ => some (3, sourceOf (.ctx w), fld h 32 12)
  | .hostRegistration h _ dev => some (3, .host dev, fld h 32 12)
  | .obligationTransfer _ _ t src => some (3, sourceOf src, devOf t)
  | .seizure w t => some (3, sourceOf (.ctx w), devOf t)
  | .continuationMessage t _ _ => some (5, .other, t.toNat)
  | .phaseArrival _ dev _ _ _ _ => some (6, .host dev, 0)
  | .phaseRelease .. | .failureNotice .. | .bellResult .. => some (6, .other, 0)
  | .preempt src | .resume src | .sresume src _ | .hold src _ | .unhold src _ | .freeHeld src _ => some (7, src, 0)
  | .homeAnswer _ w => some (13, .ctx w, 0)
  | .wake _ _ _ w => some (13, .ctx w, 0)
  | .itemDelivery _ => some (16, .other, 0)
  | .launchStep _ _ _ dev die _ _ => some (17, .other, 8 * dev.toNat + die.toNat)
  | .launchStepAnswer dev die _ _ | .launchDone dev die _ => some (18, .other, 8 * dev.toNat + die.toNat)
  | .millraceRequest _ w .. => some (19, sourceOf (.ctx w), 0)
  | .flitReceive p _ | .keyUpdate p false => some (20, .other, p.toNat)
  | .flitSend p vc _ _ => some (21, .other, 8 * p.toNat + vc.toNat)
  | _ => none

/-- Has a context an access outstanding before a place in its program order, or a write before another? -/
def accessBefore (s : State) (who : BitVec 36) (point writes : Nat) : Bool :=
  s.agenda.any fun p => (accessOf p).any fun b =>
    b.who == who && (decide (b.seq < point) || (decide (b.kind ≠ .load) && decide (b.seq < writes)))

/-- Does an access of the cluster that had passed its checks before a job took its range locks meet one of them (R246,
R329)? -/
def accessInLock (s : State) (id : Nat) : Bool :=
  s.agenda.any fun p => (accessOf p).any fun b => decide (bankPort s b.who < 8) &&
    (s.cluster.ranges.any fun r =>
      let lo := (normEa s b.ea).toNat
      r.owner == id && (r.write || decide (b.kind ≠ .load)) && decide (lo ≤ r.hi.toNat) && decide (r.lo.toNat < lo + b.size))

/-- Has a slot a long access in the LVU queue that came before an operation? -/
def longBefore (s : State) (p : LvuEntry → Bool) : Bool := s.core.lvu.any fun e => !e.places.isEmpty && p e

/-- Has the context of an agent an access that a discharge of it must follow (R324)? -/
def accessFirst (s : State) (pre : List Msg) : Agent → Bool
  | .ctx sel => (pre.any fun p => (accessOf p).any fun b => b.who == sel)
      || (localSlot s sel).any fun i => longBefore s fun e => e.slot.toNat == i.val
  | _ => false

/-- Do some bytes lie in the span of a lock, wherever its mapping puts it (R326)? -/
def lockHits (s : State) (xroot : Word) (r : RangeLock) (pa n : Nat) : Bool :=
  (List.range ((r.hi.toNat - r.lo.toNat) / 2 ^ 16 + 2)).any fun k =>
    let ea := max r.lo.toNat ((r.lo.toNat / 2 ^ 16 + k) * 2 ^ 16)
    decide (ea ≤ r.hi.toNat) && match (translate s xroot .s (BitVec.ofNat 64 ea) .engineRead).2 with
      | .ok p => overlaps p.pa (min (r.hi.toNat + 1 - ea) (2 ^ 16 - ea % 2 ^ 16)) pa n
      | .error _ => false

/-- Has the context of a job an earlier access outstanding of bytes that the job writes, through whatever mapping (R326)? -/
def ownBefore (s : State) (id : Nat) (who : BitVec 36) (seq : Nat) (xroot : Word) : Bool :=
  s.agenda.any fun p => (accessOf p).any fun b => b.who == who && decide (b.seq < seq)
    && s.cluster.ranges.any fun r => r.owner == id && r.write && lockHits s xroot r b.pa b.size

/-- May a job act: what its context did before it, and what met its locks before it, has been performed (R265, R324, R326,
R329)? -/
def jobMayAct (s : State) (id : Nat) (who : BitVec 36) (point seq : Nat) (xroot : Word) : Bool :=
  !accessBefore s who point seq && !accessInLock s id && !ownBefore s id who seq xroot
    && !((localSlot s who).isSome && longBefore s fun e => decide (e.id < id))

/-- May a stream read its next element: what came before its SOPEN, and what met its lock before it, has been performed
(R324, R326, R329)? -/
def streamMayAct (s : State) (i : Fin 11) (cls : BitVec 1) (reg : BitVec 5) : Bool :=
  ((s.at i).streamIn (streamReg reg cls)).all fun st =>
    !accessBefore s (selfId s i) (min (s.at i).act.after st.seq) st.seq && !accessInLock s (streamOwner i st)
      && !longBefore s fun e => e.slot.toNat == i.val && decide (e.id < st.born) && (match e.instr with
        | .qst .. | .qsct .. => true
        | _ => false)

/-- May the job of the queue that `p` finds act? -/
def queueMayAct (s : State) (p : Job → Bool) : Bool :=
  (s.cluster.jobs.find? p).all fun j => jobMayAct s j.id j.who j.after j.seq j.xroot

/-- Must a replica wait with an MST: an earlier load of its context has not been performed there (R326)? -/
def loadFirst (s : State) (a : Access) (die : BitVec 3) : Bool :=
  s.agenda.any fun p => (accessOf p).any fun b =>
    b.who == a.who && decide (b.kind = .load) && decide (b.seq < a.seq)
      && overlaps b.pa b.size (replicaPlace a.pa die) a.size

/-- Is the turn of a request at Millrace: the one in hand, or the next with none in hand, and in one cycle no lower
die's after a higher die's (R98)? -/
def millTurn (s : State) (m : Msg) (who : BitVec 36) : Bool :=
  match s.mill.asking with
  | some a => a.msg == m
  | none => s.mill.last.1 != s.clock.cycle || decide (s.mill.last.2 ≤ nfld who.toNat 17 3)

/-- Does the order of a message's channel let it go? The request that Millrace has in hand has had its turn (R98). -/
def inOrder (s : State) (pre : List Msg) (m : Msg) : Bool :=
  s.mill.asking.any (fun a => a.msg == m) || match channel s m with
    | none => true
    | some k => pre.all fun p => channel s p != some k

/-- Is a thread access ready at its home: its context's order, a lessor, the order at the banks and at a page that is
being reclaimed (R174, R243, R253)? -/
def accessReady (s : State) (pre : List Msg) (a : Access) : Bool :=
  accessClear pre a && leaseRoute s a.pa a.lease != .held && !bankAhead s a
    && pre.all fun p => (accessOf p).all fun b => !samePage s a b

/-- May a message be handled before those sent ahead of it? -/
def mayGo (s : State) (pre : List Msg) (m : Msg) : Bool :=
  inOrder s pre m && match m with
    | .accessAtHome a | .lockRetry a _ => accessReady s pre a
    | .mstStamp a _ => accessClear pre a
    | .mstApply a mask stamp die =>
      stamp == ((replicaOf s mask (BitVec.ofNat 3 (dieOfPlace a.pa))).applied.lookup die).getD 0 && !loadFirst s a die
    | .discharge _ _ _ who => !accessFirst s pre who
    | .waitRequest _ .barw who => !accessFirst s pre who
    | .homeOperation (.osend ..) who => !accessFirst s pre who
    | .copyComplete id | .cpyrAckTimeout id _ => queueMayAct s fun j => j.id == id
    | .mxbComplete => queueMayAct s fun j => j.isMxb && j.started
    | .computeJobComplete => queueMayAct s fun j => !j.isCopy && !j.isMxb && j.started
    | .bankJobComplete id => (s.banks.jobs.find? fun j => j.id == id).all fun j => jobMayAct s j.id j.who j.after j.seq j.xroot
    | .lvuEntryComplete => match s.core.lvu with
      | [] => true
      | e :: _ => e.places.isEmpty || s.agenda.all fun p => (accessOf p).all fun b =>
          (localSlot s b.who).all (fun i => i.val != e.slot.toNat) || decide (e.seq ≤ b.seq)
    | .millraceRequest (.stage ..) _ .. => true
    | .millraceRequest _ who .. => millTurn s m who
    | .streamRefill slot cls reg => (slotOf slot.toNat).all fun i => streamMayAct s i cls reg
    | .capabilityDue _ => !capWaits s
    | .flitSend p vc _ _ => (flitPort s p vc).all fun q => !(portAt s q).carries vc || (portAt s q).room vc
    | .homeAnswer _ who => (localSlot s who).all fun i => !(s.at i).framed
    | .itemDelivery item =>
      item.cluster != s.loc.cluster || item.core != s.loc.core || decide (s.core.itemQ.length < 16)
    | .preempt src =>
      !senderOk s src || !((slots.any fun i => (s.at i).xch.running) || slots.any (requestOut s))
    | .hold src slot => !senderOk s src || (slotOf slot.toNat).all fun i => !requestOut s i
    | _ => true

/-- A message with its place in the agenda taken out. -/
def takeMsg (s : State) (n : Nat) : Option (Msg × State) :=
  s.agenda[n]?.map fun m => (m, { s with agenda := s.agenda.eraseIdx n })

/-- A timer taken out. -/
def takeTimer (s : State) (n : Nat) : Option (Msg × State) :=
  s.timers[n]?.map fun t => (t.2, { s with timers := s.timers.eraseIdx n })

/-! What happens in its exact cycle (R89, R343, R346, R352, R353, R356). -/

/-- Is a message due in this cycle? -/
def msgDue (s : State) : Msg → Bool
  | .wordDelivery w | .combine _ _ w | .markerStep _ _ w => decide (w.due ≤ s.clock.cycle)
  | .phaseEnd gid => phaseEndDue s gid
  | .clustldUpdate => true
  | _ => false

/-- Does a message wait for its own cycle? A word that comes in from another module takes its outputs before. -/
def isTimed : Msg → Bool
  | .wordDelivery w => !wordEnters w
  | .combine .. | .markerStep .. | .phaseEnd _ | .clustldUpdate => true
  | _ => false

/-- Words go up through the levels, then down, then into their slots, and then a phase may end. -/
def msgRank : Msg → Nat
  | .combine e p _ | .markerStep e p _ =>
    if p.toNat = upPort (enLvl e) ∧ enLvl e < 7 then 15 - enLvl e else enLvl e
  | .wordDelivery w => if wordEnters w then 0 else 16
  | _ => 17

/-- The place and rank of the message due in this cycle that comes first. -/
def firstDue (s : State) : Nat → List Msg → Option (Nat × Nat)
  | _, [] => none
  | n, m :: rest =>
    let later := firstDue s (n + 1) rest
    if msgDue s m then
      match later with
      | some (k, r) => if r < msgRank m then some (k, r) else some (n, msgRank m)
      | none => some (n, msgRank m)
    else later

/-- The place of the timer that fell due first (R15: a time is a count of the reference). -/
def firstTimer (ref : Nat) : Nat → List (Nat × Msg) → Option (Nat × Nat)
  | _, [] => none
  | n, (t, _) :: rest =>
    let later := firstTimer ref (n + 1) rest
    if t ≤ ref then
      match later with
      | some (k, u) => if u < t then some (k, u) else some (n, t)
      | none => some (n, t)
    else later

/-- What must be handled before anything issues in this cycle. -/
def forced (s : State) : Option (Msg × State) :=
  match firstDue s 0 s.agenda with
  | some (n, _) => takeMsg s n
  | none =>
    match firstTimer s.clock.ref 0 s.timers with
    | some (n, _) => takeTimer s n
    | none => none

/-! What may be handled next: the spec fixes no order (log 4). -/

/-- The places of the messages that may be handled. -/
def openMsgs (s : State) : Nat → List Msg → List Msg → List Nat
  | _, _, [] => []
  | n, pre, m :: rest =>
    let more := openMsgs s (n + 1) (pre ++ [m]) rest
    if !isTimed m && mayGo s pre m then n :: more else more

/-- Everything that may be handled next. -/
def candidates (s : State) : List (Msg × State) := (openMsgs s 0 [] s.agenda).filterMap (takeMsg s)

/-- What is handled next, before the core issues: none where the cycle goes to the core. -/
def nextEvent (s : State) : Option (Msg × State) :=
  match forced s with
  | some x => some x
  | none =>
    match candidates s with
    | [] => none
    | c :: cs => (c :: cs)[Config.schedule s.tick % (cs.length + 2)]?

/-- Handle a message: the event it brings about. -/
def handle (m : Msg) (s : State) : Host.Outcome State Fault Refusal :=
  match exec m.event { s with event := some m } with
  | .next t => .next { t with event := none }
  | o => o

/-! Readiness (R126, R129). -/

/-- Might a slot issue, its stalls left aside: READY, no request out, no wait, no refill of the Reeve (R68),
not in an IDLE that goes on (R150), and not in the cycle of the start tick that ended its XPH: CYC is 1 or more (R345)? -/
def issuable (s : State) (k : Fin 11) : Bool :=
  let c := s.at k
  c.slotState == .ready && c.act.blocked.isNone && c.act.wait.isNone && !refilling s k && !(c.idle && !idleEnds s)
    && !(c.xch.running && c.xch.startCycle == s.clock.cycle)

/-- The slot becomes the issuing one; an IDLE of it is over (R150). -/
def focus (s : State) (k : Fin 11) : State :=
  let s1 := s.modCore fun c => { c with cur := k, stalled := false, undo := none, upcallNow := false }
  if (s1.at k).idle then
    (s1.setAt k { s1.at k with idle := false }).modCore fun c => { c with sysMsg := false }
  else s1

/-! The issue of one instruction. -/

/-- Does an error mark stand at a register (R173)? Errors of g0 are taken at fences only. -/
def Reg.marked (m : ErrMark) : Reg → Bool
  | .g r => m.cls == 1 && m.num == r && r != 0
  | .v r => m.cls == 2 && m.num == r
  | _ => false

/-- The first error that an instruction meets. -/
def errorMet (c : Ctx) (i : Instr) : Option ErrMark :=
  c.pend.marks.find? fun m => (reads i ++ writes i).any (Reg.marked m)

/-- The number of an active stream register that an instruction would write (R134). -/
def streamWritten (c : Ctx) (i : Instr) : Option (BitVec 5) :=
  (writes i).findSome? fun r => (c.streamIn r).map (·.reg)

/-- A pop of a faulted refill (R135): the trap, and the stream stays at that element, which is read again. -/
def popFault (s : State) (rs : List Reg) (cause : Cause) (addr : Word) : State :=
  match rs.findSome? (fun r => (s.ctx.streamIn r).bind fun st =>
      if st.buf.isEmpty && st.fault.isSome then some (r, st) else none) with
  | some (r, st) =>
    trap (send (s.mod fun c => c.setStream r (some { st with fault := none }))
      (.streamRefill (BitVec.ofNat 4 s.core.cur.val) st.cls st.reg)) cause addr
  | none => trap s cause addr

/-- Does an instruction fail the privilege check that follows its decode (R124)? -/
def privFails (s : State) : Instr → Bool
  | .halt | .xvs .. => s.ctx.level != .s
  | .idle | .eret | .hstart .. | .cresume .. | .hstat .. | .oseize .. => s.ctx.level == .h
  | .hexit | .cpack .. | .migrate .. => !helperLevel s
  | .mfc _ n => !cregReadable n s.ctx.level
  | .mtc _ n => !cregWritable n s.ctx.level
  | .mxc _ n | .mset _ n | .mclr _ n => !cregReadable n s.ctx.level || !cregWritable n s.ctx.level
  | _ => false

/-- The pops of an instruction, and its meaning (R134). -/
def popAndRun (i : Instr) (s : State) : Host.Outcome State Fault Refusal :=
  let rs := distinct (reads i)
  let u : Undo :=
    { regs := s.ctx.regs, streams := s.ctx.streams, agenda := s.agenda, ranges := s.cluster.ranges }
  match popAll s.core.cur rs (s.modCore fun c => { c with undo := some u }) with
  | .error (cause, addr) => .next (popFault s rs cause addr)
  | .ok s2 => exec i s2

/-- Issue an instruction whose word is due: its privilege (R124), errors (R173), a write of a stream register (R134),
and its meaning. -/
def runInstr (i : Instr) (s : State) : Host.Outcome State Fault Refusal :=
  if privFails s i then .next (trapPriv s)
  else match errorMet s.ctx i with
    | some m => .next (takeDeferred s m false)
    | none =>
      match streamWritten s.ctx i with
      | some r => .next (trap s 6 (r.zeroExtend 64))
      | none => popAndRun i s

/-- The first error of a long access that the context has still to take at its level (R237; log 69). -/
def longErrorDue (s : State) : Option (Level × Cause × Word) := s.ctx.act.longErr.find? fun e => e.1 == s.ctx.level

/-- Take it: the trap comes before the next instruction. -/
def takeLongError (s : State) (e : Level × Cause × Word) : State :=
  trap (s.modAct s.core.cur fun a => { a with longErr := a.longErr.erase e }) e.2.1 e.2.2

/-- Does a breakpoint fire at the due instruction (R381)? -/
def breaks (s : State) : Option Nat :=
  if s.ctx.skip then none else breakpointAt s s.core.cur s.ctx.pc

/-- Issue what is due in the issuing slot (R136): a nullified slot has no effect; fetch checks come before
breakpoints, and those before decoding. -/
def issueWord (s : State) : Host.Outcome State Fault Refusal :=
  match due s s.core.cur with
  | .nullified => .next (s.mod fun c => { c with queue := c.queue.shift (c.queue.q2 + 4) })
  | .check => exec .fetchCheck s
  | .recapture =>
    match s.ctx.frame with
    | none => .next s
    | some f =>
      match recaptured s.ctx.longMode f with
      | .ok _ => .next s
      | .check c a => .next (captureCheck s f c a)
      | .ill iter slot w => .next (captureIll s iter slot w)
  | .illegal =>
    match breaks s with
    | some n => .next (breakpointTrap s n)
    | none => exec .illegalInstructionWord s
  | .ins i =>
    match breaks s with
    | some n => .next (breakpointTrap s n)
    | none => runInstr i (s.mod fun c => { c with skip := false })

/-- Issue what is due, after an error that the context has still to take (R237). -/
def issueDue (s : State) : Host.Outcome State Fault Refusal :=
  match longErrorDue s with
  | some e => .next (takeLongError s e)
  | none => issueWord s

/-- An issue that stalled did not happen. -/
def unlessStalled : Host.Outcome State Fault Refusal → Option (Host.Outcome State Fault Refusal)
  | .next t => if t.core.stalled then none else some (.next t)
  | o => some o

/-- What the issue of a slot leads to; none while it is not ready (R126, R129). -/
def tryIssue (s : State) (k : Fin 11) : Option (Host.Outcome State Fault Refusal) :=
  if !issuable s k then none
  else if dueStalls (focus s k) k then none
  else unlessStalled (issueDue (focus s k))

/-- Is the slot ready (R126)? -/
def isReady (s : State) (k : Fin 11) : Bool := (tryIssue s k).isSome

/-! Which context issues (R127, R343). -/

/-- The value that an instruction reads of g[r]: the element that it pops, where r is a stream register (R134). -/
def operandG (c : Ctx) (r : BitVec 5) : Word := match c.streamIn (.g r) with
  | some st => (st.buf.headD 0).truncate 64
  | none => c.g r

/-- Does the slot stand at an exchange instruction whose cycle this is (R343)? -/
def exchangeNow (s : State) (k : Fin 11) : Bool :=
  let c := s.at k
  c.xch.running && (match due s k with
    | .ins (.xsnd _ a _ _) => (operandG c a).toNat == s.clock.cycle - c.xch.startCycle
    | .ins (.xrcv _ a _ _) => (operandG c a).toNat == s.clock.cycle - c.xch.startCycle
    | .ins (.xmrk _ b) => fld (operandG c b) 0 21 == s.clock.cycle - c.xch.startCycle
    | _ => false)

/-- The slot after one, in rotation. -/
def nextSlot (k : Fin 11) : Fin 11 := ⟨(k.val + 1) % 11, Nat.mod_lt _ (by decide)⟩

/-- The slots in rotation from one. -/
def rotation (p : Fin 11) : List (Fin 11) := slots.drop p.val ++ slots.take p.val

/-- A decision: the slot, the pointer and the credit afterwards. -/
structure Pick where
  slot : Fin 11
  ptr : Fin 11
  credit : Bool
  deriving DecidableEq, Repr

/-- The rotation: slot 0 is passed over while its credit is spent, and passing restores it. The first ready
slot, and the credit. DESIGN CHOICE: a rotation that passed slot 0 does not come round to it again in that cycle, so nothing
issues where it alone is ready (log 70). -/
def rotate (ready : Fin 11 → Bool) : List (Fin 11) → Bool → Option (Fin 11) × Bool
  | [], credit => (none, credit)
  | k :: rest, credit =>
    if k = 0 ∧ !credit then rotate ready rest true
    else if ready k then (some k, credit)
    else rotate ready rest credit

/-- May a slot be chosen: ready, and not one that yielded while another is ready (R150)? -/
def eligibleSlot (s : State) (k : Fin 11) : Bool :=
  isReady s k && !((s.at k).yielded && slots.any fun j => decide (j ≠ k) && isReady s j)

/-- The decision of R127, with R343 ahead of it. An upcall just taken has its handler's first instruction
issued in the same cycle (R372). The pointer follows slot 0 also where its upcall jumps the rotation, as R127 and the
worked case of R128 have it; the bound of 11 cycles that R128 states does not follow from that (DESIGN CHOICE, log 70). -/
def pick (s : State) : Option Pick × Bool :=
  match slots.find? fun k => exchangeNow s k && isReady s k with
  | some k => (some { slot := k, ptr := s.core.ptr, credit := s.core.credit }, s.core.credit)
  | none =>
    if s.core.upcallNow && isReady s 0 then
      (some { slot := 0, ptr := s.core.ptr, credit := s.core.credit }, s.core.credit)
    else if upcallDue s && s.core.credit && eligibleSlot s 0 then
      (some { slot := 0, ptr := 1, credit := false }, false)
    else
      match rotate (eligibleSlot s) (rotation s.core.ptr) s.core.credit with
      | (some k, credit) => (some { slot := k, ptr := nextSlot k, credit := credit }, credit)
      | (none, credit) => (none, credit)

/-! LLK locks (R255). -/

/-- Does an instruction that stalls meet a condition of the table of R129 (R255)? -/
def tableStall (s : State) (k : Fin 11) : Bool :=
  dueStalls s k || match due s k with
    | .ins i => match i with
      | .hexit => (s.at k).anyPending
      | .mxa .. | .mxj .. | .mxcap .. | .mxb .. => decide (4 ≤ jobsOf s ((selfId s k).toNat % 2 ^ 32))
      | .cpy .. | .cpy2 .. | .cpy3 .. | .cpyi .. | .cpyr .. | .cpyrs .. =>
        decide (4 ≤ jobsOf s ((selfId s k).toNat % 2 ^ 32)) || decide (lockRoom s < 2)
      | .fence _ | .fencea _ | .fencer _ | .bfence | .qfence | .efence | .fencei | .eret | .cpack .. | .migrate .. | .sun ..
      | .xph .. | .xsnd .. | .xrcv .. | .xend .. => false
      | i => if needsLong i then decide (16 ≤ s.core.lvu.length) else decide (64 ≤ outstanding s)
    | _ => false

/-- A cycle passes for the locks: a context that stalls under R129 for more than 64 cycles in a row loses its lock. -/
def llkStalls (s : State) (issued : Option (Fin 11)) : List (Fin 11) → State → State
  | [], t => t
  | k :: rest, t =>
    llkStalls s issued rest
      (match (t.at k).llk with
      | none => t
      | some l =>
        if issued ≠ some k ∧ issuable s k ∧ !isReady s k ∧ tableStall s k then
          if 64 ≤ l.stalled then endLlk t k
          else t.setAt k { t.at k with llk := some { l with stalled := l.stalled + 1 } }
        else t.setAt k { t.at k with llk := some { l with stalled := 0 } })

/-- The instruction counts against the lock it was issued under: the seventeenth lets it lapse. -/
def llkCount (s t : State) (k : Fin 11) : State :=
  let counts := match due s k with
    | .ins (.llk ..) => false
    | .ins _ => true
    | _ => false
  match (s.at k).llk, (t.at k).llk with
  | some _, some l =>
    if !counts || l.closing then t
    else if 16 ≤ l.issued then endLlk t k
    else t.setAt k { t.at k with llk := some { l with issued := l.issued + 1 } }
  | _, _ => t

/-! Jobs that stall on a full queue (R290). -/

/-- Is an instruction a job of the cluster's job queue? -/
def isJobIns : Instr → Bool
  | .mxa .. | .mxj .. | .mxb .. | .cpy .. | .cpy2 .. | .cpy3 .. | .cpyi .. | .cpyr .. | .cpyrs .. => true
  | _ => false

/-- Does a slot stand at a job instruction that wants a place? -/
def wantsPlace (s : State) (k : Fin 11) : Bool :=
  issuable s k && !dueStalls s k && decide (jobsOf s ((selfId s k).toNat % 2 ^ 32) < 4) && match due s k with
    | .ins i => isJobIns i
    | _ => false

/-- The slots whose job has no place wait for one. -/
def joinWaiters : List (Fin 11) → State → State
  | [], s => s
  | k :: rest, s =>
    joinWaiters rest (if wantsPlace s k && queueFull s (selfId s k) none then waitsForPlace s (selfId s k) none else s)

/-- A cycle passes for those who wait for a place: a context that no longer stands at its job waits no longer. -/
def noteWaiters (s : State) : State :=
  let still (w : BitVec 36 × Option Nat) : Bool := w.2.isSome || (localSlot s w.1).all fun k => wantsPlace s k
  joinWaiters slots (s.modCluster fun c => { c with waiting := c.waiting.filter still })

/-! One cycle of the core. -/

/-- Does the core issue at all: not stopped, pre-empted, or in a clock change (R150, R356, R376)? -/
def running (s : State) : Bool :=
  !s.core.stopped && !s.core.preempted && decide (s.core.settle ≤ s.clock.ref)

/-- Another context was ready, and issues: those that yielded have been passed over (R150). -/
def passYields (k : Fin 11) : List (Fin 11) → State → State
  | [], s => s
  | j :: rest, s =>
    passYields k rest (if (s.at j).yielded ∧ j ≠ k then s.setAt j { s.at j with yielded := false } else s)

/-- The decision is made: the pointer and the credit move. -/
def decided (s : State) (p : Pick) : State :=
  passYields p.slot slots (s.modCore fun c => { c with ptr := p.ptr, credit := p.credit })

/-- A cycle in which nothing issues. -/
def idleCycle (s : State) (credit : Bool) : State :=
  tickClock (noteWaiters ((llkStalls s none slots s).modCore fun c => { c with credit := credit, upcallNow := false }))

/-- The rest of the cycle of an issue: the locks, and the next cycle. -/
def finishCycle (s : State) (p : Pick) :
    Option (Host.Outcome State Fault Refusal) → Host.Outcome State Fault Refusal
  | none => .next (idleCycle (decided s p) p.credit)
  | some (.next t) => .next (tickClock (noteWaiters (llkStalls s (some p.slot) slots (llkCount s t p.slot))))
  | some o => o

/-- The cycle of an issue. -/
def issueCycle (s : State) (p : Pick) : Host.Outcome State Fault Refusal :=
  finishCycle s p (tryIssue (decided s p) p.slot)

/-- The cycle that follows a decision: nothing issues, or slot 0 takes the upcall in the cycle in which it
would issue (R372), or the picked slot issues. An exchange instruction in its own cycle goes first (R343). -/
def cycleOf (s : State) : Option Pick × Bool → Host.Outcome State Fault Refusal
  | (none, credit) => .next (idleCycle s credit)
  | (some p, _) => if p.slot = 0 ∧ upcallDue s ∧ !exchangeNow s 0 then exec .takeUpcall (decided s p) else issueCycle s p

/-- One cycle of the core. -/
def coreCycle (s : State) : Host.Outcome State Fault Refusal :=
  if !running s then .next (tickClock s) else cycleOf s (pick s)

end Sys2Proof.Machine
end

