-- ==== Sys2Proof/Machine/Step.lean ====
section
/-!
DEFINITION. One step: the next message or timer, else one cycle of the core. And where a word lies that
the next step fetches.
-/

namespace Sys2Proof.Machine

/-- The step that a choice leads to: the message or timer chosen, or one cycle of the core. -/
def stepWith (s : State) : Option (Msg × State) → Host.Outcome State Fault Refusal
  | some (m, t) => handle m { t with tick := s.tick + 1 }
  | none => coreCycle { s with tick := s.tick + 1 }

/-- One step of the machine (log 4). -/
def step (s : State) : Host.Outcome State Fault Refusal := stepWith s (nextEvent s)

/-- An instruction's words stored where the next step fetches: at offset 0 of the core's TCM, with slot 0 at
S level due to issue there, in the mode in which the instruction exists (R123), and nothing else in flight. -/
def State.withFetchWord (s : State) (nbits w : Nat) : State :=
  let s1 := writeBytes s (tcmBase s) (bytesOfNat 4 (w % 2 ^ nbits))
  let long := match decodeTableWord nbits w with
    | some i => needsLong i
    | none => false
  let c := s1.at 0
  let s2 := s1.setAt 0
    { c with queue := Queue.at 0, frame := none, level := .s, slotState := .ready, longMode := long
             idle := false, pend := Pend.reset, streams := []
             act := { c.act with blocked := none, wait := none } }
  { s2 with
    agenda := [], timers := []
    core := { s2.core with stopped := false, preempted := false, settle := 0, ptr := 0, credit := true
                           sys := { s2.core.sys with xbound := 0x8000 } } }

end Sys2Proof.Machine
end

