-- ==== Sys2Proof/Safety.lean ====
section
/-!
DEFINITION. The terms in which claims speak: which registers a step writes, and what it leaves as it was.
Nothing here is used by the machine.
-/

namespace Sys2Proof.Machine

/-- The instruction or event completes: exec answers a next state, and it is as P says. -/
def Completes (i : Instr) (s : State) (P : State → Prop) : Prop := ∃ t, exec i s = .next t ∧ P t

/-! The register files of the issuing context. -/

/-- Of the general registers only g[d] is written; g0 is never written (R110). -/
def SetsG (s t : State) (d : BitVec 5) (x : Word) : Prop :=
  ∀ r, gv t r = if r = d ∧ r ≠ 0 then x else gv s r

/-- No general register is written. -/
def KeepsG (s t : State) : Prop := ∀ r, gv t r = gv s r

/-- No floating register is written. -/
def KeepsF (s t : State) : Prop := ∀ r, t.ctx.f r = s.ctx.f r

/-- Of the vector registers only v[d] is written. -/
def SetsV (s t : State) (d : BitVec 5) (x : VReg) : Prop := ∀ r, t.ctx.v r = if r = d then x else s.ctx.v r

/-- No vector register is written. -/
def KeepsV (s t : State) : Prop := ∀ r, t.ctx.v r = s.ctx.v r

/-- Of the mask registers only k[d] is written; k0 is never written (R110). -/
def SetsK (s t : State) (d : BitVec 3) (x : W32) : Prop :=
  ∀ r, t.ctx.k r = if r = d ∧ r ≠ 0 then x else s.ctx.k r

/-- No mask register is written. -/
def KeepsK (s t : State) : Prop := ∀ r, t.ctx.k r = s.ctx.k r

/-- No long register is written. -/
def KeepsQ (s t : State) : Prop := ∀ r, t.ctx.q r = s.ctx.q r

/-! What a step leaves as it was. -/

/-- The issuing context beside its registers, its user control registers and its queue: the trap registers,
its part in upcalls, phases and streams, what is pending, its activity, level and state. -/
structure KeepsContext (s t : State) : Prop where
  pend : t.ctx.pend = s.ctx.pend
  trap : t.ctx.trap = s.ctx.trap
  upcall : t.ctx.upcall = s.ctx.upcall
  xch : t.ctx.xch = s.ctx.xch
  streams : t.ctx.streams = s.ctx.streams
  llk : t.ctx.llk = s.ctx.llk
  act : t.ctx.act = s.ctx.act
  level : t.ctx.level = s.ctx.level
  slotState : t.ctx.slotState = s.ctx.slotState
  longMode : t.ctx.longMode = s.ctx.longMode

/-- The user control registers of the issuing context. -/
def KeepsUser (s t : State) : Prop := t.ctx.user = s.ctx.user

/-- The other contexts, and the units of the core. -/
structure KeepsCore (s t : State) : Prop where
  cur : t.core.cur = s.core.cur
  contexts : ∀ i, i ≠ s.core.cur → t.at i = s.at i
  sys : t.core.sys = s.core.sys
  reeve : t.core.reeve = s.core.reeve
  spilled : t.core.spilled = s.core.spilled
  itemQ : t.core.itemQ = s.core.itemQ
  contQ : t.core.contQ = s.core.contQ
  spill : t.core.spill = s.core.spill
  events : t.core.events = s.core.events
  lvu : t.core.lvu = s.core.lvu
  recv : t.core.recv = s.core.recv
  stopped : t.core.stopped = s.core.stopped

/-- Every byte of memory reads as before. -/
def KeepsMemory (s t : State) : Prop := ∀ a, Memory.get t.mem a = Memory.get s.mem a

/-- Every byte of memory outside n bytes from an address reads as before. -/
def KeepsMemoryBut (s t : State) (pa n : Nat) : Prop :=
  ∀ a, a < pa ∨ pa + n ≤ a → Memory.get t.mem a = Memory.get s.mem a

/-- Every byte of memory outside n bytes at an offset of the save area reads as before. -/
def KeepsMemoryButSave (s t : State) (off n : Nat) : Prop :=
  ∀ a, (∀ pa, saveAddr s off = some pa → a < pa ∨ pa + n ≤ a) → Memory.get t.mem a = Memory.get s.mem a

/-- The core keeps no save area yet, or can write at an offset of it (R368). -/
def SaveReady (s : State) (off : Nat) : Prop := s.core.sys.saveb = 0 ∨ (saveAddr s off).isSome = true

/-- The units of the cluster, the die and the module, and what is in flight. -/
structure KeepsUnits (s t : State) : Prop where
  cluster : t.cluster = s.cluster
  signals : t.signals = s.signals
  engine : t.engine = s.engine
  mill : t.mill = s.mill
  banks : t.banks = s.banks
  exchange : t.exchange = s.exchange
  bell : t.bell = s.bell
  hw : t.hw = s.hw
  agenda : t.agenda = s.agenda
  timers : t.timers = s.timers
  outbox : t.outbox = s.outbox

/-! The program counter. -/

/-- The queue after Shift(next) (R136). -/
def Shifted (s t : State) (next : Word) : Prop :=
  t.ctx.queue.q0 = s.ctx.queue.q1 ∧ t.ctx.queue.q1 = s.ctx.queue.q2 ∧ t.ctx.queue.q2 = next
    ∧ t.ctx.queue.n0 = s.ctx.queue.n1 ∧ t.ctx.queue.n1 = s.ctx.queue.n2 ∧ t.ctx.queue.n2 = false
    ∧ t.ctx.queue.d0 = s.ctx.queue.d1 ∧ t.ctx.queue.d1 = s.ctx.queue.d2 ∧ t.ctx.queue.d2 = false

/-- An instruction that is no transfer is done: outside a repeat frame the queue shifts to Q2 + 4 (R136);
inside one, the next slot, the next replay or the instruction after the frame is due (R140). -/
def Advances (s t : State) : Prop :=
  match s.ctx.frame with
  | none => t.ctx.frame = none ∧ Shifted s t (s.ctx.queue.q2 + 4)
  | some f =>
    if f.slot.toNat < f.nm1.toNat then t.ctx.frame = some { f with slot := f.slot + 1, again := false }
    else if f.iter.toNat < f.cm1.toNat then t.ctx.frame = some { f with slot := 0, iter := f.iter + 1, again := false }
    else t.ctx.frame = none ∧ t.ctx.queue.q0 = f.base + BitVec.ofNat 64 (4 * (f.nm1.toNat + 1))

/-- A transfer of control issues from an instruction address (R136): its two slots are nullified where its nul
field says so, and are delay slots; the target comes after them. -/
structure Transfers (s t : State) (taken : Bool) (target : Word) (nul : BitVec 2) : Prop where
  q0 : t.ctx.queue.q0 = s.ctx.queue.q1
  q1 : t.ctx.queue.q1 = s.ctx.queue.q2
  q2 : t.ctx.queue.q2 = if taken then target else s.ctx.queue.q2 + 4
  n0 : t.ctx.queue.n0 = ((taken && nul == 1) || (!taken && nul == 2) || s.ctx.queue.n1)
  n1 : t.ctx.queue.n1 = ((taken && nul == 1) || (!taken && nul == 2) || s.ctx.queue.n2)
  n2 : t.ctx.queue.n2 = false
  d0 : t.ctx.queue.d0 = true
  d1 : t.ctx.queue.d1 = true
  d2 : t.ctx.queue.d2 = false

/-! Whole effects. -/

/-- Everything but the registers of the issuing context and its queue. -/
structure KeepsRest (s t : State) : Prop where
  context : KeepsContext s t
  core : KeepsCore s t
  memory : KeepsMemory s t
  units : KeepsUnits s t

/-- No register of any class is written. -/
structure KeepsRegisters (s t : State) : Prop where
  g : KeepsG s t
  f : KeepsF s t
  v : KeepsV s t
  k : KeepsK s t
  q : KeepsQ s t
  user : KeepsUser s t

/-- The instruction writes g[d] and nothing else. -/
structure OnlyG (s t : State) (d : BitVec 5) (x : Word) : Prop where
  result : SetsG s t d x
  f : KeepsF s t
  v : KeepsV s t
  k : KeepsK s t
  q : KeepsQ s t
  user : KeepsUser s t
  rest : KeepsRest s t

/-- It writes g[d] and nothing else, and is done. -/
structure WritesG (s t : State) (d : BitVec 5) (x : Word) : Prop extends OnlyG s t d x where
  next : Advances s t

/-- The instruction writes v[d] and nothing else, and is done. -/
structure WritesV (s t : State) (d : BitVec 5) (x : VReg) : Prop where
  result : SetsV s t d x
  g : KeepsG s t
  f : KeepsF s t
  k : KeepsK s t
  q : KeepsQ s t
  user : KeepsUser s t
  rest : KeepsRest s t
  next : Advances s t

/-- The instruction writes k[d] and nothing else, and is done. -/
structure WritesK (s t : State) (d : BitVec 3) (x : W32) : Prop where
  result : SetsK s t d x
  g : KeepsG s t
  f : KeepsF s t
  v : KeepsV s t
  q : KeepsQ s t
  user : KeepsUser s t
  rest : KeepsRest s t
  next : Advances s t

/-- The instruction changes nothing but the program counter, and is done. -/
structure OnlyAdvances (s t : State) : Prop where
  registers : KeepsRegisters s t
  rest : KeepsRest s t
  next : Advances s t

/-- The context sends a request and stays at its instruction until the answer comes: no register is written, no
byte of memory, and the program counter stands (R54, R275). -/
structure Asks (s t : State) (m : Msg) : Prop where
  sent : t.agenda = s.agenda ++ [m]
  stays : t.ctx.queue = s.ctx.queue ∧ t.ctx.frame = s.ctx.frame
  blocked : t.ctx.act.blocked.isSome = true
  registers : KeepsRegisters s t
  memory : KeepsMemory s t
  others : ∀ i, i ≠ s.core.cur → t.at i = s.at i

/-- The context's multiplicity of obligations of a kind on an object, resident and spilled. -/
def owes (s : State) (i : Fin 11) (h : Word) (k : OblKind) : Nat :=
  (((s.core.reeve ++ s.core.spilled).filter fun o => o.is i h k).map fun o => o.mult).sum

/-- A trap was taken precisely (R148, R366): in a helper, the record names cause and TVAL and holds the queue
before the instruction; no register is written. -/
structure TrapsPrecisely (s t : State) (cause : Nat) (tval : Word) : Prop where
  state : t.ctx.slotState = .trapped
  cause : t.ctx.trap.cause.toNat % 256 = cause
  tval : t.ctx.trap.tval = tval
  epc : t.ctx.trap.epc0 = s.ctx.queue.q0 ∧ t.ctx.trap.epc1 = s.ctx.queue.q1 ∧ t.ctx.trap.epc2 = s.ctx.queue.q2
  regs : t.ctx.regs = s.ctx.regs
  user : t.ctx.user = s.ctx.user

/-! Vectors. -/

/-- Lane i of w bits of a vector register (R200). -/
def lane (w i : Nat) (x : VReg) : BitVec w := x.extractLsb' (w * i) w

/-- Lane i of w bits of a long register (R212). -/
def longLane (w i : Nat) (x : QReg) : BitVec w := x.extractLsb' (w * i) w

/-- A vector operation writes v[d] by lanes of w bits: an excluded lane keeps its value, and an included one is as
P says (R201). Nothing else changes but FFLAGS, which only gains flags, and the LFSR (R183, R190). -/
structure WritesLanes (s t : State) (d : BitVec 5) (m : BitVec 3) (w : Nat) (P : Nat → BitVec w → Prop) : Prop where
  included : ∀ i, i < 256 / w → (s.ctx.k m).getLsbD i = true → P i (lane w i (t.ctx.v d))
  excluded : ∀ i, i < 256 / w → (s.ctx.k m).getLsbD i = false → lane w i (t.ctx.v d) = lane w i (s.ctx.v d)
  others : ∀ r, r ≠ d → t.ctx.v r = s.ctx.v r
  g : KeepsG s t
  f : KeepsF s t
  k : KeepsK s t
  q : KeepsQ s t
  user : t.ctx.user = { s.ctx.user with fflags := t.ctx.user.fflags, lfsr := t.ctx.user.lfsr }
  flags : t.ctx.user.fflags ||| s.ctx.user.fflags = t.ctx.user.fflags
  rest : KeepsRest s t
  next : Advances s t

/-- All of v[d] is written; nothing else changes but FFLAGS, which only gains flags, and the LFSR. -/
structure WritesWhole (s t : State) (d : BitVec 5) (x : Nat) : Prop where
  value : (t.ctx.v d).toNat = x
  others : ∀ r, r ≠ d → t.ctx.v r = s.ctx.v r
  g : KeepsG s t
  f : KeepsF s t
  k : KeepsK s t
  q : KeepsQ s t
  user : t.ctx.user = { s.ctx.user with fflags := t.ctx.user.fflags, lfsr := t.ctx.user.lfsr }
  flags : t.ctx.user.fflags ||| s.ctx.user.fflags = t.ctx.user.fflags
  rest : KeepsRest s t
  next : Advances s t

/-! Floating elements by their bits (R178). -/

/-- The exponent field. -/
def expBits (f : FFmt) (x : Nat) : Nat := x / 2 ^ f.mbits % 2 ^ f.ebits

/-- The mantissa field. -/
def manBits (f : FFmt) (x : Nat) : Nat := x % 2 ^ f.mbits

/-- The sign bit. -/
def signBit (f : FFmt) (x : Nat) : Bool := x.testBit (f.width - 1)

/-- Is an element a NaN? -/
def NanIn (f : FFmt) (x : Nat) : Prop :=
  match f with
  | .e4m3 => x % 128 = 127
  | .e2m1 => False
  | f => expBits f x = 2 ^ f.ebits - 1 ∧ manBits f x ≠ 0

/-- Is an element an infinity, in a format that has them? -/
def InfIn (f : FFmt) (x : Nat) : Prop := f.hasInf = true ∧ expBits f x = 2 ^ f.ebits - 1 ∧ manBits f x = 0

/-- Is an element read as a zero: a zero, or a subnormal under FTZ (R187)? -/
def ZeroIn (md : Word) (f : FFmt) (x : Nat) : Prop := expBits f x = 0 ∧ (manBits f x = 0 ∨ ftz md f = true)

/-- Is an element a normal number? -/
def NormalIn (f : FFmt) (x : Nat) : Prop := expBits f x ≠ 0 ∧ ¬NanIn f x ∧ ¬InfIn f x

/-- The zero of a sign. -/
def signedZero (f : FFmt) (neg : Bool) : Nat := if neg then 2 ^ (f.width - 1) else 0

/-- The infinity of a sign. -/
def signedInf (f : FFmt) (neg : Bool) : Nat := signedZero f neg + (2 ^ f.ebits - 1) * 2 ^ f.mbits

/-- The canonical NaNs of R178. -/
def canonicalNan : FFmt → Nat
  | .fp64 => 0x7FF8000000000000
  | .fp32 => 0x7FC00000
  | .bf16 => 0x7FC0
  | .fp16 => 0x7E00
  | .e4m3 => 0x7F
  | .e5m2 => 0x7E
  | .e2m1 => 0

/-- The result that a NaN operand gives (R188): the canonical NaN with CNAN, else the operand with its top mantissa bit set;
E4M3 and E5M2 take their canonical NaN with its sign. -/
def nanResult (md : Word) (f : FFmt) (x : Nat) : Nat :=
  if md.getLsbD 4 then canonicalNan f
  else match f with
    | .e4m3 | .e5m2 => signedZero f (signBit f x) + canonicalNan f
    | f => x ||| 2 ^ (f.mbits - 1)

/-- Node i of level n of the tree of R197 over the lanes that are present: an absent member passes the other through, and
two are combined. -/
def treeNode {α : Type} (g : α → α → α) (x : Nat → Option α) : Nat → Nat → Option α
  | 0, i => x i
  | n + 1, i =>
    match treeNode g x n (2 * i), treeNode g x n (2 * i + 1) with
    | some a, some b => some (g a b)
    | some a, none => some a
    | none, y => y

/-- A q instruction joins the LVU queue with the operands it takes at issue (R213); no register is written and no
byte of memory. -/
structure Enqueues (s t : State) (i : Instr) (P : LvuEntry → Prop) : Prop where
  entry : ∃ e : LvuEntry, t.core.lvu = s.core.lvu ++ [e] ∧ e.instr = i ∧ e.slot.toNat = s.core.cur.val
    ∧ e.mode = s.ctx.user.fmode ∧ e.seed = s.ctx.user.lfsr ∧ P e
  g : KeepsG s t
  f : KeepsF s t
  v : KeepsV s t
  k : KeepsK s t
  q : KeepsQ s t
  memory : KeepsMemory s t
  next : Advances s t

/-! Accesses. -/

/-- An access of n bytes that R172 lets pass and that is performed as it issues: aligned in the core's own TCM, at
or above BOUND below S level, in no range lock, behind no QMEM entry and no access still out, at a sound place of a
present core, no lease being held. -/
structure OwnTcmAccess (s : State) (ea : Word) (n : Nat) (writes : Bool) : Prop where
  inside : ea.toNat + n ≤ 2 ^ 15
  aligned : ea.toNat % n = 0
  bound : s.ctx.level = .s ∨ s.core.sys.xbound.toNat % 2 ^ 16 ≤ ea.toNat
  unlocked : rangeLocked s ea n writes = false
  noEntry : qmemStalls s writes = false
  nothingOut : accessesOut s (me s) = false
  sound : eccBad s (tcmBase s + ea.toNat) n = false
  present : clusterPresent s.grade (myCluster s) = true
  noLease : s.hw.leases = []
  running : s.ctx.framed = false

/-- An access that R172 lets pass, to a place outside the core's TCM, with room among the outstanding requests
(R129) and no QMEM entry or MST that it would have to wait for (R260, R263). -/
structure RemoteAccess (s : State) (ea : Word) (n : Nat) (acc : AccType) (p : Place) : Prop where
  passes : (checkAccess s ea n acc).2 = .ok p
  outside : inOwnTcm s p.pa = false
  noEntry : qmemStalls s acc.writes = false
  room : outstanding s < 64
  single : acc = .read → p.layout ≠ 2

/-- The instruction has sent one access to its home and is done but for the result: no register and no byte of
memory is written. -/
structure SendsAccess (s t : State) (kind : AccKind) (ea : Word) (pa size : Nat) (data : VReg) (dst : Dst) :
    Prop where
  sent : ∃ a : Access, t.agenda = s.agenda ++ [.accessAtHome a] ∧ a.who = me s ∧ a.kind = kind ∧ a.ea = ea
    ∧ a.pa = pa ∧ a.size = size ∧ a.data = data ∧ a.dst = dst ∧ a.seq = s.ctx.act.seq
  pending : ∀ r sext, dst = .g r sext → r ≠ 0 → t.ctx.isPending (.g r) = true
  pendingV : ∀ r, dst = .v r → t.ctx.isPending (.v r) = true
  g : KeepsG s t
  f : KeepsF s t
  v : KeepsV s t
  k : KeepsK s t
  q : KeepsQ s t
  memory : KeepsMemory s t
  next : Advances s t

/-- One message is sent; requests that were refused before may have counted a loss (R253). -/
def SendsOne (s t : State) (m : Msg) : Prop :=
  t.agenda.getLast? = some m ∧ t.agenda.length = s.agenda.length + 1

/-! Jobs. -/

/-- A job of the issuing context joins the cluster's queue with FMODE and LFSR as they stand, its locks are taken,
its token register is pending, and no register or byte of memory is written (R131, R191, R246, R290). -/
structure QueuesJob (s t : State) (d : BitVec 5) (op : JobOp) (locks : List (Word × Word × Bool)) : Prop where
  job : ∃ j : Job, t.cluster.jobs = s.cluster.jobs ++ [j] ∧ j.who = me s ∧ j.token = d ∧ j.op = op
    ∧ j.mode = s.ctx.user.fmode ∧ j.seed = s.ctx.user.lfsr ∧ j.level = s.ctx.level ∧ j.started = false
    ∧ t.cluster.ranges = s.cluster.ranges ++ locks.map fun l => { owner := j.id, lo := l.1, hi := l.2.1, write := l.2.2 }
  token : d ∈ t.ctx.act.tokens ∧ (d ≠ 0 → t.ctx.isPending (.g d) = true)
  g : KeepsG s t
  f : KeepsF s t
  v : KeepsV s t
  k : KeepsK s t
  q : KeepsQ s t
  memory : KeepsMemory s t
  next : Advances s t

/-- The bytes of a copy, in copy order (R264 to R268): its length, or extents times ELEM, or G × F × U. -/
def copyBytes (fn : BitVec 3) (ctl : Word) (d : BitVec 512) : Nat :=
  match fn.toNat with
  | 1 | 2 => (d.extractLsb' 368 16).toNat * (d.extractLsb' 384 16).toNat * (d.extractLsb' 400 16).toNat
      * (d.extractLsb' 416 24).toNat
  | 3 =>
    let f := (d.extractLsb' 192 8).toNat
    ((d.extractLsb' 0 32).toNat + f - 1) / f * f * ((d.extractLsb' 96 16).toNat + 1)
  | _ => ctl.toNat % 2 ^ 38

/-- The address of byte r of element e of a pattern, its extents from the descriptor and its strides from a place on
(R133, R266). -/
def patternByte (d : BitVec 512) (base : Word) (strides e r : Nat) : Word :=
  let n0 := (d.extractLsb' 368 16).toNat
  let n1 := (d.extractLsb' 384 16).toNat
  let step (k : Nat) : Word := (d.extractLsb' (strides + 32 * k) 32).signExtend 64
  base + BitVec.ofNat 64 (e % n0) * step 0 + BitVec.ofNat 64 (e / n0 % n1) * step 1
    + BitVec.ofNat 64 (e / (n0 * n1)) * step 2 + BitVec.ofNat 64 r

/-- Source and destination address of byte i of a copy, in copy order; padding has no address in the sequence (R264 to
R268). -/
def copiedByte (fn : BitVec 3) (dst src : Word) (d : BitVec 512) (i : Nat) : Option Word × Option Word :=
  match fn.toNat with
  | 1 | 2 =>
    let elem := (d.extractLsb' 416 24).toNat
    (some (patternByte d src 0 (i / elem) (i % elem)), some (patternByte d dst 96 (i / elem) (i % elem)))
  | 3 =>
    let f := (d.extractLsb' 192 8).toNat
    let u := (d.extractLsb' 96 16).toNat + 1
    let unit := i / u
    let plane (base : Word) : Word :=
      base + BitVec.ofNat 64 (unit % f * (d.extractLsb' 128 64).toNat + unit / f * u + i % u)
    let sequence (base : Word) : Option Word :=
      if unit < (d.extractLsb' 0 32).toNat then some (base + BitVec.ofNat 64 (unit * u + i % u)) else none
    if d.getLsbD 200 then (some (plane src), sequence dst) else (sequence src, some (plane dst))
  | _ => (some (src + BitVec.ofNat 64 i), some (dst + BitVec.ofNat 64 i))

/-- The places of the bytes that a copy still has to move: the engine's translation answers them whatever memory holds, no
error stands there, sources and destinations are apart, and no bank refuses a write. -/
structure CopyPlaces (s : State) (j : Job) (bytes : Nat → Option Word × Option Word) (first last : Nat)
    (from' to' : Word → Nat) : Prop where
  source : ∀ i ea m, first ≤ i → i < last → (bytes i).1 = some ea → ∃ lay,
    engPlace { s with mem := m } j.xroot j.level ea false = ({ s with mem := m }, .ok (from' ea) lay)
  target : ∀ i ea m, first ≤ i → i < last → (bytes i).2 = some ea → ∃ lay,
    engPlace { s with mem := m } j.xroot j.level ea true = ({ s with mem := m }, .ok (to' ea) lay)
  sound : ∀ i ea, first ≤ i → i < last → (bytes i).1 = some ea → eccBad s (from' ea) 1 = false
  apart : ∀ i k a b, first ≤ i → i < last → first ≤ k → k < last → (bytes i).1 = some a → (bytes k).2 = some b →
    from' a ≠ to' b
  free : s.cluster.locks = [] ∧ s.cluster.lost = [] ∧ ∀ m ∈ s.agenda, ∀ a n, m ≠ .lockRetry a n

/-- A bank job of the issuing context joins the bank units' queue, its token register is pending, and no register
or byte of memory is written (R131, R191, R301). -/
structure QueuesBank (s t : State) (d : BitVec 5) (i : Instr) (ga gb : Word) (desc : BitVec 512) : Prop where
  job : ∃ j : BankJob, t.banks.jobs = s.banks.jobs ++ [j] ∧ j.who = me s ∧ j.token = d ∧ j.instr = i
    ∧ j.ga = ga ∧ j.gb = gb ∧ j.desc = desc ∧ j.mode = s.ctx.user.fmode ∧ j.seed = s.ctx.user.lfsr
    ∧ Msg.bankJobComplete j.id ∈ t.agenda
  token : d ∈ t.ctx.act.tokens ∧ (d ≠ 0 → t.ctx.isPending (.g d) = true)
  g : KeepsG s t
  f : KeepsF s t
  v : KeepsV s t
  k : KeepsK s t
  q : KeepsQ s t
  memory : KeepsMemory s t
  next : Advances s t

/-- A token comes to a slot that is loaded: its register takes the word and is no longer pending, and the operation
is no longer outstanding (R131). -/
structure GivesToken (t : State) (i : Fin 11) (d : BitVec 5) (w : Word) : Prop where
  value : d ≠ 0 → (t.at i).g d = w
  ready : d ≠ 0 → (t.at i).isPending (.g d) = false
  gone : d ∉ (t.at i).act.tokens

end Sys2Proof.Machine
end

