-- ==== Sys2Proof/Certificates/Slice0/Obligations.lean ====
section
/-!
DEFINITION. The statements for the provers. Each says which rules of spec/ it formalises; a clause that rests
on a choice of the model names the log entry.
-/

open Sys2Proof Sys2Proof.Machine

/-- Words written out bit by bit from the layouts of R109 and the tables of R119 to R122, one of each family,
and the instructions they stand for; and three words that are none: major 0x00, a set bit that must be zero, and
an f register above 15. -/
def Obligations.DecodeOfWrittenWords : Prop :=
  decodeWord (0b000011#6 ++ 3#5 ++ 4#5 ++ 5#5 ++ 0#6 ++ 0#5) = .ok (.add 3 4 5)
  ∧ decodeWord (0b000110#6 ++ 1#5 ++ 2#5 ++ 0xFFF8#16) = .ok (.addi 1 2 0xFFF8)
  ∧ decodeWord (0b000101#6 ++ 3#5 ++ 4#5 ++ 0#4 ++ 0#1 ++ 5#6 ++ 31#5) = .ok (.sext 3 4 0 31)
  ∧ decodeWord (0b001101#6 ++ 9#5 ++ 1#2 ++ 1#1 ++ 0#2 ++ 0x5317#16) = .ok (.movk 9 1 1 0x5317)
  ∧ decodeWord (0b010000#6 ++ 7#5 ++ 31#5 ++ 6#3 ++ 2#2 ++ 0x7D8#11) = .ok (.bbs 7 31 2 0x7D8)
  ∧ decodeWord (0b010100#6 ++ 3#4 ++ 99#10 ++ 1#2 ++ 1#2 ++ 0#2 ++ 0#6) = .ok (.rpt 3 99 1 1 0)
  ∧ decodeWord (0b000010#6 ++ 5#5 ++ 0x022#12 ++ 0#3 ++ 0#6) = .ok (.mfc 5 0x022)
  ∧ decodeWord (0b011000#6 ++ 3#5 ++ 4#5 ++ 0b0111#4 ++ 0xFFF#12) = .error (.illFormed .range)
  ∧ decodeWord (0b011000#6 ++ 3#5 ++ 4#5 ++ 0b0110#4 ++ 0xFFF#12) = .ok (.ld 3 4 6 0xFFF)
  ∧ decodeWord (0b011010#6 ++ 3#5 ++ 4#5 ++ 5#5 ++ 2#2 ++ 9#4 ++ 0#4 ++ 1#1) = .ok (.acas 3 4 5 2 1)
  ∧ decodeWord (0b100010#6 ++ 2#5 ++ 3#5 ++ 4#5 ++ 1#3 ++ 2#3 ++ 18#5) = .ok (.vcmp 2 3 4 1 2 2)
  ∧ decodeWord (0b101011#6 ++ 3#5 ++ 4#5 ++ 5#5 ++ 6#4 ++ 7#3 ++ 0#4) = .ok (.vdot 3 3 4 5 6 7)
  ∧ decodeWord (0b110111#6 ++ 1#5 ++ 2#5 ++ 3#5 ++ 1#6 ++ 4#5) = .ok (.xsnd 1 2 3 4)
  ∧ decodeWord (0b000000#6 ++ 0#26) = .error .reservedMajor
  ∧ decodeWord (0b000011#6 ++ 3#5 ++ 4#5 ++ 5#5 ++ 0#6 ++ 1#5) = .error .mustBeZero
  ∧ decodeWord (0b100100#6 ++ 1#5 ++ 2#5 ++ 16#5 ++ 0#3 ++ 2#3 ++ 1#5) = .error (.illFormed .registerClass)

/-- The decoder reads back every instruction of the opcode map from the word the encoder gives it, with every
operand at every value its encoding admits. -/
def Obligations.EncodeThenDecode : Prop :=
  ∀ (i : Instr) (w : W32), i.wellFormed = true → encode i = some w → decodeWord w = .ok i

/-- No bit of a word is ignored (R5, R124): a word that decodes is the one word of its instruction, which is
well formed and no event. -/
def Obligations.DecodeThenEncode : Prop :=
  ∀ (w : W32) (i : Instr), decodeWord w = .ok i → encode i = some w ∧ i.wellFormed = true

/-- The machine right after reset: canonical memory, and the reset values the spec states for FMODE, FFLAGS and
LFSR (R182 to R184), RPTST (R141), UPCALL (R371), XROOT.EN (R227), the breakpoints (R380), SAVEB (R368), QWGT
(R215), BELLC (R355), MIGMAX (R234) and the ports (R360); the core is stopped (R404). The other registers are
zero by the model's choice (log 2), and are not named here. -/
def Obligations.ResetState : Prop :=
  Memory.wf State.reset.mem = true
  ∧ (∀ i, (State.reset.at i).user.fmode = 0 ∧ (State.reset.at i).user.fflags = 0 ∧ (State.reset.at i).user.lfsr = 0
    ∧ (State.reset.at i).trap.rptst = 0 ∧ (State.reset.at i).user.xroot.getLsbD 0 = false
    ∧ (State.reset.at i).pend = Pend.reset ∧ (State.reset.at i).frame = none)
  ∧ (State.reset.at 0).upcall.pend = 0 ∧ (State.reset.at 0).upcall.inHandler = false
  ∧ (∀ n : Fin 4, State.reset.core.sys.bpa[n] = 0) ∧ State.reset.core.sys.saveb = 0 ∧ State.reset.core.sys.qwgt = 1
  ∧ State.reset.bell.ann = 40 ∧ State.reset.bell.next = 40 ∧ State.reset.bell.ceil = 40 ∧ State.reset.bell.state = 0
  ∧ State.reset.hw.control.migmax = 4 ∧ (∀ p : Fin 32, State.reset.hw.ports[p].state = .unlocked)
  ∧ State.reset.core.stopped = true

/-- Every step keeps the canonical form of memory: addresses strictly rising, and no entry that equals what an
unlisted address reads as (log 3). -/
def Obligations.StepKeepsMemoryCanonical : Prop :=
  ∀ s t : State, Memory.wf s.mem = true → step s = .next t → Memory.wf t.mem = true

/-- A step runs the decoded instruction. The word at a fetchable address (bits [63:15] and [1:0] zero, below
BOUND) is the four bytes of the core's TCM there, little-endian, and 0x8000 is not fetchable (R103). Where no
message comes first and the decision of R127 picks a slot without upcall, stream, error mark, stall or
breakpoint whose due word decodes to i, the step is exec of i in that slot, with its registers kept for a trap, or
the PRIV trap of a level that may not issue it (R124); around it only the decision, the LLK counts, the waits for a
queue place and the clock move. -/
def Obligations.StepRunsDecodedInstruction : Prop :=
  (∀ (s : State) (a : Word), fetchFault s a = none →
    let byte (n : Nat) : Byte := Memory.get s.mem (tcmBase s + a.toNat + n)
    fetchWord s a = byte 3 ++ byte 2 ++ byte 1 ++ byte 0 ∧ a.toNat ≤ 0x7FFC ∧ a.toNat % 4 = 0)
  ∧ (∀ (s : State) (a : Word), a.toNat ≤ 0x7FFC → a.toNat % 4 = 0 → a.toNat < s.core.sys.xbound.toNat % 2 ^ 16 →
    fetchFault s a = none)
  ∧ (∀ s : State, fetchFault s 0x8000 ≠ none)
  ∧ (∀ (s t : State) (i : Instr) (p : Pick) (credit : Bool),
    let s0 : State := { s with tick := s.tick + 1 }
    let s1 := focus (decided s0 p) p.slot
    let c := s1.ctx
    let u : Undo := { regs := c.regs, streams := [], agenda := s1.agenda, ranges := s1.cluster.ranges }
    let sk := s1.mod fun c => { c with skip := false }
    let s2 := sk.modCore fun c => { c with undo := some u }
    nextEvent s = none → running s0 = true → pick s0 = (some p, credit) → ¬(p.slot = 0 ∧ upcallDue s0 = true) →
    issuable (decided s0 p) p.slot = true → c.frame = none → c.queue.n0 = false → c.queue.d0 = false →
    c.streams = [] → c.pend.marks = [] → fetchFault s1 c.queue.q0 = none →
    decode c.longMode (fetchWord s1 c.queue.q0) = .ok i → breaks s1 = none → regStall c i = false →
    longErrorDue s1 = none → (if privFails s1 i then .next (trapPriv sk) else exec i s2) = .next t →
    t.core.stalled = false →
    step s = .next (tickClock (noteWaiters (llkStalls s0 (some p.slot) slots (llkCount s0 t p.slot)))))

/-- Delay slots (R136, R137), here in the issuing slot of a helper outside a frame. Every transfer marks the two
entries it leaves at Q0 and Q1, taken or not; RPT, CPACK and MIGRATE at a marked entry trap ILL before any
effect; an entry that is not marked issues its instruction, whatever it is; a nullified entry only shifts the
queue. A transfer from a delay slot follows R136 as from any other place. -/
def Obligations.DelaySlots : Prop :=
  (∀ (s : State) (i : Instr) (a b : BitVec 5) (nul : BitVec 2) (disp : BitVec 11) (far : BitVec 26), s.ctx.frame = none →
    i ∈ [.beq a b nul disp, .bne a b nul disp, .blt a b nul disp, .bge a b nul disp, .bltw a b nul disp,
      .bgew a b nul disp, .bbs a b nul disp, .bbc a b nul disp, .j far, .call far, .jr a, .callr a, .ret] →
    Completes i s fun t => t.ctx.queue.q0 = s.ctx.queue.q1 ∧ t.ctx.queue.q1 = s.ctx.queue.q2
      ∧ t.ctx.queue.d0 = true ∧ t.ctx.queue.d1 = true ∧ t.ctx.queue.d2 = false)
  ∧ (∀ (s : State) (i : Instr), s.core.cur ≠ 0 → s.core.undo = none → s.ctx.frame = none → breaks s = none →
    s.core.sys.dbghost.getLsbD 12 = false → longErrorDue s = none →
    let q := s.ctx.queue
    (q.n0 = true → issueDue s = .next (s.mod fun c => { c with queue := q.shift (q.q2 + 4) }))
    ∧ (q.n0 = false → fetchFault s q.q0 = none → decode s.ctx.longMode (fetchWord s q.q0) = .ok i →
      let barred := (∃ n count sd sa sb, i = .rpt n count sd sa sb) ∨ (∃ d a b, i = .cpack d a b)
        ∨ (∃ d a b, i = .migrate d a b)
      (q.d0 = true ∧ barred →
        ∃ t, issueDue s = .next t ∧ TrapsPrecisely s t 1 ((fetchWord s q.q0).zeroExtend 64))
      ∧ (q.d0 = false ∨ ¬barred → issueDue s = runInstr i (s.mod fun c => { c with skip := false }))))

/-- The register files (R110, R200, R201, R212): a read gives what was written last; g0 reads zero and k0 all
ones, and a write of either is discarded; f and q registers are sixteen. Writing one file leaves the others. -/
def Obligations.RegisterFilesReadBack : Prop :=
  ∀ (c : Ctx) (d r : BitVec 5) (m k : BitVec 3) (x : Word) (y : VReg) (z : QReg) (n : W32),
    c.g 0 = 0 ∧ c.k 0 = BitVec.allOnes 32
    ∧ (c.setG d x).g r = (if r = d ∧ r ≠ 0 then x else c.g r)
    ∧ (c.setF d x).f r = (if r.toNat % 16 = d.toNat % 16 then x else c.f r)
    ∧ (c.setV d y).v r = (if r = d then y else c.v r)
    ∧ (c.setK m n).k k = (if k = m ∧ k ≠ 0 then n else c.k k)
    ∧ (c.setQ d z).q r = (if r.toNat % 16 = d.toNat % 16 then z else c.q r)
    ∧ (c.setG d x).f r = c.f r ∧ (c.setG d x).v r = c.v r ∧ (c.setG d x).k k = c.k k ∧ (c.setG d x).q r = c.q r
    ∧ (c.setF d x).g r = c.g r ∧ (c.setV d y).g r = c.g r ∧ (c.setK m n).g r = c.g r ∧ (c.setQ d z).g r = c.g r

/-- ALU results (R156): each writes its result to g[d] and nothing else. Immediate forms (R157). -/
def Obligations.IntegerResults : Prop :=
  (∀ (s : State) (d a b c : BitVec 5),
      let A := gv s a
      let B := gv s b
      let n := B.toNat % 64
      let bool (p : Prop) [Decidable p] : Word := if p then 1 else 0
      Completes (.add d a b) s (fun t => WritesG s t d (A + B))
      ∧ Completes (.sub d a b) s (fun t => WritesG s t d (A - B))
      ∧ Completes (.and d a b) s (fun t => WritesG s t d (A &&& B))
      ∧ Completes (.or d a b) s (fun t => WritesG s t d (A ||| B))
      ∧ Completes (.xor d a b) s (fun t => WritesG s t d (A ^^^ B))
      ∧ Completes (.andn d a b) s (fun t => WritesG s t d (A &&& ~~~B))
      ∧ Completes (.orn d a b) s (fun t => WritesG s t d (A ||| ~~~B))
      ∧ Completes (.shl d a b) s (fun t => WritesG s t d (A <<< n))
      ∧ Completes (.shr d a b) s (fun t => WritesG s t d (A >>> n))
      ∧ Completes (.sar d a b) s (fun t => WritesG s t d (A.sshiftRight n))
      ∧ Completes (.rol d a b) s (fun t => WritesG s t d (A.rotateLeft n))
      ∧ Completes (.min d a b) s (fun t => WritesG s t d (if A.slt B then A else B))
      ∧ Completes (.max d a b) s (fun t => WritesG s t d (if A.slt B then B else A))
      ∧ Completes (.minw d a b) s (fun t => WritesG s t d (if A < B then A else B))
      ∧ Completes (.maxw d a b) s (fun t => WritesG s t d (if A < B then B else A))
      ∧ Completes (.slt d a b) s (fun t => WritesG s t d (bool (A.toInt < B.toInt)))
      ∧ Completes (.sltw d a b) s (fun t => WritesG s t d (bool (A < B)))
      ∧ Completes (.seq d a b) s (fun t => WritesG s t d (bool (A = B)))
      ∧ Completes (.sne d a b) s (fun t => WritesG s t d (bool (A ≠ B)))
      ∧ Completes (.cmov d a b c) s (fun t => WritesG s t d (if gv s c ≠ 0 then A else B)))
  ∧ (∀ (s : State) (d a : BitVec 5) (k : BitVec 16) (n : BitVec 6),
      let A := gv s a
      let bool (p : Prop) [Decidable p] : Word := if p then 1 else 0
      Completes (.addi d a k) s (fun t => WritesG s t d (A + k.signExtend 64))
      ∧ Completes (.andi d a k) s (fun t => WritesG s t d (A &&& k.zeroExtend 64))
      ∧ Completes (.ori d a k) s (fun t => WritesG s t d (A ||| k.zeroExtend 64))
      ∧ Completes (.xori d a k) s (fun t => WritesG s t d (A ^^^ k.zeroExtend 64))
      ∧ Completes (.shli d a n) s (fun t => WritesG s t d (A <<< n.toNat))
      ∧ Completes (.shri d a n) s (fun t => WritesG s t d (A >>> n.toNat))
      ∧ Completes (.sari d a n) s (fun t => WritesG s t d (A.sshiftRight n.toNat))
      ∧ Completes (.roli d a n) s (fun t => WritesG s t d (A.rotateLeft n.toNat))
      ∧ Completes (.slti d a k) s (fun t => WritesG s t d (bool (A.toInt < (k.signExtend 64 : Word).toInt)))
      ∧ Completes (.sltwi d a k) s (fun t => WritesG s t d (bool (A < k.signExtend 64))))

/-- Multiplication and division (R156, R158): the products by their exact integer values, the quotients and
remainders by the identity A = Q × B + R, with the corners that R158 fixes. -/
def Obligations.MultiplyAndDivide : Prop :=
  ∀ (s : State) (d a b : BitVec 5),
    let A := gv s a
    let B := gv s b
    Completes (.mul d a b) s (fun t => WritesG s t d (BitVec.ofNat 64 (A.toNat * B.toNat)))
    ∧ Completes (.mulh d a b) s (fun t => WritesG s t d (BitVec.ofInt 64 ((A.toInt * B.toInt) >>> 64)))
    ∧ Completes (.mulhw d a b) s (fun t => WritesG s t d (BitVec.ofNat 64 ((A.toNat * B.toNat) >>> 64)))
    ∧ Completes (.mulw d a b) s (fun t =>
        WritesG s t d ((A.truncate 32 : W32).zeroExtend 64 * (B.truncate 32 : W32).zeroExtend 64))
    ∧ (∃ Q R : Word,
        Completes (.div d a b) s (fun t => WritesG s t d Q)
        ∧ Completes (.rem d a b) s (fun t => WritesG s t d R)
        ∧ (B = 0 → Q = 0xFFFFFFFFFFFFFFFF ∧ R = A)
        ∧ (B ≠ 0 → A = Q * B + R ∧ R.toInt.natAbs < B.toInt.natAbs ∧ (R = 0 ∨ R.msb = A.msb))
        ∧ (A = 0x8000000000000000 ∧ B = 0xFFFFFFFFFFFFFFFF → Q = A ∧ R = 0))
    ∧ (∃ Q R : Word,
        Completes (.divw d a b) s (fun t => WritesG s t d Q)
        ∧ Completes (.remw d a b) s (fun t => WritesG s t d R)
        ∧ (B = 0 → Q = 0xFFFFFFFFFFFFFFFF ∧ R = A)
        ∧ (B ≠ 0 → A.toNat = Q.toNat * B.toNat + R.toNat ∧ R < B))

/-- Counts, reversals and fields (R159): each result bit by bit. MOVK, LEA and the ADR forms (R160, R162): MOVK
by bits, LEA's sum, SELF and CLOAD their registers, WIDF its field of WID by the widths of WIDX (R33), and
GCOORD the one-core scope of a location (R10), or all ones for a word that is none. -/
def Obligations.BitAndAddressForms : Prop :=
  (∀ (s : State) (d a b : BitVec 5) (h : BitVec 1) (n : BitVec 5),
      let A := gv s a
      let B := gv s b
      let p := B.toNat % 64
      let len := min (B.toNat / 256 % 64 + 1) (64 - p)
      let w := 32 * h.toNat + n.toNat + 1
      (∃ x : Word, Completes (.clz d a) s (fun t => WritesG s t d x)
        ∧ x.toNat ≤ 64 ∧ (∀ i, i < x.toNat → A.getLsbD (63 - i) = false)
        ∧ (x.toNat < 64 → A.getLsbD (63 - x.toNat) = true))
      ∧ (∃ x : Word, Completes (.ctz d a) s (fun t => WritesG s t d x)
        ∧ x.toNat ≤ 64 ∧ (∀ i, i < x.toNat → A.getLsbD i = false)
        ∧ (x.toNat < 64 → A.getLsbD x.toNat = true))
      ∧ Completes (.popc d a) s (fun t =>
          WritesG s t d (BitVec.ofNat 64 ((List.range 64).countP fun i => A.getLsbD i)))
      ∧ (∃ x : Word, Completes (.brev d a) s (fun t => WritesG s t d x)
        ∧ ∀ i, i < 64 → x.getLsbD i = A.getLsbD (63 - i))
      ∧ (∃ x : Word, Completes (.bswap d a) s (fun t => WritesG s t d x)
        ∧ ∀ i, i < 8 → x.extractLsb' (8 * i) 8 = A.extractLsb' (8 * (7 - i)) 8)
      ∧ Completes (.sext d a h n) s (fun t => WritesG s t d ((A.setWidth w).signExtend 64))
      ∧ Completes (.zext d a h n) s (fun t => WritesG s t d ((A.setWidth w).setWidth 64))
      ∧ (∃ x : Word, Completes (.bext d a b) s (fun t => WritesG s t d x)
        ∧ ∀ i, x.getLsbD i = (decide (i < len) && A.getLsbD (p + i)))
      ∧ (∃ x : Word, Completes (.bins d a b) s (fun t => WritesG s t d x)
        ∧ ∀ i, i < 64 → x.getLsbD i =
            if p ≤ i ∧ i < p + len then A.getLsbD (i - p) else (gv s d).getLsbD i))
  ∧ (∀ (s : State) (d a b : BitVec 5) (pos : BitVec 2) (keep : BitVec 1) (k : BitVec 16) (sc : BitVec 2)
      (disp : BitVec 9) (f : BitVec 5),
      let lo := 16 * pos.toNat
      let l := (gv s a).toNat
      let dev := l / 2 ^ 20 % 2 ^ 12
      let die := l / 2 ^ 17 % 8
      let cl := l / 2 ^ 10 % 128
      let x := 16 * (die % 4) + 4 * (cl % 4) + l / 2 ^ 7 % 8 % 4
      let y := 64 * (die / 4) + 2 * (cl / 4) + l / 2 ^ 7 % 8 / 4
      (∃ x : Word, Completes (.movk d pos keep k) s (fun t => WritesG s t d x)
        ∧ ∀ i, i < 64 → x.getLsbD i =
            if lo ≤ i ∧ i < lo + 16 then k.getLsbD (i - lo) else keep = 1 ∧ (gv s d).getLsbD i)
      ∧ Completes (.lea d a b sc disp) s (fun t =>
          WritesG s t d (gv s a + (gv s b <<< sc.toNat) + disp.signExtend 64))
      ∧ Completes (.self d) s (fun t =>
          WritesG s t d ((BitVec.ofNat 4 s.core.cur.val ++ s.loc.dev ++ s.loc.die ++ s.loc.cluster ++ s.loc.core
            ++ 0#7).zeroExtend 64))
      ∧ Completes (.cload d) s (fun t => WritesG s t d s.cluster.clustld)
      ∧ Completes (.widf d f) s (fun t => WritesG s t d
          (if f.toNat < s.ctx.user.widx.toNat / 2 ^ 36 % 8 then
            BitVec.ofNat 64 (s.ctx.user.wid.toNat
              / 2 ^ ((List.range f.toNat).map fun j => s.ctx.user.widx.toNat / 2 ^ (6 * j) % 64).sum
              % 2 ^ (s.ctx.user.widx.toNat / 2 ^ (6 * f.toNat) % 64))
          else 0))
      ∧ Completes (.gcoord d a) s (fun t => WritesG s t d
          (if l / 2 ^ 32 ≠ 0 ∨ l % 128 ≠ 0 ∨ dev = s.loc.dev.toNat ∧ presentClusters s.grade ≤ cl then
            BitVec.allOnes 64
          else BitVec.ofNat 64 (dev * 2 ^ 44 + dev * 2 ^ 32 + y * 2 ^ 24 + x * 2 ^ 16 + y * 2 ^ 8 + x))))

/-- The eight conditional branches (R113, R136, R163): a branch writes no register, and its queue follows R136
with its condition, its target and its nullification. The jumps (R136, R163): always taken, no nullification;
CALL and CALLR write g31 := A + 12 and nothing else, and CALLR jumps to the value g[a] had before. -/
def Obligations.ControlTransfers : Prop :=
  (∀ (s : State) (a b : BitVec 5) (nul : BitVec 2) (disp : BitVec 11), s.ctx.frame = none →
      let A := gv s a
      let B := gv s b
      let target := s.ctx.queue.q0 + 4 * disp.signExtend 64
      let goes (i : Instr) (taken : Bool) : Prop :=
        Completes i s fun t => Transfers s t taken target nul ∧ KeepsRegisters s t ∧ KeepsRest s t
      goes (.beq a b nul disp) (A = B)
      ∧ goes (.bne a b nul disp) (A ≠ B)
      ∧ goes (.blt a b nul disp) (A.toInt < B.toInt)
      ∧ goes (.bge a b nul disp) (¬ A.toInt < B.toInt)
      ∧ goes (.bltw a b nul disp) (A < B)
      ∧ goes (.bgew a b nul disp) (¬ A < B)
      ∧ goes (.bbs a b nul disp) (A.getLsbD b.toNat)
      ∧ goes (.bbc a b nul disp) (!A.getLsbD b.toNat))
  ∧ (∀ (s : State) (a : BitVec 5) (disp : BitVec 26), s.ctx.frame = none →
      let target := s.ctx.queue.q0 + 4 * disp.signExtend 64
      let link := s.ctx.queue.q0 + 12
      Completes (.j disp) s (fun t => Transfers s t true target 0 ∧ KeepsRegisters s t ∧ KeepsRest s t)
      ∧ Completes (.call disp) s (fun t => Transfers s t true target 0 ∧ OnlyG s t 31 link)
      ∧ Completes (.jr a) s (fun t => Transfers s t true (gv s a) 0 ∧ KeepsRegisters s t ∧ KeepsRest s t)
      ∧ Completes (.callr a) s (fun t => Transfers s t true (gv s a) 0 ∧ OnlyG s t 31 link)
      ∧ Completes .ret s (fun t => Transfers s t true (gv s 31) 0 ∧ KeepsRegisters s t ∧ KeepsRest s t))

/-- RPT (R139, R140, R165): where the capture meets no fetch check and no word that a frame may not hold, the
frame opens at the word after RPT, at replay 0 and slot 0, and no register is written; a word that a frame may not hold in
some replay traps ILL with its replay and slot in RPTST, and the staggered word in TVAL (the model's choice, log 30). The
body of a frame: its due slot issues the captured word with the d, a and b fields raised by the replay times their staggers,
modulo 32, and immediates, shift amounts, masks, types and the c field as captured. A slot that is done is followed by the
next slot, the last slot by the next replay, and the last replay by the address after the frame, with every flag clear. -/
def Obligations.RepeatOpensItsFrame : Prop :=
  (∀ (s : State) (n : BitVec 4) (count : BitVec 10) (sd sa sb : BitVec 2),
    s.ctx.frame = none →
    (∀ words, capture s s.ctx.longMode (rptFrame s n count sd sa sb) = .ok words →
      Completes (.rpt n count sd sa sb) s fun t =>
        t.ctx.frame = some
          { words := words, base := s.ctx.queue.q0 + 4, nm1 := n, cm1 := count, sd := sd, sa := sa, sb := sb
            iter := 0, slot := 0, again := false, bad := none }
        ∧ words.length = n.toNat + 1 ∧ KeepsRegisters s t ∧ KeepsRest s t)
    ∧ (∀ iter slot w, capture s s.ctx.longMode (rptFrame s n count sd sa sb) = .ill iter slot w →
      s.core.cur ≠ 0 → s.core.undo = none →
      Completes (.rpt n count sd sa sb) s fun t => TrapsPrecisely s t 1 (w.zeroExtend 64)
        ∧ t.ctx.trap.rptst.getLsbD 63 = false ∧ t.ctx.trap.rptst.toNat % 2 ^ 14 = iter * 2 ^ 4 + slot))
  ∧ (∀ (s : State) (f : RepFrame) (w : W32) (p m t : BitVec 3) (d a b c : BitVec 5) (cf : BitVec 4) (k : BitVec 16)
      (n : BitVec 6), s.ctx.frame = some f → f.again = false → f.words[f.slot.toNat]? = some w →
      longErrorDue s = none → breaks s = none →
      let D := d + BitVec.ofNat 5 (f.iter.toNat * f.sd.toNat)
      let A := a + BitVec.ofNat 5 (f.iter.toNat * f.sa.toNat)
      let B := b + BitVec.ofNat 5 (f.iter.toNat * f.sb.toNat)
      let issues (captured issued : Instr) : Prop :=
        decodeWord w = .ok captured → issueDue s = runInstr issued (s.mod fun c => { c with skip := false })
      issues (.add d a b) (.add D A B) ∧ issues (.mulh d a b) (.mulh D A B) ∧ issues (.cmov d a b c) (.cmov D A B c)
      ∧ issues (.popc d a) (.popc D A) ∧ issues (.addi d a k) (.addi D A k) ∧ issues (.shli d a n) (.shli D A n)
      ∧ issues (.vadd d a b m t) (.vadd D A B m t) ∧ issues (.vfma d a b m t) (.vfma D A B m t)
      ∧ issues (.vdot p d a b cf m) (.vdot p D A B cf m)
      ∧ (s.ctx.longMode = true → D.toNat < 16 → A.toNat < 16 → B.toNat < 16 →
        issues (.qfma d a b t) (.qfma D A B t) ∧ issues (.qadd d a b t) (.qadd D A B t)))
  ∧ (∀ (s : State) (f : RepFrame) (d a b : BitVec 5), s.ctx.frame = some f →
      (f.slot.toNat < f.nm1.toNat → Completes (.add d a b) s fun t =>
        t.ctx.frame = some { f with slot := f.slot + 1, again := false })
      ∧ (f.slot = f.nm1 → f.iter.toNat < f.cm1.toNat → Completes (.add d a b) s fun t =>
        t.ctx.frame = some { f with slot := 0, iter := f.iter + 1, again := false })
      ∧ (f.slot = f.nm1 → f.iter = f.cm1 → Completes (.add d a b) s fun t =>
        t.ctx.frame = none ∧ t.ctx.queue = Queue.at (f.base + BitVec.ofNat 64 (4 * (f.nm1.toNat + 1)))))

/-- NOP (R150) changes nothing but the queue. FENCEI (R108, R153), no access of the context that writes the core's
TCM being out, only advances; that entries of the LVU queue do not count is the model's choice (log 71). YIELD (R150)
also passes its turn. IDLE (R150), at C and S level, stops issue unless one of its conditions holds; nothing but its
context's IDLE and the core's message mark changes. HALT (R138, R150), at S level: every slot of the core stops,
and no register of any context is written; with a save area that can be written, the machine check flag is clear and memory
becomes that of the frames and the header of R368, written after the HALT and after every LLK lock is released, and
without one the core stops by a machine check (R368) and no byte of memory is written. -/
def Obligations.SystemInstructionsAdvance : Prop :=
  (∀ s : State,
      Completes .nop s (OnlyAdvances s)
      ∧ ((∀ m ∈ s.agenda, ∀ x : Access, accessOf m = some x → x.who = me s → x.kind = .load ∨ inOwnTcm s x.pa = false) →
          Completes .fencei s (OnlyAdvances s))
      ∧ Completes .yield s (fun t => OnlyAdvances s t ∧ t.ctx.yielded = true)
      ∧ (s.ctx.level ≠ .h →
          Completes .idle s fun t => KeepsRegisters s t ∧ KeepsRest s t ∧ Advances s t
            ∧ (t.ctx.idle = true ↔ (s.at 0).upcall.pend = 0 ∧ s.core.events = [] ∧ s.core.itemQ = []
                ∧ s.core.contQ = [] ∧ s.core.spill = [] ∧ s.core.sysMsg = false)))
  ∧ (∀ s : State, s.ctx.level = .s →
      let saved := (writeFrames (slots.foldl endLlk (retire s)) slots).bind fun r => writeHeader r false
      Completes .halt s fun t => t.core.stopped = true
        ∧ (∀ i, (t.at i).regs = (s.at i).regs ∧ (t.at i).trap = (s.at i).trap ∧ (t.at i).user = (s.at i).user
          ∧ (t.at i).llk = none)
        ∧ Advances s t ∧ (∀ r, saved = some r → t.core.machineCheck = false ∧ t.mem = r.mem)
        ∧ (saved = none → t.core.machineCheck = true ∧ KeepsMemory s t))

/-- TRAP and BRK of a helper (R151, R366, R372), no debugger being attached: the record holds the queue and the
flags after the instruction, and the code with the instruction's own address; the helper is TRAPPED, its PEND
bit is set in the control context, and no register of it is written. TRAP and BRK of a control context (R151,
R374), no debugger being attached: slot 0 enters the system level. The K registers take the trap registers as
they stood, the record holds the queue after the instruction and the level C, the level becomes S, and the queue
starts at SVEC; no register and no memory is written. -/
def Obligations.TrapAndBreakInstructions : Prop :=
  (∀ (s : State) (code : BitVec 15), s.ctx.frame = none → s.core.cur ≠ 0 → s.core.sys.dbghost.getLsbD 12 = false →
      let q := s.ctx.queue
      let goes (i : Instr) (cause : Nat) : Prop :=
        Completes i s fun t => t.ctx.slotState = .trapped
          ∧ t.ctx.trap.epc0 = q.q1 ∧ t.ctx.trap.epc1 = q.q2 ∧ t.ctx.trap.epc2 = q.q2 + 4
          ∧ t.ctx.trap.cause = BitVec.ofNat 64 cause
          ∧ t.ctx.trap.rptst.extractLsb' 57 7 = 0#2 ++ (BitVec.ofBool q.n2 ++ BitVec.ofBool q.n1) ++ 0#1
            ++ (BitVec.ofBool q.d2 ++ BitVec.ofBool q.d1)
          ∧ t.ctx.trap.tval = BitVec.ofNat 64 (q.q0.toNat % 2 ^ 15 * 2 ^ 32 + code.toNat)
          ∧ (t.at 0).upcall.pend = (s.at 0).upcall.pend ||| BitVec.twoPow 10 (s.core.cur.val - 1)
          ∧ t.ctx.regs = s.ctx.regs ∧ t.ctx.user = s.ctx.user
      goes (.trap code) 23 ∧ goes (.brk code) 22)
  ∧ (∀ (s : State) (code : BitVec 15), s.ctx.frame = none → s.core.cur = 0 → s.ctx.level = .c →
      s.ctx.xch.inph = false → s.core.sys.dbghost.getLsbD 12 = false →
      let q := s.ctx.queue
      let v := s.core.sys.svec
      let goes (i : Instr) (cause : Nat) : Prop :=
        Completes i s fun t => t.ctx.level = .s ∧ t.ctx.slotState = .ready
          ∧ t.ctx.queue = Queue.at v
          ∧ t.ctx.trap.epc0 = q.q1 ∧ t.ctx.trap.epc1 = q.q2 ∧ t.ctx.trap.epc2 = q.q2 + 4
          ∧ t.ctx.trap.cause = BitVec.ofNat 64 (2 ^ 40 + cause)
          ∧ t.ctx.trap.rptst.extractLsb' 57 7 = 0#2 ++ (BitVec.ofBool q.n2 ++ BitVec.ofBool q.n1) ++ 0#1
            ++ (BitVec.ofBool q.d2 ++ BitVec.ofBool q.d1)
          ∧ t.ctx.trap.tval = BitVec.ofNat 64 (q.q0.toNat % 2 ^ 15 * 2 ^ 32 + code.toNat)
          ∧ t.core.sys.kepc0 = s.ctx.trap.epc0 ∧ t.core.sys.kepc1 = s.ctx.trap.epc1
          ∧ t.core.sys.kepc2 = s.ctx.trap.epc2 ∧ t.core.sys.kcause = s.ctx.trap.cause
          ∧ t.core.sys.ktval = s.ctx.trap.tval ∧ t.core.sys.krptst = s.ctx.trap.rptst
          ∧ KeepsRegisters s t ∧ KeepsMemory s t ∧ (∀ i, i ≠ 0 → t.at i = s.at i)
      goes (.trap code) 23 ∧ goes (.brk code) 22)

/-- ERET (R152, R373, R375): the queue from EPC0 to EPC2 and the flags from RPTST, or, where RPTST.ACTIVE is set, the repeat
frame at its replay and slot; the level comes from the record. At C level IN-HANDLER, FREE and RESUME are cleared with the
PEND bits they name; a slot of FREE that holds no obligation becomes FREE, and a RESUME bit of a slot that is not TRAPPED
traps PROT with nothing done. At S level the K registers come back, their reserved bits as zero (R5, R141, R366). -/
def Obligations.ReturnFromException : Prop :=
  ∀ s : State, s.core.cur = 0 →
    let r := s.ctx.trap
    let u := s.ctx.upcall
    let lands (t : State) : Prop :=
      t.ctx.level = levelOf (r.cause.toNat / 2 ^ 40 % 4) ∧ KeepsRegisters s t
      ∧ (r.rptst.getLsbD 63 = false →
        t.ctx.queue = { q0 := r.epc0, q1 := r.epc1, q2 := r.epc2
                        n0 := r.rptst.getLsbD 60, n1 := r.rptst.getLsbD 61, n2 := r.rptst.getLsbD 62
                        d0 := r.rptst.getLsbD 57, d1 := r.rptst.getLsbD 58, d2 := r.rptst.getLsbD 59 }
        ∧ t.ctx.frame = none)
      ∧ (r.rptst.getLsbD 63 = true → ∃ f, t.ctx.frame = some f
        ∧ f.base = BitVec.ofNat 64 (r.rptst.toNat / 2 ^ 34 % 2 ^ 13 * 4) ∧ f.nm1.toNat = r.rptst.toNat / 2 ^ 30 % 16
        ∧ f.cm1.toNat = r.rptst.toNat / 2 ^ 20 % 1024 ∧ f.sd.toNat = r.rptst.toNat / 2 ^ 18 % 4
        ∧ f.sa.toNat = r.rptst.toNat / 2 ^ 16 % 4 ∧ f.sb.toNat = r.rptst.toNat / 2 ^ 14 % 4
        ∧ f.iter.toNat = r.rptst.toNat / 2 ^ 4 % 1024 ∧ f.slot.toNat = r.rptst.toNat % 16)
    let back (t : State) : Prop := lands t ∧ KeepsMemory s t ∧ (∀ i, i ≠ 0 → t.at i = s.at i)
    (s.ctx.level = .c → u.resume = 0 →
      (u.free = 0 → Completes .eret s fun t => back t ∧ t.ctx.upcall.inHandler = false
        ∧ t.ctx.upcall.pend = u.pend ∧ t.core.sys = s.core.sys)
      ∧ (∀ i : Fin 11, i ≠ 0 → u.free = BitVec.twoPow 10 (i.val - 1) →
        ((s.at i).slotState = .trapped ∨ (s.at i).slotState = .unsettled) → oblsOf s i = [] →
        Completes .eret s fun t => lands t ∧ KeepsMemory s t ∧ (t.at i).slotState = .free ∧ t.ctx.upcall.inHandler = false
          ∧ t.ctx.upcall.free = 0 ∧ t.ctx.upcall.pend = u.pend &&& ~~~ u.free ∧ t.core.sys = s.core.sys))
    ∧ (∀ i : Fin 11, s.ctx.level = .c → i ≠ 0 → u.resume.getLsbD (i.val - 1) = true → (s.at i).slotState ≠ .trapped →
      s.core.undo = none → s.ctx.frame = none → Completes .eret s fun t => t.ctx.level = .s
        ∧ t.ctx.trap.cause.toNat % 256 = 6 ∧ t.ctx.trap.epc0 = s.ctx.queue.q0 ∧ KeepsRegisters s t ∧ KeepsMemory s t)
    ∧ (s.ctx.level = .s →
      Completes .eret s fun t => back t
        ∧ t.ctx.trap.epc0 = s.core.sys.kepc0 ∧ t.ctx.trap.epc1 = s.core.sys.kepc1
        ∧ t.ctx.trap.epc2 = s.core.sys.kepc2 ∧ t.ctx.trap.cause = keepBits s.core.sys.kcause causeBits
        ∧ t.ctx.trap.tval = s.core.sys.ktval ∧ t.ctx.trap.rptst = keepBits s.core.sys.krptst rptstBits)

/-- The five CR forms (R154, R155), where the level may use the register and the value keeps its map: MFC reads;
MTC writes; MXC, MSET and MCLR write and give the old value to g[N]. A register that is written reads as written
(LFSR keeps bits [31:0]; UPCALL keeps its PEND and EVT, and BELLC its read-only fields, so they are not named
here), and every other control register reads as before. -/
def Obligations.ControlRegisterForms : Prop :=
  ∀ (s : State) (g : BitVec 5) (n : BitVec 12), controlRegisters.contains n.toNat = true →
    let old := cregValue s n
    let x := gv s g
    let swap (i : Instr) (v : Word) : Prop :=
      cregReadable n s.ctx.level = true → cregWritable n s.ctx.level = true → cregAllows s n v = true →
      Completes i s fun t => SetsG s t g old ∧ KeepsF s t ∧ KeepsV s t ∧ KeepsK s t ∧ KeepsQ s t
        ∧ KeepsMemory s t ∧ Advances s t ∧ (∀ m, m ≠ n → cregValue t m = cregValue s m)
        ∧ (n ≠ 0x110 ∧ n ≠ 0x041 → cregValue t n = if n = 0x003 then v &&& 0xFFFFFFFF else v)
    (cregReadable n s.ctx.level = true → Completes (.mfc g n) s fun t => WritesG s t g old)
    ∧ (cregWritable n s.ctx.level = true → cregAllows s n x = true →
        Completes (.mtc g n) s fun t => KeepsG s t ∧ KeepsF s t ∧ KeepsV s t ∧ KeepsK s t ∧ KeepsQ s t
          ∧ KeepsMemory s t ∧ Advances s t ∧ (∀ m, m ≠ n → cregValue t m = cregValue s m)
          ∧ (n ≠ 0x110 ∧ n ≠ 0x041 → cregValue t n = if n = 0x003 then x &&& 0xFFFFFFFF else x))
    ∧ swap (.mxc g n) x ∧ swap (.mset g n) (old ||| x) ∧ swap (.mclr g n) (old &&& ~~~x)

/-- The traps of fetch and decode (R104, R124, R365, R366) of a helper: FETCH_CHECK takes the cause of the
failing check with the address in TVAL, and an illegal word takes ILL with the word; the queue saved is the one
before the instruction. Privilege (R149, R155, R365): in a helper, HALT, IDLE, ERET and a write of a control
register that H level may not write take PRIV, with the instruction word in TVAL and the queue before the
instruction; nothing of their effect happens. Address checks (R172): a misaligned LD, ST, VLD, VST or atomic of
a helper traps ALIGN precisely, with the effective address in TVAL; an address that no aperture holds traps
APERTURE. A wait whose object's rank is not below MINHELD traps RANK, and so does a DEQ by a context that owes a RELEASE of
the same queue's SPACE (R319; log 63); OSIG and OREL of an obligation that the context does not hold trap PROT (R53, R278);
all name the handle in TVAL. In a helper a read of UPCALL gives zero, and a write of it faults ILL with the value (R371;
the model's reading, log 79). -/
def Obligations.PreciseTraps : Prop :=
  (∀ s : State, s.core.cur ≠ 0 → s.core.undo = none → s.ctx.frame = none → s.core.sys.dbghost.getLsbD 12 = false →
      (∀ c, fetchFault s s.ctx.queue.q0 = some c → Completes .fetchCheck s fun t => TrapsPrecisely s t c.toNat s.ctx.queue.q0)
      ∧ (Completes .illegalInstructionWord s fun t =>
          TrapsPrecisely s t 1 ((fetchWord s s.ctx.queue.q0).zeroExtend 64)))
  ∧ (∀ (s : State) (g : BitVec 5) (n : BitVec 12), s.ctx.level = .h → s.core.cur ≠ 0 → s.core.undo = none →
      s.ctx.frame = none → s.core.sys.dbghost.getLsbD 12 = false →
      let traps (i : Instr) : Prop :=
        Completes i s fun t => t.ctx.slotState = .trapped ∧ t.ctx.trap.cause = 2
          ∧ t.ctx.trap.tval = (fetchWord s s.ctx.queue.q0).zeroExtend 64
          ∧ t.ctx.trap.epc0 = s.ctx.queue.q0 ∧ t.ctx.trap.epc1 = s.ctx.queue.q1 ∧ t.ctx.trap.epc2 = s.ctx.queue.q2
          ∧ t.ctx.regs = s.ctx.regs ∧ t.ctx.user = s.ctx.user ∧ t.core.sys = s.core.sys
      traps .halt ∧ traps .idle ∧ traps .eret
      ∧ (cregWritable n .h = false → traps (.mtc g n))
      ∧ (cregReadable n .h = false → traps (.mfc g n))
      ∧ Completes (.mfc g 0x110) s (fun t => WritesG s t g 0)
      ∧ Completes (.mtc g 0x110) s fun t => TrapsPrecisely s t 1 (gv s g))
  ∧ (∀ (s : State) (d a b : BitVec 5) (w : BitVec 4) (z : BitVec 2) (disp : BitVec 12) (vdisp : BitVec 11)
      (ord : BitVec 2) (az : BitVec 1), s.core.cur ≠ 0 → s.core.undo = none → s.ctx.frame = none →
      s.ctx.level = .h →
      let lz : Nat := 2 ^ (w.toNat % 4)
      let lea := gv s a + disp.signExtend 64 * BitVec.ofNat 64 lz
      let n : Nat := 2 ^ z.toNat
      let ea := gv s a + disp.signExtend 64 * BitVec.ofNat 64 n
      let vea := gv s a + vdisp.signExtend 64 * 32
      let an : Nat := if az = 1 then 8 else 4
      (lea.toNat % lz ≠ 0 → Completes (.ld d a w disp) s fun t => TrapsPrecisely s t 3 lea)
      ∧ (ea.toNat % n ≠ 0 → Completes (.st b a 0 z disp) s fun t => TrapsPrecisely s t 3 ea)
      ∧ (vea.toNat % 32 ≠ 0 → Completes (.vld d a vdisp) s (fun t => TrapsPrecisely s t 3 vea)
          ∧ Completes (.vst b a vdisp) s fun t => TrapsPrecisely s t 3 vea)
      ∧ ((gv s a).toNat % an ≠ 0 → Completes (.aadd d a b ord az) s fun t => TrapsPrecisely s t 3 (gv s a))
      ∧ (lea.toNat % lz = 0 → 0x11 ≤ lea.toNat / 2 ^ 56 → lea.toNat / 2 ^ 56 < 0xF0 →
          Completes (.ld d a w disp) s fun t => TrapsPrecisely s t 4 lea))
  ∧ (∀ (s : State) (d a : BitVec 5), s.core.cur ≠ 0 → s.core.undo = none → s.ctx.frame = none →
      s.core.sys.dbghost.getLsbD 12 = false →
      let h := gv s a
      (minHeld s s.core.cur ≤ rankOf h →
        Completes (.wait d a) s (fun t => TrapsPrecisely s t 7 h) ∧ Completes (.deq d a) s (fun t => TrapsPrecisely s t 7 h))
      ∧ (owesSpaceOf s s.core.cur h = true → Completes (.deq d a) s fun t => TrapsPrecisely s t 7 h)
      ∧ (holds s s.core.cur h .signal = false → holds s s.core.cur h .arrive = false →
        Completes (.osig a) s fun t => TrapsPrecisely s t 6 h)
      ∧ (holds s s.core.cur h .release = false → Completes (.orel a) s fun t => TrapsPrecisely s t 6 h))

/-- HSTART (R79, R167) in the control context, no other item holding the cluster. With c = 0 the item at the
head of the queue (granularity 0, one slot) starts in the lowest FREE helper slot, with its argument in g1, and
its SIGNAL joins the Reeve, unless its kernel would overlay one that runs (the model's choice, log 22); an empty queue gives
status 2. With c naming a running slot of the item, a further
activity starts with g1 = g[b] at pc = g[a]. CRESUME and HSTAT (R73, R86, R168, R170) in the control context. An
empty continuation queue gives status 2; a record that is not VALID, in the queue or in memory, gives status 3;
a valid record without obligations, whose launch context and code are here, starts in the slot for its item, its
entry leaves the queue, and a register that is not live reads zero. HSTAT gives the code of the slot's state,
and 0 for a number above 10. -/
def Obligations.HelpersStartAndResume : Prop :=
  (∀ (s : State) (d a b c : BitVec 5) (i : Fin 11), s.ctx.level ≠ .h → s.core.cur = 0 → clusterHolder s = none →
      (∀ (it : Item) (rest : List Item), s.core.itemQ = it :: rest → it.gran = 0 → it.slots ≤ 1 →
        helperSlots.find? (freeSlotAt s) = some i → s.core.reeve = [] → s.core.spilled = [] →
        textBusy s it.lref = false →
        Completes (.hstart d a b 0) s fun t =>
          SetsG s t d (BitVec.ofNat 64 (i.val * 256)) ∧ t.core.itemQ = rest
          ∧ (t.at i).slotState = .ready ∧ (t.at i).level = .h ∧ (t.at i).queue = Queue.at it.pc
          ∧ (t.at i).g 1 = it.arg ∧ (t.at i).user.wid = it.wid ∧ (t.at i).user.xroot = it.xroot
          ∧ (t.at i).act.compl = it.compl ∧ owes t i it.compl .signal = 1 ∧ Advances s t
          ∧ (Memory.wf s.mem = true → ∀ x, x < tcmBase s ∨ tcmBase s + 2 ^ 15 ≤ x →
              Memory.get t.mem x = Memory.get s.mem x)
          ∧ ((∀ l, launchCtxOf s it.lref = some l → s.core.resident.contains (l.objid, l.kidx) = true) → KeepsMemory s t))
      ∧ (s.core.itemQ = [] → Completes (.hstart d a b 0) s fun t => WritesG s t d 2)
      ∧ (∀ p : Fin 11, c ≠ 0 → c.toNat = p.val → (s.at p).slotState ≠ .free →
        slotForItem s (s.at p).act.item = some i → i ≠ p →
        Completes (.hstart d a b c) s fun t =>
          SetsG s t d (BitVec.ofNat 64 (i.val * 256))
          ∧ (t.at i).slotState = .ready ∧ (t.at i).level = .h ∧ (t.at i).queue = Queue.at (gv s a)
          ∧ (t.at i).g 1 = gv s b ∧ (t.at i).user.wid = (s.at p).user.wid
          ∧ (t.at i).act.item = (s.at p).act.item ∧ (t.at p).act.window = none
          ∧ KeepsMemory s t ∧ Advances s t))
  ∧ (∀ (s : State) (d a : BitVec 5), s.ctx.level ≠ .h → s.core.cur = 0 →
      (s.core.contQ = [] → Completes (.cresume d 0) s fun t => WritesG s t d 2)
      ∧ (∀ (r : BitVec 1536) (rest : List (BitVec 1536)), s.core.contQ = r :: rest →
        (r.getLsbD 1535 = false → Completes (.cresume d 0) s fun t => WritesG s t d 3)
        ∧ (∀ (i : Fin 11) (l : LaunchCtx), r.getLsbD 1535 = true → clusterHolder s = none →
          slotForRecord s { lref := BitVec.ofNat 32 (nfld r.toNat 1448 32), wid := BitVec.ofNat 64 (nfld r.toNat 1384 64) } = some i →
          launchCtxOf s (BitVec.ofNat 32 (nfld r.toNat 1448 32)) = some l →
          s.core.resident.contains (l.objid, l.kidx) = true →
          nfld r.toNat 1325 3 = 0 → nfld r.toNat 1480 49 = 0 →
          Completes (.cresume d 0) s fun t =>
            SetsG s t d (BitVec.ofNat 64 (i.val * 256)) ∧ t.core.contQ = rest
            ∧ (t.at i).slotState = .ready ∧ (t.at i).level = .h
            ∧ (t.at i).queue = Queue.at (BitVec.ofNat 64 (4 * nfld r.toNat 1312 13))
            ∧ (t.at i).user.wid = BitVec.ofNat 64 (nfld r.toNat 1384 64) ∧ (t.at i).user.xroot = l.xroot
            ∧ (∀ n : BitVec 5, r.getLsbD (1280 + n.toNat) = false → (t.at i).g n = 0)
            ∧ KeepsMemory s t ∧ Advances s t))
      ∧ (∀ (s1 s2 : State) (pas swap : List Nat), a ≠ 0 → (gv s a).toNat % 64 = 0 → accessesOut s (me s) = false →
        checkSpan .read 64 3 s (gv s a) = .ok s1 pas → checkSpan .atomic 8 1 s1 (gv s a + 184) = .ok s2 swap →
        (natLE (readSpan s2 64 pas)).testBit 1535 = false →
        Completes (.cresume d a) s fun t => SetsG s t d 3 ∧ KeepsMemory s t ∧ Advances s t)
      ∧ Completes (.hstat d a) s fun t =>
          ∃ x, WritesG s t d x ∧ (10 < a.toNat → x = 0)
            ∧ (∀ i : Fin 11, a.toNat = i.val →
                ((s.at i).slotState = .free → x = 0) ∧ ((s.at i).slotState = .waiting → x = 2)
                ∧ ((s.at i).slotState = .trapped → x = 3) ∧ ((s.at i).slotState = .unsettled → x = 4)
                ∧ ((s.at i).slotState = .held → x = 5)
                ∧ ((s.at i).slotState = .ready → x = if dueWaits s i then 2 else 1)))

/-- HEXIT (R64, R82, R168) with no register pending, its accesses and LVU entries past: a helper whose one obligation
is the SIGNAL on its completion object discharges it and becomes FREE, and one that holds none becomes FREE; no other
context's registers and no byte of memory change. A helper that holds another obligation becomes UNSETTLED, with that
cause, and keeps its registers. -/
def Obligations.HexitFreesTheSlot : Prop :=
  ∀ (s : State), s.ctx.level = .h → s.core.cur ≠ 0 → s.ctx.anyPending = false → s.ctx.xch.inph = false →
    (∀ e ∈ s.core.lvu, e.slot.toNat ≠ s.core.cur.val) → accessesOut s (me s) = false →
    s.ctx.pend.marks = [] → s.ctx.pend.storeErr = [] → s.core.spilled = [] →
    let frees (t : State) : Prop :=
      t.ctx.slotState = .free ∧ t.core.reeve = [] ∧ t.core.spilled = []
      ∧ (∀ j, j ≠ s.core.cur → (t.at j).regs = (s.at j).regs) ∧ KeepsMemory s t
    (s.core.reeve = [] → Completes .hexit s frees)
    ∧ (∀ o : Obl, s.core.reeve = [o] →
      (o.is s.core.cur s.ctx.act.compl .signal = true → o.mult = 1 →
        Completes .hexit s fun t => frees t ∧ Msg.discharge s.ctx.act.compl .signal .ok (.ctx (me s)) ∈ t.agenda)
      ∧ (o.owner.toNat = s.core.cur.val → o.is s.core.cur s.ctx.act.compl .signal = false → s.core.undo = none →
        Completes .hexit s fun t => t.ctx.slotState = .unsettled ∧ t.ctx.trap.cause.toNat % 256 = 10
          ∧ t.ctx.trap.tval = o.h ∧ t.ctx.regs = s.ctx.regs ∧ t.core.reeve = [o] ∧ KeepsMemory s t))

/-- CPACK and MIGRATE (R83, R85, R87, R169) of a helper, past their refusals: the record has VALID, the live registers'
MASK, the address after the instruction, the obligations it holds inline, WID and LREF. CPACK writes it over its three
64-byte blocks, and over the spill block where more than four obligations are held, and nothing else of memory; MIGRATE
writes no record in memory and sends it to its target. Both leave no obligation of the helper and free the slot. -/
def Obligations.PackingFreesTheSlot : Prop :=
  ∀ (s : State) (d a b : BitVec 5), s.ctx.level = .h → s.core.cur ≠ 0 → s.ctx.xch.inph = false →
    accessesOut s (me s) = false → s.ctx.pend.marks = [] → s.ctx.pend.storeErr = [] →
    packRefusal s (gv s d) (gv s b) = none → Memory.wf s.mem = true →
    (gv s b).toNat % 64 = 0 → (gv s b = 0 ∨ (gv s b).toNat / 2 ^ 56 = 0x10) →
    let s0 := endLlk s s.core.cur
    let os := sortObls (oblsOf s s.core.cur)
    let more := (regroup (takeObls 4 os).2).length
    let isRecord (x : Nat) : Prop :=
      x.testBit 1535 = true ∧ x / 2 ^ 1280 % 2 ^ 32 = (gv s d).toNat % 2 ^ 32
      ∧ x / 2 ^ 1312 % 2 ^ 13 = (s.ctx.pc + 4).toNat / 4 % 2 ^ 13 ∧ x / 2 ^ 1325 % 2 ^ 3 = min 4 (countObls os)
      ∧ x / 2 ^ 1384 % 2 ^ 64 = s.ctx.user.wid.toNat ∧ x / 2 ^ 1448 % 2 ^ 32 = s.ctx.act.lref.toNat
    let frees (t : State) (pas spas : List Nat) : Prop :=
      t.ctx.slotState = .free ∧ (t.core.reeve ++ t.core.spilled).all (fun o => o.owner.toNat != s.core.cur.val) = true
      ∧ ((∀ o ∈ s.core.spilled, o.owner.toNat ≠ s.core.cur.val) →
        ∀ x, (∀ p ∈ pas, x < p ∨ p + 64 ≤ x) → (∀ p ∈ spas, x < p ∨ p + 16 ≤ x) →
          Memory.get t.mem x = Memory.get s.mem x)
    (∀ (s1 s2 : State) (pas spas : List Nat), (gv s a).toNat % 64 = 0 →
      checkSpan .write 64 3 s0 (gv s a) = .ok s1 pas → spillSpan s1 more (gv s b) = .ok s2 spas →
      Completes (.cpack d a b) s fun t => frees t pas spas
        ∧ ((∀ o ∈ s.core.spilled, o.owner.toNat ≠ s.core.cur.val) →
          ∃ record : Nat, isRecord record ∧ ∀ p, pas[2]? = some p →
            ∀ k, k < 64 → Memory.get t.mem (p + k) = BitVec.ofNat 8 (record / 2 ^ (8 * (128 + k)))))
    ∧ (∀ (s2 : State) (spas : List Nat), targetDetail s (migrateTarget s a) = none →
      spillSpan s0 more (gv s b) = .ok s2 spas →
      Completes (.migrate d a b) s fun t => frees t [] spas
        ∧ ∃ record : BitVec 1536, isRecord record.toNat
          ∧ Msg.continuationMessage ((migrateTarget s a).truncate 32) record (launchCtxOf s s.ctx.act.lref) ∈ t.agenda)

/-- Requests to a home, and a wait (R53, R54, R275 to R283, R306, R310): each sends one message that names the
object and the issuing context, reads its operands, and stays. ONEW needs a g[b] that keeps its map, a rank in
RANKLO to RANKHI and a scope that holds the issuer; OSEND the SEND obligation and a reply register; POLL and the
waits a free place of the owed area; the waits a rank below MINHELD, and DEQ no RELEASE of its queue's SPACE (R319, log 63),
and they release an LLK lock (R255); BARW its ARRIVE, which it gives up. PBIND and PSTAT (R305, R307): the request goes to Millrace and the instruction is done; the
token register and the one after it are pending until the answer, and PBIND, which waits for the context's own stores,
has reserved two places of the owed area and takes what it read of its descriptor with it (R28); s1 is the state with what an
error met in that read has logged. -/
def Obligations.RequestsToTheirHomes : Prop :=
  (∀ (s : State) (d a b c kind field : BitVec 5), s.core.undo = none →
      let h := gv s a
      let w := Agent.ctx (me s)
      (onewMap (gv s b) kind = true → 1 ≤ (gv s b).toNat / 2 ^ 32 % 2 ^ 20 →
          s.ctx.user.rankLo.toNat ≤ (gv s b).toNat / 2 ^ 32 % 2 ^ 20 →
          (gv s b).toNat / 2 ^ 32 % 2 ^ 20 < s.ctx.user.rankHi.toNat →
          scopeMalformed (scopeOperand s a) = false → scopeHolds (scopeOperand s a) s.loc.dev (me s) = true →
          Completes (.onew d a b kind) s fun t =>
            Asks s t (.homeOperation (.onew (scopeOperand s a) (gv s b) kind) w))
      ∧ Completes (.ofree a) s (fun t => Asks s t (.homeOperation (.ofree h) w))
      ∧ Completes (.oblig d a) s (fun t => Asks s t (.homeOperation (.oblig h) w))
      ∧ Completes (.oqry d a field) s (fun t => Asks s t (.homeOperation (.oqry h field) w))
      ∧ (holds s s.core.cur h .send = true → c ≠ 0 →
          Completes (.osend d a b c) s fun t => Asks s t (.homeOperation (.osend h (gv s b) (gv s c)) w))
      ∧ Completes (.pfree d a) s (fun t => Asks s t (.millraceRequest
          (.pfree h ((oblsOf s s.core.cur).map fun o => (o.h, o.kind))) (me s) d s.ctx.user.xroot s.ctx.user.restb
          s.ctx.user.rankLo s.ctx.user.rankHi))
      ∧ (owedFree s s.core.cur ≠ 0 →
          Completes (.poll d a) s (fun t => Asks s t (.homeOperation (.poll h) w)
            ∧ t.ctx.act.reserved = s.ctx.act.reserved + 1)
          ∧ (rankOf h < minHeld s s.core.cur →
              Completes (.wait d a) s (fun t => Asks s t (.waitRequest h .wait w) ∧ t.ctx.llk = none)
              ∧ (owesSpaceOf s s.core.cur h = false →
                Completes (.deq d a) s fun t => Asks s t (.waitRequest h .deq w) ∧ t.ctx.llk = none)
              ∧ ((gv s d).toNat ≤ 17856 →
                Completes (.enq d a) s fun t => Asks s t (.waitRequest h .enq w) ∧ t.ctx.llk = none))
          ∧ (holds s s.core.cur h .arrive = true → s.core.spilled = [] →
              (∀ o ∈ s.core.reeve, 1 ≤ o.mult) → rankOf h < minHeldWithout s s.core.cur h .arrive →
              Completes (.barw d a) s fun t => Asks s t (.waitRequest h .barw w) ∧ t.ctx.llk = none
                ∧ owes t s.core.cur h .arrive + 1 = owes s s.core.cur h .arrive)))
  ∧ (∀ (s : State) (d a : BitVec 5), 1 ≤ d.toNat → d.toNat ≤ 30 →
      (∀ (p : PipeSnap) (s1 : State), 2 ≤ owedFree s s.core.cur → writesOut s (me s) = false →
        acquireOut s (me s) s.ctx.act.after = false → pipeSnap s (gv s a) = (s1, some p) → Completes (.pbind d a) s fun t =>
        t.agenda = s1.agenda ++ [.millraceRequest (.pbind p) (me s1) d s1.ctx.user.xroot s1.ctx.user.restb
          s1.ctx.user.rankLo s1.ctx.user.rankHi]
        ∧ t.ctx.isPending (.g d) = true ∧ t.ctx.isPending (.g (d + 1)) = true
        ∧ t.ctx.act.reserved = s1.ctx.act.reserved + 2 ∧ KeepsRegisters s1 t ∧ KeepsMemory s1 t ∧ Advances s1 t)
      ∧ Completes (.pstat d a) s fun t =>
        t.agenda = s.agenda ++ [.millraceRequest (.pstat (gv s a)) (me s) d s.ctx.user.xroot s.ctx.user.restb
          s.ctx.user.rankLo s.ctx.user.rankHi]
        ∧ t.ctx.isPending (.g d) = true ∧ t.ctx.isPending (.g (d + 1)) = true
        ∧ KeepsRegisters s t ∧ KeepsMemory s t ∧ Advances s t)

/-- Discharges and transfers (R61, R62, R278 to R280): one unit of the obligation leaves the context and one
message goes to the home or to the target; RSPLIT sets the window, and OSEIZE moves every obligation of a
TRAPPED, UNSETTLED or HELD helper to the control context and gives their number. -/
def Obligations.DischargesAndTransfers : Prop :=
  ∀ (s : State) (d a b kind : BitVec 5), s.core.spilled = [] →
    let i := s.core.cur
    let h := gv s a
    let w := Agent.ctx (me s)
    let pays (j : Instr) (k : OblKind) (m : Msg) : Prop :=
      Completes j s fun t => owes t i h k + 1 = owes s i h k ∧ t.agenda = s.agenda ++ [m]
        ∧ KeepsRegisters s t ∧ KeepsMemory s t ∧ Advances s t
    (∀ o ∈ s.core.reeve, 1 ≤ o.mult) →
    (holds s i h .signal = true → pays (.osig a) .signal (.discharge h .signal .ok w))
    ∧ (holds s i h .signal = false → holds s i h .arrive = true →
        pays (.osig a) .arrive (.discharge h .arrive .ok w))
    ∧ (holds s i h .release = true → pays (.orel a) .release (.discharge h .release .ok w))
    ∧ (holds s i h .send = true →
        Completes (.osend d a b 0) s fun t => owes t i h .send + 1 = owes s i h .send
          ∧ t.agenda = s.agenda ++ [.discharge h .send (.send (gv s b) 0) w] ∧ SetsG s t d 0
          ∧ KeepsMemory s t ∧ Advances s t)
    ∧ (holds s i h .signal = true → (gv s b).toNat < 2 ^ 28 →
        pays (.ofail a b) .signal (.discharge h .signal (.fail ((gv s b).truncate 28)) w))
    ∧ (∀ k : OblKind, kind.toNat = oblCode k → holds s i h k = true → (gv s b).toNat < 11 * 2 ^ 32 →
        targetDetail s (zextN (gv s b) 32) = none → (gv s b).toNat ≠ (me s).toNat →
        pays (.otrn a b kind) k (.obligationTransfer h k (BitVec.ofNat 36 (gv s b).toNat) w))
    ∧ (h.toNat < (gv s b).toNat → s.ctx.user.rankLo.toNat ≤ h.toNat → (gv s b).toNat ≤ s.ctx.user.rankHi.toNat →
        Completes (.rsplit a b) s fun t => t.ctx.act.window = some (h.truncate 21, (gv s b).truncate 21)
          ∧ KeepsRegisters s t ∧ KeepsMemory s t ∧ Advances s t)
    ∧ (∀ (j : Fin 11) (o : Obl), s.ctx.level ≠ .h → i = 0 → j ≠ 0 → h.toNat = (selfId s j).toNat →
        ((s.at j).slotState = .trapped ∨ (s.at j).slotState = .unsettled ∨ (s.at j).slotState = .held) →
        s.core.reeve = [o] → o.owner.toNat = j.val → o.mult = 1 →
        Completes (.oseize d a) s fun t => SetsG s t d 1 ∧ owes t i o.h o.kind = 1 ∧ owes t j o.h o.kind = 0
          ∧ KeepsMemory s t ∧ Advances s t)

/-- Loads from the core's own TCM (R160, R171, R261): LD with zero or sign extension, VLD and RES write the
bytes they read to their destination and nothing else; no byte of memory changes. Stores to the core's own TCM
(R171, R261): ST of each size, with and without release, and VST write exactly their bytes, which then read as
the stored value; no register changes. -/
def Obligations.OwnTcmLoadsAndStores : Prop :=
  (∀ (s : State) (d a : BitVec 5) (w : BitVec 4) (disp : BitVec 12) (vdisp : BitVec 11) (word : BitVec 3)
      (k : BitVec 16),
      let z : Nat := 2 ^ (w.toNat % 4)
      let ea := gv s a + disp.signExtend 64 * BitVec.ofNat 64 z
      let vea := gv s a + vdisp.signExtend 64 * 32
      let rea := s.ctx.user.restb + BitVec.ofNat 64 (64 * k.toNat + 8 * word.toNat)
      let gives (i : Instr) (x : Word) : Prop :=
        Completes i s fun t => SetsG s t d x ∧ KeepsF s t ∧ KeepsV s t ∧ KeepsK s t ∧ KeepsQ s t ∧ KeepsUser s t
          ∧ KeepsCore s t ∧ KeepsMemory s t ∧ Advances s t
      (OwnTcmAccess s ea z false → gives (.ld d a w disp)
        (if w.getLsbD 2 then (BitVec.ofNat (8 * z) (readNat s (tcmBase s + ea.toNat) z)).signExtend 64
          else BitVec.ofNat 64 (readNat s (tcmBase s + ea.toNat) z)))
      ∧ (OwnTcmAccess s vea 32 false → Completes (.vld d a vdisp) s fun t =>
          SetsV s t d (BitVec.ofNat 256 (readNat s (tcmBase s + vea.toNat) 32)) ∧ KeepsG s t ∧ KeepsF s t ∧ KeepsK s t
            ∧ KeepsQ s t ∧ KeepsUser s t ∧ KeepsCore s t ∧ KeepsMemory s t ∧ Advances s t)
      ∧ (OwnTcmAccess s rea 8 false → gives (.res d word k) (BitVec.ofNat 64 (readNat s (tcmBase s + rea.toNat) 8))))
  ∧ (∀ (s : State) (r a : BitVec 5) (rel : BitVec 1) (z : BitVec 2) (disp : BitVec 12) (vdisp : BitVec 11),
      Memory.wf s.mem = true → s.ctx.pend.storeErr = [] →
      let n : Nat := 2 ^ z.toNat
      let ea := gv s a + disp.signExtend 64 * BitVec.ofNat 64 n
      let vea := gv s a + vdisp.signExtend 64 * 32
      (OwnTcmAccess s ea n true → Completes (.st r a rel z disp) s fun t =>
        readNat t (tcmBase s + ea.toNat) n = (gv s r).toNat % 2 ^ (8 * n)
        ∧ KeepsMemoryBut s t (tcmBase s + ea.toNat) n ∧ KeepsRegisters s t ∧ KeepsCore s t ∧ Advances s t)
      ∧ (OwnTcmAccess s vea 32 true → Completes (.vst r a vdisp) s fun t =>
        readNat t (tcmBase s + vea.toNat) 32 = (s.ctx.v r).toNat
        ∧ KeepsMemoryBut s t (tcmBase s + vea.toNat) 32 ∧ KeepsRegisters s t ∧ KeepsCore s t ∧ Advances s t))

/-- Accesses outside the TCM (R129, R171, R249, R250, R254, R260, R261): the instruction sends one access with
its address, size, data and destination to the home, its destination is pending, and it is done. An MST to a page
that allows it goes to the sequencing die's replica with the mask of its PTE (R239), which stamps it for every member
(O51 says what a stamp and an application do). -/
def Obligations.AccessesGoToTheirHome : Prop :=
  ∀ (s : State) (d a b : BitVec 5) (w : BitVec 4) (rel : BitVec 1) (z : BitVec 2) (disp : BitVec 12)
    (vdisp : BitVec 11) (word : BitVec 3) (k : BitVec 16) (p : Place),
    let lz : Nat := 2 ^ (w.toNat % 4)
    let lea := gv s a + disp.signExtend 64 * BitVec.ofNat 64 lz
    let n : Nat := 2 ^ z.toNat
    let ea := gv s a + disp.signExtend 64 * BitVec.ofNat 64 n
    let vea := gv s a + vdisp.signExtend 64 * 32
    let rea := s.ctx.user.restb + BitVec.ofNat 64 (64 * k.toNat + 8 * word.toNat)
    let quiet := rel = 0 ∨ (accessesOut s (me s) = false ∧ s.ctx.pend.storeErr = [])
    (RemoteAccess s lea lz .read p → Completes (.ld d a w disp) s fun t =>
      SendsAccess s t .load lea p.pa lz 0 (.g d (w.getLsbD 2)))
    ∧ (RemoteAccess s vea 32 .read p → Completes (.vld d a vdisp) s fun t =>
      SendsAccess s t .load vea p.pa 32 0 (.v d))
    ∧ (RemoteAccess s rea 8 .read p → Completes (.res d word k) s fun t =>
      SendsAccess s t .load rea p.pa 8 0 (.g d false))
    ∧ (quiet → RemoteAccess s ea n .write p → Completes (.st b a rel z disp) s fun t =>
      SendsAccess s t .store ea p.pa n ((gv s b).zeroExtend 256) .none)
    ∧ (RemoteAccess s vea 32 .write p → Completes (.vst b a vdisp) s fun t =>
      SendsAccess s t .store vea p.pa 32 (s.ctx.v b) .none)
    ∧ (quiet → RemoteAccess s ea n .mst p → Completes (.mst b a rel z disp) s fun t =>
      (∃ acc : Access, t.agenda = s.agenda ++ [.mstStamp acc (BitVec.ofNat 8 (p.pte.toNat / 2 ^ 44))]
        ∧ acc.who = me s ∧ acc.kind = .mst ∧ acc.ea = ea ∧ acc.size = n ∧ acc.data = (gv s b).zeroExtend 256
        ∧ acc.pa = replicaPlace p.pa (BitVec.ofNat 3 (p.pte.toNat / 2 ^ 41)) ∧ acc.dst = .none
        ∧ acc.seq = s.ctx.act.seq)
      ∧ KeepsRegisters s t ∧ KeepsMemory s t ∧ Advances s t)

/-- Atomics, LLK and SUL (R249, R254, R255): each sends one access of its function to the home, with g[b] as its
operand and g[d] as the destination of the old value; LLK notes the lock, an earlier one being released first; SUL
sends its store, whose status is the home's answer (O27), and the lock, if one is held, ends with it; and SUN answers 1
without a lock, 0 where the address is the lock's and 2 where it is not, and releases it. -/
def Obligations.AtomicsAndLocksGoToTheirHome : Prop :=
  ∀ (s : State) (d a b : BitVec 5) (ord : BitVec 2) (z : BitVec 1) (p : Place),
    let ea := gv s a
    let n : Nat := if z = 1 then 8 else 4
    let data : VReg := (gv s b).zeroExtend 256
    let sends (i : Instr) (kind : AccKind) (data : VReg) : Prop :=
      Completes i s fun t => SendsAccess s t kind ea p.pa n data (.g d false)
    (RemoteAccess s ea n .atomic p →
      sends (.aadd d a b ord z) (.atom 0) data ∧ sends (.aand d a b ord z) (.atom 1) data
      ∧ sends (.aor d a b ord z) (.atom 2) data ∧ sends (.axor d a b ord z) (.atom 3) data
      ∧ sends (.amin d a b ord z) (.atom 4) data ∧ sends (.amax d a b ord z) (.atom 5) data
      ∧ sends (.aminw d a b ord z) (.atom 6) data ∧ sends (.amaxw d a b ord z) (.atom 7) data
      ∧ sends (.aswp d a b ord z) (.atom 8) data ∧ sends (.acas d a b ord z) (.atom 9) data
      ∧ (Completes (.acas d a b ord z) s fun t =>
          ∃ acc : Access, t.agenda = s.agenda ++ [.accessAtHome acc] ∧ acc.cmp = gv s d)
      ∧ sends (.afadd d a b ord z) (.atom 10) data
      ∧ (llkTarget ea p = true →
          ((∀ l, s.ctx.llk = some l → l.closing = false) → Completes (.llk d a z) s fun t =>
            SendsAccess s t .llk ea p.pa n 0 (.g d false)
            ∧ t.ctx.llk = some { ea := ea, pa := p.pa, size := n, issued := 0, stalled := 0, closing := false }
            ∧ (s.ctx.llk ≠ none → ∀ x ∈ t.cluster.locks, x.2 ≠ me s))
          ∧ (Completes (.sul d a b z) s fun t => SendsAccess s t .sul ea p.pa n data (.g d false)
            ∧ t.ctx.llk = s.ctx.llk.map fun l => { l with closing := true })))
    ∧ (s.ctx.llk = none → Completes (.sun d a) s fun t => WritesG s t d 1)
    ∧ (∀ l : Llk, s.ctx.llk = some l → l.closing = false →
      Completes (.sun d a) s fun t => SetsG s t d (if l.ea = ea then 0 else 2) ∧ t.ctx.llk = none
        ∧ KeepsMemory s t ∧ Advances s t
        ∧ (∀ x ∈ t.cluster.locks, x.2 ≠ me s))

/-- An access at its home (R171, R249, R250): a load sends the bytes as they stand; a store and an integer
atomic change exactly their bytes, to the value stored and to the function of the old value and the operand;
each sends its answer. LLK takes the lock bits of its word for its context; SUL stores and answers 0 with the lock of
its address and size held, stores nothing and answers 2 with another, and 1 with none, and the lock held is released
(R252, R255). -/
def Obligations.AccessesAtHome : Prop :=
  ∀ (s : State) (a : Access) (pa : Nat), Memory.wf s.mem = true → s.event = some (.accessAtHome a) → isSystemSpace a.pa = false →
    leaseRoute s a.pa a.lease = .at pa → physExists s pa a.layout = true → lockRefuses s pa a.size a.who = false →
    eccBad s pa a.size = false → (a.size = 1 ∨ a.size = 2 ∨ a.size = 4 ∨ a.size = 8) →
    let old := readNat s pa a.size
    let x := a.data.toNat % 2 ^ (8 * a.size)
    let signed (v : Nat) : Int := (BitVec.ofNat (8 * a.size) v).toInt
    (a.kind = .load → ∀ r sext, a.dst = .g r sext →
      Completes .accessAtHome s fun t => KeepsMemory s t
        ∧ ∃ res : Result, SendsOne s t (.resultArrival res) ∧ res.who = a.who ∧ res.num = r
          ∧ res.cls = 1 ∧ res.cause = 0
          ∧ res.value.toNat = if sext then ((BitVec.ofNat (8 * a.size) old).signExtend 64).toNat else old)
    ∧ (a.kind = .store → Completes .accessAtHome s fun t => KeepsMemoryBut s t pa a.size
        ∧ readNat t pa a.size = x ∧ SendsOne s t (.storeAcknowledgement a.who 0 a.ea (farDev s a.pa)))
    ∧ (∀ fn : BitVec 4, a.kind = .atom fn → fn.toNat < 10 → ∀ r, a.dst = .g r false →
      Completes .accessAtHome s fun t => KeepsMemoryBut s t pa a.size
        ∧ (∃ res : Result, SendsOne s t (.resultArrival res) ∧ res.num = r ∧ res.value.toNat = old)
        ∧ readNat t pa a.size = (match fn.toNat with
          | 0 => (old + x) % 2 ^ (8 * a.size)
          | 1 => old &&& x
          | 2 => old ||| x
          | 3 => old ^^^ x
          | 4 => if signed x < signed old then x else old
          | 5 => if signed old < signed x then x else old
          | 6 => min old x
          | 7 => max old x
          | 8 => x
          | _ => if old = a.cmp.toNat % 2 ^ (8 * a.size) then x else old))
    ∧ (∀ (i : Fin 11) (r : BitVec 5), localSlot s a.who = some i → a.dst = .g r false →
      let answers (v : Nat) (t : State) : Prop :=
        ∃ res : Result, SendsOne s t (.resultArrival res) ∧ res.who = a.who ∧ res.num = r ∧ res.value.toNat = v
      (∀ l, a.kind = .llk → (s.at i).llk = some l → l.ea = a.ea → l.size = a.size →
        Completes .accessAtHome s fun t => KeepsMemory s t ∧ answers old t
          ∧ t.cluster.locks = s.cluster.locks ++ (lockKeys pa a.size).map fun k => (k, a.who))
      ∧ (∀ l, a.kind = .sul → (s.at i).llk = some l → l.ea = a.ea ∧ l.size = a.size →
        Completes .accessAtHome s fun t => KeepsMemoryBut s t pa a.size ∧ readNat t pa a.size = x ∧ answers 0 t
          ∧ (t.at i).llk = none ∧ t.cluster.locks = s.cluster.locks.filter fun p => p.2 != selfId s i)
      ∧ (∀ l, a.kind = .sul → (s.at i).llk = some l → ¬(l.ea = a.ea ∧ l.size = a.size) →
        Completes .accessAtHome s fun t => KeepsMemory s t ∧ answers 2 t ∧ (t.at i).llk = none
          ∧ t.cluster.locks = s.cluster.locks.filter fun p => p.2 != selfId s i)
      ∧ (a.kind = .sul → (s.at i).llk = none →
        Completes .accessAtHome s fun t => KeepsMemory s t ∧ answers 1 t ∧ t.cluster.locks = s.cluster.locks ∧ t.core = s.core))

/-- Fences (R256 to R259): with nothing to wait for and no error to take, each advances. FENCE waits for the context's
accesses, unless its scope holds no core, and orders the later accesses after the earlier ones; FENCEA waits for its reads.
FENCER waits only for an access that is to leave an error, and orders the later writes after every earlier access: R256 words
it as FENCE with the later loads excepted, and that it waits no longer is the model's reading (log 17). BFENCE waits for stores to bank rows, for bank jobs
and for an earlier acquire; QFENCE for LVU entries; EFENCE for tokens and accesses. Nothing else changes. -/
def Obligations.FencesOnlyAdvance : Prop :=
  ∀ (s : State) (a : BitVec 5),
    let scope := scopeOperand s a
    let i := s.core.cur
    (scopeMalformed scope = false → s.ctx.pend.marks = [] → s.ctx.pend.storeErr = [] →
      (scopeEmpty scope = true ∨ accessesOut s (me s) = false →
        Completes (.fence a) s (OnlyAdvances (s.modAct i fun x => { x with after := x.seq })))
      ∧ (readsOut s (me s) = false → Completes (.fencea a) s (OnlyAdvances s))
      ∧ (failureOut s (me s) = false →
        Completes (.fencer a) s (OnlyAdvances (s.modAct i fun x => { x with afterWr := x.seq }))))
    ∧ ((∀ j ∈ s.banks.jobs, j.who ≠ me s) → acquireOut s (me s) s.ctx.act.after = false →
        (∀ m ∈ s.agenda, ∀ x : Access, accessOf m = some x → x.who = me s → x.layout = 1 → x.kind = .load) →
        Completes .bfence s (OnlyAdvances s))
    ∧ ((∀ e ∈ s.core.lvu, e.slot.toNat ≠ s.core.cur.val) → Completes .qfence s (OnlyAdvances s))
    ∧ (s.ctx.act.tokens = [] → accessesOut s (me s) = false → Completes .efence s (OnlyAdvances s))

/-- Integer lanes (R200 to R202): each VI form writes the included lanes with its table's function, signed or
unsigned by its type, and leaves the excluded ones; no flag changes. VSEL, VABS and VCMP (R202): VSEL writes
every lane by its selector; VABS saturates the most negative value and then sets OF; VCMP writes a mask whose
bits at or above the lane count are zero. -/
def Obligations.IntegerVectorLanes : Prop :=
  (∀ (s : State) (d a b : BitVec 5) (m t : BitVec 3),
      let w := 8 * 2 ^ (t.toNat % 4)
      let val (x : BitVec w) : Int := if t.toNat < 4 then x.toInt else x.toNat
      let gives (i : Instr) (f : BitVec w → BitVec w → BitVec w) : Prop :=
        Completes i s fun u =>
          WritesLanes s u d m w (fun j x => x = f (lane w j (s.ctx.v a)) (lane w j (s.ctx.v b))) ∧ KeepsUser s u
      gives (.vadd d a b m t) (fun x y => x + y)
      ∧ gives (.vsub d a b m t) (fun x y => x - y)
      ∧ gives (.vmul d a b m t) (fun x y => x * y)
      ∧ gives (.vmulh d a b m t) (fun x y => BitVec.ofInt w (val x * val y / 2 ^ w))
      ∧ gives (.vmin d a b m t) (fun x y => if val x ≤ val y then x else y)
      ∧ gives (.vmax d a b m t) (fun x y => if val x ≤ val y then y else x)
      ∧ gives (.vand d a b m t) (fun x y => x &&& y)
      ∧ gives (.vor d a b m t) (fun x y => x ||| y)
      ∧ gives (.vxor d a b m t) (fun x y => x ^^^ y)
      ∧ gives (.vshl d a b m t) (fun x y => x <<< (y.toNat % w))
      ∧ gives (.vshr d a b m t) (fun x y => x >>> (y.toNat % w))
      ∧ gives (.vsar d a b m t) (fun x y => x.sshiftRight (y.toNat % w)))
  ∧ (∀ (s : State) (d a b : BitVec 5) (m t cond : BitVec 3), cond.toNat ≤ 5 →
      let w := 8 * 2 ^ (t.toNat % 4)
      let n := 256 / w
      let val (x : BitVec w) : Int := if t.toNat < 4 then x.toInt else x.toNat
      let X (i : Nat) : BitVec w := lane w i (s.ctx.v a)
      let Y (i : Nat) : BitVec w := lane w i (s.ctx.v b)
      let on (i : Nat) : Bool := (s.ctx.k m).getLsbD i
      let lowest : BitVec w := BitVec.intMin w
      let worst : Bool := (List.range n).any fun i => on i && X i == lowest
      (∃ x : VReg, Completes (.vsel d a b m t) s (fun u => WritesV s u d x)
        ∧ ∀ i, i < n → lane w i x = if on i then X i else Y i)
      ∧ (Completes (.vabs d a m t) s fun u =>
          WritesLanes s u d m w (fun i x => x = if X i = lowest then BitVec.intMax w else BitVec.ofNat w (X i).toInt.natAbs)
          ∧ u.ctx.user.fflags = s.ctx.user.fflags ||| (if worst then 4 else 0))
      ∧ (∃ x : W32, Completes (.vcmp d a b m t cond) s (fun u => WritesK s u (d.truncate 3) x)
        ∧ ∀ i, i < 32 → x.getLsbD i = (decide (i < n) && on i && match cond.toNat with
            | 0 => decide (val (X i) = val (Y i))
            | 1 => decide (val (X i) ≠ val (Y i))
            | 2 => decide (val (X i) < val (Y i))
            | 3 => decide (val (Y i) ≤ val (X i))
            | 4 => decide (val (X i) ≤ val (Y i))
            | _ => decide (val (Y i) < val (X i)))))

/-- Floating lanes (R186 to R190, R203, R204): each VF and VS form writes the included lanes with its operation
under FMODE as it stands, an LFSR state the lane meets, and leaves the excluded lanes; VFABS and VFNEG act on
the sign of an operand read under FTZ; VFCMP writes a mask. The values that R185 to R188 fix follow by their bits: NaN
operands, signed zeros and subnormals under FTZ, exact sums and products, infinities, overflow in the modes RNE and RZ, and a
subnormal result; and R204's of NaN, zero and infinite operands. -/
def Obligations.FloatingLanes : Prop :=
  (∀ (s : State) (d a b : BitVec 5) (m t cond : BitVec 3),
    let f := fmtOf t
    let w := f.width
    let X (i : Nat) : BitVec w := lane w i (s.ctx.v a)
    let Y (i : Nat) : BitVec w := lane w i (s.ctx.v b)
    let Z (i : Nat) : BitVec w := lane w i (s.ctx.v d)
    let does (i : Instr) (op : FltOp) : Prop :=
      Completes i s fun u => WritesLanes s u d m w fun i x =>
        ∃ st : FEnv, st.md = s.ctx.user.fmode ∧ x = BitVec.ofNat w (fltLane op f st (X i).toNat (Y i).toNat (Z i).toNat).1
    let maps (i : Instr) (fn : TransFn) : Prop :=
      Completes i s fun u => WritesLanes s u d m w fun i x =>
        ∃ st : FEnv, st.md = s.ctx.user.fmode ∧ x = BitVec.ofNat w (transLane fn f st (X i).toNat).1
    does (.vfadd d a b m t) .add ∧ does (.vfsub d a b m t) .sub ∧ does (.vfmul d a b m t) .mul
    ∧ does (.vfma d a b m t) .fma ∧ does (.vfms d a b m t) .fms
    ∧ does (.vfmin d a b m t) .min ∧ does (.vfmax d a b m t) .max
    ∧ (Completes (.vfabs d a m t) s fun u => WritesLanes s u d m w (fun i x =>
        x.toNat = if (fread s.ctx.user.fmode f (X i).toNat).isZero then 0 else (X i).toNat % 2 ^ (w - 1))
        ∧ KeepsUser s u)
    ∧ (Completes (.vfneg d a m t) s fun u => WritesLanes s u d m w (fun i x => x.msb = (!(X i).msb)
        ∧ x.toNat % 2 ^ (w - 1) =
          if (fread s.ctx.user.fmode f (X i).toNat).isZero then 0 else (X i).toNat % 2 ^ (w - 1))
        ∧ KeepsUser s u)
    ∧ maps (.vexp2 d a m t) .exp2 ∧ maps (.vlog2 d a m t) .log2 ∧ maps (.vrcp d a m t) .rcp
    ∧ maps (.vrsq d a m t) .rsq ∧ maps (.vsin d a m t) .sin ∧ maps (.vcos d a m t) .cos
    ∧ maps (.vtanh d a m t) .tanh ∧ maps (.vsigm d a m t) .sigm
    ∧ (∃ k : W32, (Completes (.vfcmp d a b m t cond) s fun u => SetsK s u (d.truncate 3) k ∧ KeepsG s u ∧ KeepsF s u
          ∧ KeepsV s u ∧ KeepsQ s u ∧ KeepsRest s u ∧ Advances s u)
      ∧ ∀ i, i < 32 → k.getLsbD i = (decide (i < 256 / w) && (s.ctx.k m).getLsbD i
          && (fcond (envNow s) cond.toNat (fread s.ctx.user.fmode f (X i).toNat)
            (fread s.ctx.user.fmode f (Y i).toNat)).1)))
  ∧ (∀ (s : State) (d a b : BitVec 5) (m t cond : BitVec 3), t.toNat < 6 →
    let f := fmtOf t
    let w := f.width
    let md := s.ctx.user.fmode
    let lanes (i : Instr) (P : Nat → Nat → Nat → Nat → Prop) : Prop :=
      Completes i s fun u => ∀ j, j < 256 / w → (s.ctx.k m).getLsbD j = true →
        P (lane w j (s.ctx.v a)).toNat (lane w j (s.ctx.v b)).toNat (lane w j (s.ctx.v d)).toNat
          (lane w j (u.ctx.v d)).toNat
    (∀ i ∈ [Instr.vfadd d a b m t, .vfsub d a b m t, .vfmul d a b m t, .vfmin d a b m t, .vfmax d a b m t],
      lanes i fun x y _ r => (NanIn f x → r = nanResult md f x) ∧ (¬NanIn f x → NanIn f y → r = nanResult md f y))
    ∧ lanes (.vfma d a b m t) (fun x y z r => (NanIn f x → r = nanResult md f x)
        ∧ (¬NanIn f x → NanIn f y → r = nanResult md f y)
        ∧ (¬NanIn f x → ¬NanIn f y → NanIn f z → r = nanResult md f z))
    ∧ (∀ i ∈ [Instr.vexp2 d a m t, .vlog2 d a m t, .vrcp d a m t, .vrsq d a m t, .vsin d a m t, .vcos d a m t,
        .vtanh d a m t, .vsigm d a m t], lanes i fun x _ _ r => NanIn f x → r = nanResult md f x)
    ∧ lanes (.vfadd d a b m t) (fun x y _ r =>
        (ZeroIn md f x → ZeroIn md f y → r = signedZero f
          (if signBit f x = signBit f y then signBit f x else decide (rmOf md = .rd)))
        ∧ (NormalIn f x → ZeroIn md f y → r = x) ∧ (ZeroIn md f x → NormalIn f y → r = y))
    ∧ lanes (.vfmul d a b m t) (fun x y _ r =>
        ((ZeroIn md f x ∧ (ZeroIn md f y ∨ NormalIn f y)) ∨ (NormalIn f x ∧ ZeroIn md f y) →
          r = signedZero f (xor (signBit f x) (signBit f y)))
        ∧ (NormalIn f x → y = f.bias * 2 ^ f.mbits → r = x))
    ∧ lanes (.vfmin d a b m t) (fun x y _ r => ZeroIn md f x → ZeroIn md f y →
        r = signedZero f (signBit f x || signBit f y))
    ∧ lanes (.vfmax d a b m t) (fun x y _ r => ZeroIn md f x → ZeroIn md f y →
        r = signedZero f (signBit f x && signBit f y))
    ∧ lanes (.vfsub d a b m t) (fun x y _ r => x = 2 ^ f.mbits + 2 ^ (f.mbits - 1) → y = 2 ^ f.mbits →
        r = if ftz md f then 0 else 2 ^ (f.mbits - 1))
    ∧ (f = .e4m3 → lanes (.vfadd d a b m t) fun x y _ r => x = 0x7E → y = 0x7E →
        (md.getLsbD 3 = false → r = 0x7E) ∧ (md.getLsbD 3 = true → rmOf md = .rne → r = 0x7F))
    ∧ (t.toNat < 4 →
      lanes (.vfadd d a b m t) (fun x y _ r =>
        (InfIn f x → InfIn f y → r = if signBit f x = signBit f y then x else canonicalNan f)
        ∧ (InfIn f x → NormalIn f y ∨ ZeroIn md f y → r = x)
        ∧ (NormalIn f x → expBits f x = 2 ^ f.ebits - 2 → y = x →
          (rmOf md = .rne → r = signedInf f (signBit f x)) ∧ (rmOf md = .rz → r = signedInf f (signBit f x) - 1)))
      ∧ lanes (.vfmul d a b m t) (fun x y _ r =>
        (InfIn f x → ZeroIn md f y → r = canonicalNan f)
        ∧ (InfIn f x → NormalIn f y → r = signedInf f (xor (signBit f x) (signBit f y))))
      ∧ lanes (.vrcp d a m t) (fun x _ _ r => (ZeroIn md f x → r = signedInf f (signBit f x))
        ∧ (InfIn f x → r = signedZero f (signBit f x)))
      ∧ lanes (.vlog2 d a m t) (fun x _ _ r => ZeroIn md f x → r = signedInf f true)
      ∧ lanes (.vrsq d a m t) (fun x _ _ r => ZeroIn md f x → r = signedInf f (signBit f x))
      ∧ lanes (.vsin d a m t) (fun x _ _ r => InfIn f x → r = canonicalNan f)
      ∧ lanes (.vcos d a m t) (fun x _ _ r => InfIn f x → r = canonicalNan f))
    ∧ (Completes (.vfcmp d a b m t cond) s fun u => ∀ j, j < 256 / w → (s.ctx.k m).getLsbD j = true → d.toNat % 8 ≠ 0 →
        (NanIn f (lane w j (s.ctx.v a)).toNat ∨ NanIn f (lane w j (s.ctx.v b)).toNat) →
        (u.ctx.k (d.truncate 3)).getLsbD j = decide (cond.toNat = 1 ∨ cond.toNat = 6)))

/-- VX (R193, R206 to R209): the moves by lanes, with VSHUF's and VPERM's indexes modulo their lane counts; VCVT
converts the lanes that both registers have and zeroes the rest of v[d]; VQNT writes the codes of R193 and the
scale word, zero codes and scale 255 where an element is not finite; VDQ writes four registers. Values by R185 to R189 and
R209: a converted NaN, infinity and zero, an integer out of range; a block of zeros; a scale of 255. -/
def Obligations.VectorMovesAndConversions : Prop :=
  (∀ (s : State) (d a b f ln : BitVec 5) (m t : BitVec 3),
    let w := 8 * 2 ^ (t.toNat % 4)
    let n := 256 / w
    let X (i : Nat) : BitVec w := lane w i (s.ctx.v a)
    let Y (i : Nat) : BitVec w := lane w i (s.ctx.v b)
    let Z (i : Nat) : BitVec w := lane w i (s.ctx.v d)
    (Completes (.vshuf d a b m t) s fun u =>
        WritesLanes s u d m w (fun i x => x = X ((Y i).toNat % n)) ∧ KeepsUser s u)
    ∧ (Completes (.vperm d a b m t) s fun u => WritesLanes s u d m w (fun i x =>
        x = if (Y i).toNat % (2 * n) < n then X ((Y i).toNat % (2 * n)) else Z ((Y i).toNat % (2 * n) - n))
        ∧ KeepsUser s u)
    ∧ (Completes (.vbc d a m t) s fun u => WritesLanes s u d m w (fun _ x => x = (gv s a).setWidth w) ∧ KeepsUser s u)
    ∧ Completes (.vext d a ln t) s (fun u => WritesG s u d ((X ln.toNat).signExtend 64))
    ∧ (∃ x : VReg, Completes (.vins d a ln t) s (fun u => WritesV s u d x)
      ∧ ∀ i, i < n → lane w i x = if i = ln.toNat then (gv s a).setWidth w else Z i)
    ∧ Completes (.vmovk d a) s (fun u => WritesK s u (d.truncate 3) ((gv s a).truncate 32))
    ∧ (let si := b.getLsbD 3
       let di := b.getLsbD 4
       let ws := typeWidth si (b.truncate 3)
       let wd := typeWidth di t
       Completes (.vcvt d a b m t) s fun u => ∃ x, WritesWhole s u d x
        ∧ ∀ i, i < 256 / wd →
          (256 / ws ≤ i → lane wd i (u.ctx.v d) = 0)
          ∧ (i < 256 / ws →
            if (s.ctx.k m).getLsbD (if wd = 4 ∧ ws = 4 then i / 2 else i) then
              ∃ st : FEnv, st.md = s.ctx.user.fmode ∧ lane wd i (u.ctx.v d) =
                BitVec.ofNat wd (convert st si (b.truncate 3) di t (lane ws i (s.ctx.v a)).toNat).1
            else lane wd i (u.ctx.v d) = lane wd i (s.ctx.v d)))
    ∧ (let xs := (List.range 32).map fun i =>
         fread s.ctx.user.fmode .fp32 (lane 32 (i % 8) (s.ctx.v (a + BitVec.ofNat 5 (i / 8)))).toNat
       let q := quantise (envNow s) (fmtOf t) xs
       Completes (.vqnt d a f t) s fun u => SetsV s u d (BitVec.ofNat 256 (packLanes (fmtOf t).width q.1))
        ∧ (∀ r, u.ctx.f r = if r.toNat % 16 = f.toNat % 16 then BitVec.ofNat 64 (q.2.1 + 256 * q.2.2.1) else s.ctx.f r)
        ∧ u.ctx.user.lfsr = lfsrStep s.ctx.user.lfsr ∧ KeepsG s u ∧ KeepsK s u ∧ KeepsQ s u ∧ KeepsRest s u
        ∧ Advances s u
        ∧ ((∃ x ∈ xs, ∀ neg mant e, x ≠ .fin neg mant e) →
          u.ctx.v d = 0 ∧ u.ctx.f f = 255 ∧ u.ctx.user.fflags = s.ctx.user.fflags ||| 16))
    ∧ (let ys := (dequantAll (fmtOf t) ((s.ctx.f f).toNat % 256) ((s.ctx.f f).toNat / 256 % 256)
         ((List.range 32).map fun i => (lane (fmtOf t).width i (s.ctx.v a)).toNat) (envNow s)).1
       Completes (.vdq d a f t) s fun u =>
        (∀ i, i < 32 → (lane 32 (i % 8) (u.ctx.v (d + BitVec.ofNat 5 (i / 8)))).toNat = ys.getD i 0 % 2 ^ 32)
        ∧ (∀ r : BitVec 5, (∀ i, i < 4 → r ≠ d + BitVec.ofNat 5 i) → u.ctx.v r = s.ctx.v r)
        ∧ KeepsG s u ∧ KeepsF s u ∧ KeepsK s u ∧ KeepsQ s u ∧ KeepsRest s u ∧ Advances s u))
  ∧ (∀ (s : State) (d a b f : BitVec 5) (m t : BitVec 3),
    let md := s.ctx.user.fmode
    let sc : BitVec 3 := b.truncate 3
    let si := b.getLsbD 3
    let di := b.getLsbD 4
    let ws := typeWidth si sc
    let wd := typeWidth di t
    let fs := fmtOf sc
    let fd := fmtOf t
    let lanes (P : Nat → Nat → Prop) : Prop :=
      Completes (.vcvt d a b m t) s fun u => ∀ j, j < 256 / ws → j < 256 / wd → (s.ctx.k m).getLsbD j = true →
        ¬(wd = 4 ∧ ws = 4) → P (lane ws j (s.ctx.v a)).toNat (lane wd j (u.ctx.v d)).toNat
    let source : List Nat := (List.range 32).map fun j => (lane 32 (j % 8) (s.ctx.v (a + BitVec.ofNat 5 (j / 8)))).toNat
    (si = false → di = false → sc.toNat < 6 → t.toNat < 4 →
      lanes fun x r => (NanIn fs x → md.getLsbD 4 = true → r = canonicalNan fd) ∧ (InfIn fs x → r = signedInf fd (signBit fs x))
        ∧ (ZeroIn md fs x → r = signedZero fd (signBit fs x)))
    ∧ (si = false → di = true → sc.toNat < 4 →
      lanes fun x r => (NanIn fs x → r = 0) ∧ (ZeroIn md fs x → r = 0)
        ∧ (InfIn fs x → r = if t.toNat < 4 then (if signBit fs x then 2 ^ (wd - 1) else 2 ^ (wd - 1) - 1)
            else if signBit fs x then 0 else 2 ^ wd - 1))
    ∧ (si = true → di = false → lanes fun x r => x = 0 → r = 0)
    ∧ (si = true → di = true → lanes fun x r =>
        let v : Int := if sc.toNat < 4 then (BitVec.ofNat ws x).toInt else x
        let lo : Int := if t.toNat < 4 then -2 ^ (wd - 1) else 0
        let hi : Int := if t.toNat < 4 then 2 ^ (wd - 1) - 1 else 2 ^ wd - 1
        r = (BitVec.ofInt wd (max lo (min hi v))).toNat)
    ∧ (4 ≤ t.toNat → (∀ x ∈ source, ZeroIn md .fp32 x) → Completes (.vqnt d a f t) s fun u => u.ctx.f f = 127
        ∧ ∀ j, j < 32 → (lane fd.width j (u.ctx.v d)).toNat =
          if fd = .e2m1 then 0 else signedZero fd (signBit .fp32 (source.getD j 0)))
    ∧ ((s.ctx.f f).toNat % 256 = 255 → Completes (.vdq d a f t) s fun u => u.ctx.user.fflags = s.ctx.user.fflags
        ∧ ∀ j, j < 32 → (lane 32 (j % 8) (u.ctx.v (d + BitVec.ofNat 5 (j / 8)))).toNat = 0x7FC00000))

/-- Reductions (R197, R205): an integer sum is the exact sum of the included lanes, saturated to 64 bits of the
type's sign with OF; an integer extreme is an included lane that bounds the others; a floating one follows the
tree of R197, lane by lane and level by level, with the sums and the order of O30 on the elements as FTZ reads them (R187);
one included lane passes through, and with nothing included the result is zero. All of v[d] is written. Under RS, where the
LFSR's state goes from pair to pair, a value is written. R197's own example gives 2^24 + 2. VDOT (R194, R210): the
accumulator element of v[d] takes the dot product of the included elements, and the other bits of v[d] stay. With pair 5 it
is the exact sum, saturated to i32 with OF; the floating pairs follow R194. Its values by R188 and R194: with no element
included the accumulator takes a zero of the block, a NaN accumulator stays NaN, and a scale of 255 gives the canonical
NaN. -/
def Obligations.ReductionsAndDotProducts : Prop :=
  (∀ (s : State) (d a : BitVec 5) (m t : BitVec 3),
      let w := 8 * 2 ^ (t.toNat % 4)
      let val (x : BitVec w) : Int := if t.toNat < 4 then x.toInt else x.toNat
      let on (n : Nat) : List Nat := (List.range n).filter fun i => (s.ctx.k m).getLsbD i
      let xs : List Int := (on (256 / w)).map fun i => val (lane w i (s.ctx.v a))
      let lo : Int := if t.toNat < 4 then -2 ^ 63 else 0
      let hi : Int := if t.toNat < 4 then 2 ^ 63 - 1 else 2 ^ 64 - 1
      let word (x : Int) : Nat := (BitVec.ofInt 64 x).toNat
      let md := s.ctx.user.fmode
      let f := fmtOf t
      let fw := f.width
      let read (x : Nat) : Nat :=
        if expBits f x = 0 ∧ manBits f x ≠ 0 ∧ ftz md f = true then signedZero f (signBit f x) else x
      let leaf (i : Nat) : Option Nat := if i < 256 / fw ∧ (s.ctx.k m).getLsbD i = true then
        some (read (lane fw i (s.ctx.v a)).toNat) else none
      let float (i : Instr) (g : FEnv → FVal → FVal → Nat) : Prop :=
        (on (256 / fw) = [] → Completes i s fun u => WritesWhole s u d 0)
        ∧ (∀ j, on (256 / fw) = [j] → Completes i s fun u => WritesWhole s u d (read (lane fw j (s.ctx.v a)).toNat))
        ∧ (rmOf md ≠ .rs → Completes i s fun u => WritesWhole s u d
            ((treeNode (fun x y => g { md := md, lfsr := 0, flags := 0 } (fread md f x) (fread md f y)) leaf
              (Nat.log2 (256 / fw)) 0).getD 0))
        ∧ (∃ x, Completes i s fun u => WritesWhole s u d x)
      (Completes (.vrsum d a m t 1) s fun u => WritesWhole s u d (word (max lo (min hi xs.sum)))
        ∧ u.ctx.user.fflags = s.ctx.user.fflags ||| (if lo ≤ xs.sum ∧ xs.sum ≤ hi then 0 else 4))
      ∧ (xs = [] → Completes (.vrmax d a m t 1) s (fun u => WritesWhole s u d 0)
          ∧ Completes (.vrmin d a m t 1) s fun u => WritesWhole s u d 0)
      ∧ (xs ≠ [] → (∃ x ∈ xs, (∀ y ∈ xs, y ≤ x) ∧ Completes (.vrmax d a m t 1) s fun u => WritesWhole s u d (word x))
          ∧ (∃ x ∈ xs, (∀ y ∈ xs, x ≤ y) ∧ Completes (.vrmin d a m t 1) s fun u => WritesWhole s u d (word x)))
      ∧ (t.toNat < 6 → float (.vrsum d a m t 0) (fun st x y => (fadd st f x y).1)
        ∧ float (.vrmax d a m t 0) (fun st x y => (fminmax st f true x y).1)
        ∧ float (.vrmin d a m t 0) (fun st x y => (fminmax st f false x y).1))
      ∧ (t = 1 → rmOf md = .rne → on 8 = [0, 1, 2, 3] → lane 32 0 (s.ctx.v a) = 0x4B800000 →
        (∀ i, 1 ≤ i → i ≤ 3 → lane 32 i (s.ctx.v a) = 0x3F800000) →
        Completes (.vrsum d a m t 0) s fun u => WritesWhole s u d 0x4B800001))
  ∧ (∀ (s : State) (p m : BitVec 3) (d a b : BitVec 5) (c : BitVec 4),
      let w := if p = 7 then 64 else 32
      let sum : Int := (lane 32 0 (s.ctx.v d)).toInt
        + ((List.range 32).map fun i => if (s.ctx.k m).getLsbD i then
            (lane 8 i (s.ctx.v a)).toInt * (lane 8 i (s.ctx.v b)).toInt else 0).sum
      let md := s.ctx.user.fmode
      let facc : FFmt := if p = 7 then .fp64 else .fp32
      let acc := (s.ctx.v d).toNat % 2 ^ w
      Completes (.vdot p d a b c m) s fun u => ∃ x, WritesWhole s u d x
        ∧ (∀ i, w ≤ i → (u.ctx.v d).getLsbD i = (s.ctx.v d).getLsbD i)
        ∧ (p = 5 → lane 32 0 (u.ctx.v d) = BitVec.ofInt 32 (max (-2 ^ 31) (min (2 ^ 31 - 1) sum))
            ∧ u.ctx.user.fflags = s.ctx.user.fflags ||| (if -2 ^ 31 ≤ sum ∧ sum < 2 ^ 31 then 0 else 4))
        ∧ (p ≠ 5 → lane w 0 (u.ctx.v d) = BitVec.ofNat w (dotOne p ((List.range (pairCount p)).map fun i =>
            (s.ctx.k m).getLsbD i) (s.ctx.v a).toNat (s.ctx.v b).toNat acc
            (s.ctx.f (c.zeroExtend 5)) (s.ctx.f (c.zeroExtend 5 + 1)) (envNow s)).1)
        ∧ (p ≠ 5 → NanIn facc acc → (lane w 0 (u.ctx.v d)).toNat = nanResult md facc acc)
        ∧ (p.toNat < 4 → ¬NanIn facc acc →
            ((s.ctx.f (c.zeroExtend 5)).toNat % 256 = 255 ∨ (s.ctx.f (c.zeroExtend 5 + 1)).toNat % 256 = 255) →
            (lane w 0 (u.ctx.v d)).toNat = canonicalNan facc)
        ∧ (4 ≤ p.toNat → p ≠ 5 → (∀ i, i < pairCount p → (s.ctx.k m).getLsbD i = false) → NormalIn facc acc →
            (lane w 0 (u.ctx.v d)).toNat = acc))

/-- Long instructions at issue (R191, R213, R218 to R222): with a place in the LVU queue, each joins it with its
pieces and the operands it takes; QXV and QR make v[d] pending; VLONG and VSHORT switch the mode. Long accesses
at issue (R129, R237, R262): once every element has passed its checks, in order, and with fewer than 64 requests of the core
outstanding, the access joins the queue with the places of its elements: element i of QLD and QST at g[a] + i × g[b], of QGAT and QSCT at g[a] plus its signed
index times the element size. -/
def Obligations.LongInstructionsEnqueue : Prop :=
  (∀ (s : State) (d a b : BitVec 5) (t cond p : BitVec 3) (z : BitVec 2) (c : BitVec 4) (int : BitVec 1),
      s.core.lvu.length < 16 →
      let joins (i : Instr) : Prop :=
        Completes i s fun u => Enqueues s u i (fun e => e.pieces = 32 ∧ e.left = 32) ∧ KeepsContext s u
      let reduces (i : Instr) : Prop :=
        Completes i s fun u => Enqueues s u i (fun e => e.pieces = 32 ∧ e.left = 32) ∧ u.ctx.isPending (.v d) = true
      (Completes .vlong s fun u => Enqueues s u .vlong (fun e => e.left = 0) ∧ u.ctx.longMode = true)
      ∧ (Completes .vshort s fun u => Enqueues s u .vshort (fun e => e.left = 0) ∧ u.ctx.longMode = false)
      ∧ joins (.qmov d a)
      ∧ (Completes (.qsplat d a z) s fun u => Enqueues s u (.qsplat d a z) fun e => e.pieces = 32 ∧ e.ga = gv s a)
      ∧ (Completes (.qxv d a b) s fun u => Enqueues s u (.qxv d a b) (fun e => e.pieces = 1 ∧ e.gb = gv s b)
          ∧ u.ctx.isPending (.v d) = true)
      ∧ (Completes (.qxq d a b) s fun u => Enqueues s u (.qxq d a b) fun e =>
          e.pieces = 1 ∧ e.gb = gv s b ∧ e.va = s.ctx.v a)
      ∧ joins (.qfadd d a b t) ∧ joins (.qfmul d a b t) ∧ joins (.qfma d a b t) ∧ joins (.qfmin d a b t)
      ∧ joins (.qfmax d a b t) ∧ joins (.qcvt d a b t) ∧ joins (.qsel d a b t) ∧ joins (.qfcmp d a b t cond)
      ∧ joins (.qadd d a b t) ∧ joins (.qsub d a b t) ∧ joins (.qmul d a b t) ∧ joins (.qand d a b t)
      ∧ joins (.qor d a b t) ∧ joins (.qxor d a b t) ∧ joins (.qshl d a b t) ∧ joins (.qshr d a b t)
      ∧ joins (.qmin d a b t) ∧ joins (.qmax d a b t) ∧ joins (.qcmp d a b t cond)
      ∧ reduces (.qrsum d a t int) ∧ reduces (.qrmax d a t int) ∧ reduces (.qrmin d a t int)
      ∧ (Completes (.qdot p d a b c) s fun u => Enqueues s u (.qdot p d a b c) fun e => e.pieces = 32
          ∧ e.fa = s.ctx.f (c.zeroExtend 5) ∧ e.fb = s.ctx.f (c.zeroExtend 5 + 1))
      ∧ (Completes (.qdop d a b) s fun u => Enqueues s u (.qdop d a b) fun e => e.pieces = 1 ∧ e.left = 1))
  ∧ (∀ (s s1 : State) (q a b : BitVec 5) (z : BitVec 2) (ps : List Place), s.core.lvu.length < 16 →
      let zb : Nat := 2 ^ z.toNat
      let strided : List Word := (List.range (2048 / zb)).map fun i => gv s a + BitVec.ofNat 64 i * gv s b
      let gathered : List Word := (List.range (min 512 (2048 / zb))).map fun i =>
        gv s a + BitVec.ofNat 64 zb * (longLane 32 i (s.ctx.q b)).signExtend 64
      let enters (i : Instr) : Prop :=
        outstanding s1 < 64 → Completes i s fun u =>
          Enqueues s1 u i (fun e => e.pieces = 32 ∧ e.left = 32 ∧ e.places = ps) ∧ (∀ r, gv s1 r = gv s r) ∧ KeepsMemory s u
      let stable := writesQ (BitVec.ofNat 4 s.core.cur.val) b s.core.lvu = false
      (checkElems .read zb (spanLocked s strided zb false) strided s = (s1, .ok ps) → (∀ p ∈ ps, p.layout ≠ 2) →
        enters (.qld q a b z))
      ∧ (checkElems .write zb (spanLocked s strided zb true) strided s = (s1, .ok ps) → enters (.qst q a b z))
      ∧ (stable → checkElems .read zb (spanLocked s gathered zb false) gathered s = (s1, .ok ps) →
        (∀ p ∈ ps, p.layout ≠ 2) → enters (.qgat q a b z))
      ∧ (stable → checkElems .write zb (spanLocked s gathered zb true) gathered s = (s1, .ok ps) →
        enters (.qsct q a b z)))

/-- LVU_ENTRY_COMPLETE and LVU_ARBITRATION (R211 to R214, R218 to R222, R262): the oldest entry, its pieces
assigned, leaves the queue with its effect on its context's partition; other contexts' q registers stay. Every long form has
its clause: the element-wise forms compute each element from the elements of the same number, under the entry's own copy of
FMODE; a compare gives all ones or zero; a reduction writes v[d] by the tree of R197 and ends its pending bit; QDOT adds 64
dot products strip by strip, and QDOP 4 × 64 fused products; a long load fills q[d] from its places and zeroes the
rest; a long store writes its elements in increasing number, the last on a byte standing, and no other byte. An
arbitration cycle of this core alone takes eight pieces of the head, or what is left of it. -/
def Obligations.LongEntriesComplete : Prop :=
  ∀ (s : State) (e : LvuEntry) (rest : List LvuEntry) (j : Fin 11), s.core.lvu = e :: rest →
    e.slot.toNat = j.val → (s.at j).framed = false →
    let run (P : State → Prop) : Prop :=
      s.event = some .lvuEntryComplete → e.left = 0 →
      Completes .lvuEntryComplete s fun t => t.core.lvu = rest ∧ (∀ i, i ≠ j → (t.at i).regs.q = (s.at i).regs.q) ∧ P t
    let done (P : State → Prop) : Prop := run fun t => KeepsMemory s t ∧ P t
    let md := e.mode
    let env : FEnv := { md := md, lfsr := 0, flags := 0 }
    let Q (r : BitVec 5) : QReg := (s.at j).q r
    let others (t : State) (d : BitVec 5) : Prop := ∀ r : BitVec 5, r.toNat % 16 ≠ d.toNat % 16 → (t.at j).q r = Q r
    let lanes (d : BitVec 5) (w : Nat) (P : Nat → BitVec w → Prop) : Prop :=
      done fun t => others t d ∧ ∀ i, i < 16384 / w → P i (longLane w i ((t.at j).q d))
    let pairwise (d a b : BitVec 5) (t : BitVec 3)
        (f : BitVec (8 * 2 ^ (t.toNat % 4)) → BitVec (8 * 2 ^ (t.toNat % 4)) → BitVec (8 * 2 ^ (t.toNat % 4))) : Prop :=
      lanes d (8 * 2 ^ (t.toNat % 4)) fun i x => x = f (longLane _ i (Q a)) (longLane _ i (Q b))
    let val (t : BitVec 3) (x : BitVec (8 * 2 ^ (t.toNat % 4))) : Int := if t.toNat < 4 then x.toInt else x.toNat
    let float (d a b : BitVec 5) (t : BitVec 3) (op : FltOp) : Prop :=
      lanes d (fmtOf t).width fun i x => ∃ st : FEnv, st.md = md ∧ x = BitVec.ofNat _ (fltLane op (fmtOf t) st
        (longLane (fmtOf t).width i (Q a)).toNat (longLane (fmtOf t).width i (Q b)).toNat
        (longLane (fmtOf t).width i (Q d)).toNat).1
    let reduces (d : BitVec 5) (x : Nat) : Prop :=
      done fun t => (t.at j).v d = BitVec.ofNat 256 x ∧ (t.at j).isPending (.v d) = false ∧ ∀ r, (t.at j).q r = Q r
    let floatTree (d a : BitVec 5) (t : BitVec 3) (g : FVal → FVal → Nat) : Prop :=
      let f := fmtOf t
      let n := 16384 / f.width
      let read (x : Nat) : Nat :=
        if expBits f x = 0 ∧ manBits f x ≠ 0 ∧ ftz md f = true then signedZero f (signBit f x) else x
      t.toNat < 6 → rmOf md ≠ .rs → reduces d ((treeNode (fun x y => g (fread md f x) (fread md f y))
        (fun i => if i < n then some (read (longLane f.width i (Q a)).toNat) else none) (Nat.log2 n) 0).getD 0)
    let elements (a : BitVec 5) (t : BitVec 3) : List Int :=
      (List.range (16384 / (8 * 2 ^ (t.toNat % 4)))).map fun i => val t (longLane _ i (Q a))
    let word (x : Int) : Nat := (BitVec.ofInt 64 x).toNat
    let sound (zb : Nat) : Prop := s.hw.leases = [] ∧ ∀ p ∈ e.places, isSystemSpace p.pa = false
      ∧ physExists s p.pa p.layout = true ∧ eccBad s p.pa zb = false
    let loads (d : BitVec 5) (zb : Nat) : Prop :=
      sound zb → e.places.length ≤ 2048 / zb → done fun t => others t d ∧ ∀ k, k < 2048 / zb →
        (longLane (8 * zb) k ((t.at j).q d)).toNat = ((e.places.map fun p => readNat s p.pa zb).getD k 0)
    let stores (q : BitVec 5) (zb : Nat) : Prop :=
      sound zb → Memory.wf s.mem = true → s.cluster.locks = [] → s.cluster.lost = [] →
      (∀ m ∈ s.agenda, ∀ a n, m ≠ .lockRetry a n) → e.places.length ≤ 2048 / zb →
      run fun t => (∀ r, (t.at j).q r = Q r)
        ∧ (∀ a, (∀ p ∈ e.places, a < p.pa ∨ p.pa + zb ≤ a) → Memory.get t.mem a = Memory.get s.mem a)
        ∧ (∀ k p, e.places[k]? = some p →
          (∀ k' p', k < k' → e.places[k']? = some p' → p'.pa + zb ≤ p.pa ∨ p.pa + zb ≤ p'.pa) →
          readNat t p.pa zb = (longLane (8 * zb) k (Q q)).toNat)
    (e.instr = .vlong → done fun t => ∀ r, (t.at j).q r = 0)
    ∧ (e.instr = .vshort → done fun _ => True)
    ∧ (∀ d a, e.instr = .qmov d a → done fun t => others t d ∧ (t.at j).q d = Q a)
    ∧ (∀ d a z, e.instr = .qsplat d a z → lanes d (8 * 2 ^ z.toNat) fun _ x => x = e.ga.setWidth _)
    ∧ (∀ d a b, e.instr = .qxv d a b → done fun t => (∀ r, (t.at j).q r = Q r)
        ∧ (t.at j).v d = longLane 256 (e.gb.toNat % 64) (Q a) ∧ (t.at j).isPending (.v d) = false)
    ∧ (∀ d a b, e.instr = .qxq d a b → lanes d 256 fun i x => x = if i = e.gb.toNat % 64 then e.va else longLane 256 i (Q d))
    ∧ (∀ d a b t, (e.instr = .qfadd d a b t → float d a b t .add) ∧ (e.instr = .qfmul d a b t → float d a b t .mul)
        ∧ (e.instr = .qfma d a b t → float d a b t .fma) ∧ (e.instr = .qfmin d a b t → float d a b t .min)
        ∧ (e.instr = .qfmax d a b t → float d a b t .max))
    ∧ (∀ d a b t, e.instr = .qcvt d a b t →
        let ws := typeWidth (b.getLsbD 3) (b.truncate 3)
        lanes d (typeWidth (b.getLsbD 4) t) fun i x => (16384 / ws ≤ i → x = 0) ∧ (i < 16384 / ws → ∃ st : FEnv, st.md = md
          ∧ x = BitVec.ofNat _ (convert st (b.getLsbD 3) (b.truncate 3) (b.getLsbD 4) t (longLane ws i (Q a)).toNat).1))
    ∧ (∀ d a b t, e.instr = .qsel d a b t → lanes d (fmtOf t).width fun i x =>
        x = if longLane (fmtOf t).width i (Q d) ≠ 0 then longLane _ i (Q a) else longLane _ i (Q b))
    ∧ (∀ d a b t cond, e.instr = .qfcmp d a b t cond → lanes d (fmtOf t).width fun i x =>
        x = if (fcond env cond.toNat (fread md (fmtOf t) (longLane (fmtOf t).width i (Q a)).toNat)
          (fread md (fmtOf t) (longLane (fmtOf t).width i (Q b)).toNat)).1 then BitVec.allOnes _ else 0)
    ∧ (∀ d a b t, (e.instr = .qadd d a b t → pairwise d a b t fun x y => x + y)
        ∧ (e.instr = .qsub d a b t → pairwise d a b t fun x y => x - y)
        ∧ (e.instr = .qmul d a b t → pairwise d a b t fun x y => x * y)
        ∧ (e.instr = .qand d a b t → pairwise d a b t fun x y => x &&& y)
        ∧ (e.instr = .qor d a b t → pairwise d a b t fun x y => x ||| y)
        ∧ (e.instr = .qxor d a b t → pairwise d a b t fun x y => x ^^^ y)
        ∧ (e.instr = .qshl d a b t → pairwise d a b t fun x y => x <<< (y.toNat % (8 * 2 ^ (t.toNat % 4))))
        ∧ (e.instr = .qshr d a b t → pairwise d a b t fun x y =>
          if t.toNat < 4 then x.sshiftRight (y.toNat % (8 * 2 ^ (t.toNat % 4))) else x >>> (y.toNat % (8 * 2 ^ (t.toNat % 4))))
        ∧ (e.instr = .qmin d a b t → pairwise d a b t fun x y => if val t x ≤ val t y then x else y)
        ∧ (e.instr = .qmax d a b t → pairwise d a b t fun x y => if val t x ≤ val t y then y else x))
    ∧ (∀ d a b t cond, e.instr = .qcmp d a b t cond → pairwise d a b t fun x y =>
        if [decide (val t x = val t y), decide (val t x ≠ val t y), decide (val t x < val t y), decide (val t y ≤ val t x),
          decide (val t x ≤ val t y), decide (val t y < val t x)].getD cond.toNat (decide (val t y < val t x)) then BitVec.allOnes _
        else 0)
    ∧ (∀ d a t, e.instr = .qrsum d a t 1 →
        let lo : Int := if t.toNat < 4 then -2 ^ 63 else 0
        let hi : Int := if t.toNat < 4 then 2 ^ 63 - 1 else 2 ^ 64 - 1
        reduces d (word (max lo (min hi (elements a t).sum))))
    ∧ (∀ d a t, e.instr = .qrmax d a t 1 →
        ∃ x ∈ elements a t, (∀ y ∈ elements a t, y ≤ x) ∧ reduces d (word x))
    ∧ (∀ d a t, e.instr = .qrmin d a t 1 →
        ∃ x ∈ elements a t, (∀ y ∈ elements a t, x ≤ y) ∧ reduces d (word x))
    ∧ (∀ d a t, (e.instr = .qrsum d a t 0 → floatTree d a t fun x y => (fadd env (fmtOf t) x y).1)
        ∧ (e.instr = .qrmax d a t 0 → floatTree d a t fun x y => (fminmax env (fmtOf t) true x y).1)
        ∧ (e.instr = .qrmin d a t 0 → floatTree d a t fun x y => (fminmax env (fmtOf t) false x y).1)
        ∧ (e.instr = .qrsum d a t 0 ∨ e.instr = .qrmax d a t 0 ∨ e.instr = .qrmin d a t 0 → ∃ x, reduces d x))
    ∧ (∀ p d a b c, e.instr = .qdot p d a b c →
        let w := if p = 7 then 64 else 32
        done fun t => others t d ∧ (∀ i, 64 * w ≤ i → ((t.at j).q d).getLsbD i = (Q d).getLsbD i)
          ∧ ∀ i, i < 64 →
            (∃ st : FEnv, st.md = md ∧ longLane w i ((t.at j).q d) = BitVec.ofNat w (dotOne p
              (List.replicate (pairCount p) true) (longLane 256 i (Q a)).toNat (longLane 256 i (Q b)).toNat
              (longLane w i (Q d)).toNat e.fa e.fb st).1)
            ∧ (p = 5 → longLane 32 i ((t.at j).q d) = BitVec.ofInt 32 (max (-2 ^ 31) (min (2 ^ 31 - 1)
              ((longLane 32 i (Q d)).toInt + ((List.range 32).map fun k =>
                (longLane 8 (32 * i + k) (Q a)).toInt * (longLane 8 (32 * i + k) (Q b)).toInt).sum)))))
    ∧ (∀ d a b, e.instr = .qdop d a b → lanes d 64 fun i x => ∃ st : FEnv, st.md = md ∧ x = BitVec.ofNat 64 (ffma st .fp64
        (fread md .fp64 (longLane 64 (i / 64) (Q a)).toNat) (fread md .fp64 (longLane 64 (i % 64) (Q b)).toNat)
        (fread md .fp64 (longLane 64 i (Q d)).toNat)).1)
    ∧ (∀ d a b z, (e.instr = .qld d a b z → loads d (2 ^ z.toNat)) ∧ (e.instr = .qgat d a b z → loads d (2 ^ z.toNat))
        ∧ (e.instr = .qst d a b z → stores d (2 ^ z.toNat)) ∧ (e.instr = .qsct d a b z → stores d (2 ^ z.toNat)))
    ∧ (∀ array, s.event = some (.lvuArbitration [] array) → 0 < e.left → e.isDop = false → rest = [] →
        Completes .lvuArbitration s fun t => t.core.lvu = [{ e with left := e.left - 8 }] ∧ KeepsMemory s t
          ∧ (∀ i, (t.at i).regs = (s.at i).regs))

/-- Copies at issue (R246, R264 to R268, R270): a copy that fails a check of R265 writes its token at once, one
of no byte ends at once, and any other joins the cluster queue with its two range locks, or with that of its source
where it goes to a launch port (R38). CPY2, CPY3 and CPYI
read their descriptor first, and CPYRS the block it starts at. -/
def Obligations.CopiesAtIssue : Prop :=
  ∀ (s : State) (d a b c : BitVec 5), jobStall s = false →
    let geo (fn : BitVec 3) (ctl : Word) (x : Nat) : Geo := { fn := fn, dst := gv s a, src := gv s b, ctl := ctl, desc := x }
    let locksOf (t : State) (g : Geo) : List (Word × Word × Bool) :=
      if launchPort g.dst then [spanLock t g.spans.1 false]
      else [spanLock t g.spans.1 false, spanLock t g.spans.2 true]
    let plain (i : Instr) (fn : BitVec 3) : Prop :=
      let g := geo fn (gv s c) 0
      (∀ detail, g.refusal s s.ctx.level = some detail → Completes i s fun t => WritesG s t d (tokenWord 1 detail 0))
      ∧ (g.refusal s s.ctx.level = none → g.total = 0 → Completes i s fun t => WritesG s t d 0)
      ∧ (g.refusal s s.ctx.level = none → g.total ≠ 0 → (locksOf s g).length ≤ lockRoom s →
          Completes i s fun t =>
            QueuesJob s t d (.copy fn (gv s a) (gv s b) (gv s c) 0 0) (locksOf s g) ∧ Msg.copyStart ∈ t.agenda)
    let described (i : Instr) (fn : BitVec 3) : Prop :=
      ((gv s c).toNat % 64 ≠ 0 → Completes i s fun t => WritesG s t d (tokenWord 1 1 0))
      ∧ (∀ (s1 : State) (x : Nat), (gv s c).toNat % 64 = 0 → engReadNow s (gv s c) 64 = .ok s1 x →
          (geo fn (gv s c) x).refusal s1 s.ctx.level = none → (geo fn (gv s c) x).total ≠ 0 →
          (locksOf s1 (geo fn (gv s c) x)).length ≤ lockRoom s →
          Completes i s fun t =>
            QueuesJob s t d (.copy fn (gv s a) (gv s b) (gv s c) (BitVec.ofNat 512 x) 0) (locksOf s1 (geo fn (gv s c) x))
              ∧ Msg.copyStart ∈ t.agenda)
    plain (.cpy d a b c) 0 ∧ plain (.cpyr d a b c) 4
    ∧ described (.cpy2 d a b c) 1 ∧ described (.cpy3 d a b c) 2 ∧ described (.cpyi d a b c) 3
    ∧ ((gv s c).toNat % 16 ≠ 0 → Completes (.cpyrs d a b c) s fun t => WritesG s t d (tokenWord 1 1 0))
    ∧ (∀ (s1 : State) (x : Nat), (gv s c).toNat % 16 = 0 → engReadNow s (gv s c) 16 = .ok s1 x →
        x / 2 ^ 32 % 2 ^ 32 = 0 →
        let g := geo 0 (BitVec.ofNat 64 (x / 2 ^ 64 % 2 ^ 64)) 0
        g.refusal s1 s.ctx.level = none → g.total ≠ 0 → (locksOf s1 g).length ≤ lockRoom s →
        Completes (.cpyrs d a b c) s fun t =>
          QueuesJob s t d (.copy 0 (gv s a) (gv s b) g.ctl 0 (x % 2 ^ 32)) (locksOf s1 g) ∧ Msg.copyStart ∈ t.agenda)

/-- Copies in the queue (R131, R245 to R248, R264 to R270): COPY_START starts a waiting copy while fewer than 16 are in
flight; a copy that has moved all its blocks leaves with its locks and gives its token, and one that meets a fault gives the
blocks moved before it. What it moves, for CPY, CPY2, CPY3 and CPYI, and for CPYRS from the byte it starts at: source byte i
in copy order lands at destination byte i, a padding byte as zero, the later of two on one byte standing; CPYR adds each
element into its destination; every other byte of memory is as before.
CPYR_ACK_TIMEOUT applies the acknowledged blocks of a reducing copy, in copy order, and nothing after them, and ends it with
UNREACH and their number: that the event names the number, and that these blocks are applied as it comes, is the model's
choice (log 66). -/
def Obligations.CopiesRunToTheirToken : Prop :=
  ∀ (s : State) (j : Job) (fn : BitVec 3) (dst src ctl : Word) (desc : BitVec 512) (start : Nat) (i : Fin 11),
    j.op = .copy fn dst src ctl desc start →
    let g : Geo := { fn := fn, dst := dst, src := src, ctl := ctl, desc := desc.toNat }
    let total := (g.total + 63) / 64
    let env : FEnv := { md := j.mode, lfsr := j.seed, flags := j.flags }
    let ends (t : State) (status detail count : Nat) : Prop :=
      (∀ x ∈ t.cluster.jobs, x.id ≠ j.id) ∧ (∀ r ∈ t.cluster.ranges, r.owner ≠ j.id)
        ∧ GivesToken t i j.token (tokenWord status detail count)
    (s.event = some .copyStart → s.cluster.jobs = [j] → j.started = false →
      Completes .copyStart s fun t => t.cluster.jobs = [{ j with started := true, startRef := s.clock.ref }]
        ∧ Msg.copyComplete j.id ∈ t.agenda ∧ KeepsMemory s t)
    ∧ (s.event = some (.copyComplete j.id) → (s.cluster.jobs.find? fun x => x.id == j.id) = some j →
        launchPort dst = false → start < total →
        (∀ s1 st, copyBlocks j g (total - start) start s env = .done s1 st → localSlot s1 j.who = some i →
          (s1.at i).framed = false →
          Completes .copyComplete s fun t => ends t 0 0 total ∧ t.mem = s1.mem)
        ∧ (∀ s1 st k c, copyBlocks j g (total - start) start s env = .fault s1 st k c → localSlot s1 j.who = some i →
          (s1.at i).framed = false →
          Completes .copyComplete s fun t => ends t (engDetail c).1 (engDetail c).2 k ∧ t.mem = s1.mem))
    ∧ (∀ acked, s.event = some (.cpyrAckTimeout j.id acked) →
        (s.cluster.jobs.find? fun x => x.id == j.id) = some j →
        fn = 4 →
        let stop := max start (min acked total)
        ∀ s1 st, copyBlocks j g (stop - start) start s env = .done s1 st → localSlot s1 j.who = some i →
          (s1.at i).framed = false → Completes .cpyrAckTimeout s fun t => ends t 2 2 stop ∧ t.mem = s1.mem)
    ∧ (∀ from' to' : Word → Nat,
        let n := copyBytes fn ctl desc
        let bytes := copiedByte fn dst src desc
        s.event = some (.copyComplete j.id) → (s.cluster.jobs.find? fun x => x.id == j.id) = some j → launchPort dst = false →
        64 * start < n → Memory.wf s.mem = true → CopyPlaces s j bytes (64 * start) n from' to' →
        localSlot s j.who = some i → (s.at i).framed = false →
        let moved (P : State → Prop) : Prop :=
          Completes .copyComplete s fun t => ends t 0 0 ((n + 63) / 64)
            ∧ (∀ a, (∀ k ea, 64 * start ≤ k → k < n → (bytes k).2 = some ea → to' ea ≠ a) →
              Memory.get t.mem a = Memory.get s.mem a) ∧ P t
        (fn.toNat < 4 → moved fun t => ∀ k ea, 64 * start ≤ k → k < n → (bytes k).2 = some ea →
          (∀ l eb, k < l → l < n → (bytes l).2 = some eb → to' eb ≠ to' ea) →
          Memory.get t.mem (to' ea) = (match (bytes k).1 with
            | some eb => Memory.get s.mem (from' eb)
            | none => 0))
        ∧ (let fmt := ctl.toNat / 2 ^ 56
           let size := redSize fmt
           let number (m : List (Nat × BitVec 8)) (place : Word → Nat) (base : Word) (k : Nat) : Nat :=
             natLE ((List.range size).map fun b => Memory.get m (place (base + BitVec.ofNat 64 (size * k + b))))
           fn = 4 → size ≠ 0 → n % size = 0 →
           (∀ k l, 64 * start ≤ k → k < l → l < n → to' (dst + BitVec.ofNat 64 k) ≠ to' (dst + BitVec.ofNat 64 l)) →
           (∀ k m, 64 * start ≤ k → k < n → eccBad s (to' (dst + BitVec.ofNat 64 k)) 1 = false ∧ ∃ lay,
             engPlace { s with mem := m } j.xroot j.level (dst + BitVec.ofNat 64 k) false =
               ({ s with mem := m }, .ok (to' (dst + BitVec.ofNat 64 k)) lay)) →
           moved fun t => ∀ k, 64 * start ≤ size * k → size * k < n →
             let old := number s.mem to' dst k
             let add := number s.mem from' src k
             (fmt = 0x0A ∨ fmt = 0x0B → number t.mem to' dst k = (old + add) % 2 ^ (8 * size))
             ∧ (∀ f, fmtOfCode fmt = some f → fmt < 0x0A → ∃ st : FEnv, st.md = j.mode
               ∧ number t.mem to' dst k = (fadd st f (fread j.mode f old) (fread j.mode f add)).1 % 2 ^ (8 * size))))

/-- Streams (R133, R134, R271 to R273): SOPEN of a stream register gives BUSY, a fifth stream EXHAUSTED, and one
whose descriptor passes opens with its count as token; SCLOSE gives the pops and ends the stream; SSTAT reports;
a refill reads the next element into the buffer. -/
def Obligations.StreamsOpenRefillClose : Prop :=
  ∀ (s : State) (d a r : BitVec 5) (cls : BitVec 1),
    let reg := streamReg r cls
    (((s.ctx.streamIn reg).isSome = true ∨ (cls = 0 ∧ r = d)) →
        Completes (.sopen d a r cls) s fun t => WritesG s t d (tokenWord 1 11 0))
    ∧ (s.ctx.streamIn reg = none → ¬(cls = 0 ∧ r = d) → 4 ≤ s.ctx.streams.length →
        Completes (.sopen d a r cls) s fun t => WritesG s t d (tokenWord 1 10 0))
    ∧ (∀ (s1 : State) (x : Nat), s.ctx.streamIn reg = none → ¬(cls = 0 ∧ r = d) → s.ctx.streams.length < 4 →
        (gv s a).toNat % 32 = 0 → engReadNow s (gv s a) 32 = .ok s1 x → patFormat x cls = true →
        x % 2 ^ 64 % elemSize x cls = 0 → (streamPat x).aligned (elemSize x cls) = true →
        spanEnds s1 (patSpan x cls) = true → (s.ctx.level = .h → spanBound s1 (patSpan x cls) = false) →
        s.cluster.ranges.length < 64 →
        Completes (.sopen d a r cls) s fun t =>
          SetsG s t d (tokenWord 0 0 (min (x / 2 ^ 160 % 2 ^ 16 * (x / 2 ^ 176 % 2 ^ 16) * (x / 2 ^ 192 % 2 ^ 16)) (2 ^ 32 - 1)))
          ∧ (∃ st, t.ctx.streams = s.ctx.streams ++ [st] ∧ st.reg = r ∧ st.cls = cls ∧ st.popped = 0 ∧ st.buf = []
            ∧ st.pat = BitVec.ofNat 256 x)
          ∧ (∃ lock, t.cluster.ranges = s.cluster.ranges ++ [lock] ∧ lock.write = false)
          ∧ KeepsMemory s t ∧ Advances s t)
    ∧ (s.ctx.streamIn reg = none → Completes (.sclose d r cls) s (fun t => WritesG s t d 0)
        ∧ Completes (.sstat d r cls) s fun t => WritesG s t d 0)
    ∧ (∀ st, s.ctx.streamIn reg = some st →
        (Completes (.sclose d r cls) s fun t => SetsG s t d (tokenWord 0 0 st.popped) ∧ t.ctx.streamIn reg = none
          ∧ (∀ l ∈ t.cluster.ranges, l.owner ≠ streamOwner s.core.cur st) ∧ KeepsMemory s t ∧ Advances s t)
        ∧ (Completes (.sstat d r cls) s fun t => ∃ x, WritesG s t d x ∧ x.getLsbD 63 = true
            ∧ x.getLsbD 62 = st.ending ∧ x.getLsbD 61 = (st.fault.isSome && st.buf.isEmpty)
            ∧ x.toNat % 2 ^ 32 = st.popped % 2 ^ 32 ∧ x.toNat / 2 ^ 32 % 2 ^ 8 = st.buf.length % 256))
    ∧ (∀ (st : Stream) (s1 : State) (bs : List Byte),
        let x := st.pat.toNat
        let n := elemSize x cls
        let e := st.popped + st.buf.length
        s.event = some (.streamRefill (BitVec.ofNat 4 s.core.cur.val) cls r) → s.ctx.streams = [st] → st.isIn reg = true →
        e < patCount st.pat → (st.buf.length + 1) * n ≤ 256 → st.fault = none →
        engRead s s.ctx.user.xroot st.level (wordAdd (BitVec.ofNat 64 (x % 2 ^ 64)) ((streamPat x).off e)) n = .ok s1 bs →
        Completes .streamRefill s fun t =>
          t.ctx.streams = [{ st with buf := st.buf ++ [elemValue x cls (natLE bs)] }] ∧ KeepsG s t ∧ KeepsMemory s t)

/-- Matrix instructions at issue (R286, R287, R289 to R292): MXB, MXA, MXJ and MXCAP that pass their checks join
the queue, or go to the capability's cluster, with a pending token; one that fails a check gives its token at
once. MXST (R294): a selector above 31 reads all ones, a token without a job 0; a job held at its port reads 3, a queued
one 1 before it starts and 2 after, with its rows, and an ended one 0 with the rows it did. -/
def Obligations.MatrixJobsAtIssue : Prop :=
  (∀ (s : State) (d a b : BitVec 5) (p : BitVec 3) (c : BitVec 4), jobStall s = false →
      let A := gv s a
      let B := gv s b
      let scale (r : BitVec 5) : BitVec 8 := if p.toNat < 4 then (s.ctx.f r).truncate 8 else 127
      let fails (i : Instr) (detail : Nat) : Prop :=
        Completes i s fun t => SetsG s t d (tokenWord 1 detail 0) ∧ KeepsF s t ∧ KeepsV s t ∧ KeepsK s t ∧ KeepsQ s t
          ∧ t.cluster = s.cluster ∧ KeepsMemory s t ∧ Advances s t
      (∀ detail, mxbRefusal s A B = some detail → fails (.mxb d a b) detail)
      ∧ (mxbRefusal s A B = none → Completes (.mxb d a b) s fun t =>
          QueuesJob s t d (.mxb A B) [] ∧ Msg.mxbStart ∈ t.agenda)
      ∧ (∀ detail, jobRefusal s p.toNat A B = some detail → fails (.mxa p d a b c) detail)
      ∧ (jobRefusal s p.toNat A B = none → s.cluster.ranges.length ≤ 62 → Completes (.mxa p d a b c) s fun t =>
          QueuesJob s t d (.compute (BitVec.ofNat 6 (0x28 + p.toNat)) A B (scale (c.zeroExtend 5)) (scale (c.zeroExtend 5 + 1)))
            (jobLocks s p.toNat A B) ∧ Msg.computeJobStart ∈ t.agenda)
      ∧ (A.toNat % 32 ≠ 0 → fails (.mxj d a) 1 ∧ fails (.mxcap d a b) 1)
      ∧ (∀ (s1 : State) (x : Nat), A.toNat % 32 = 0 → engReadNow s A 32 = .ok s1 x → mxjFormat x = true →
          let q := x / 2 ^ 160 % 2 ^ 8 - 0x28
          let ja := BitVec.ofNat 64 (x % 2 ^ 64)
          let jb := BitVec.ofNat 64 (x / 2 ^ 64 % 2 ^ 64)
          (jobRefusal s1 q ja jb = none → s.cluster.ranges.length ≤ 62 → Completes (.mxj d a) s fun t =>
            QueuesJob s t d (.compute (BitVec.ofNat 6 (0x28 + q)) ja jb (BitVec.ofNat 8 (x / 2 ^ 128))
              (BitVec.ofNat 8 (x / 2 ^ 144))) (jobLocks s1 q ja jb))
          ∧ (∀ (s2 : State) (e : Nat), B.toNat < 65536 → engReadNow s1 (eaRes s1 0 B.toNat) 64 = .ok s2 e →
              e / 2 ^ 128 % 2 ^ 8 = 7 → Completes (.mxcap d a b) s fun t =>
                ∃ job : CapJob, job.who = me s ∧ job.token = d ∧ job.desc = BitVec.ofNat 256 x
                  ∧ job.cap = BitVec.ofNat 128 (e / 2 ^ 256)
                  ∧ (Msg.mxcapArrival job ∈ t.agenda ∨ OutMsg.event (.mxcapArrival job) ∈ t.outbox)
                  ∧ (job.id, me s, d, false) ∈ t.cluster.remote ∧ d ∈ t.ctx.act.tokens
                  ∧ KeepsG s t ∧ KeepsF s t ∧ KeepsV s t ∧ KeepsK s t ∧ KeepsQ s t ∧ KeepsMemory s t ∧ Advances s t)))
  ∧ (∀ (s : State) (d a : BitVec 5),
      let A := (gv s a).toNat
      (32 ≤ A → Completes (.mxst d a) s fun t => WritesG s t d (BitVec.allOnes 64))
      ∧ (A < 32 → (s.ctx.act.mxJobs.find? fun j => j.1.toNat == A) = none →
          Completes (.mxst d a) s fun t => WritesG s t d 0)
      ∧ (∀ (tok : BitVec 5) (id rows : Nat), A < 32 → (s.ctx.act.mxJobs.find? fun j => j.1.toNat == A) = some (tok, id, rows) →
          ((∃ job : CapJob, Msg.mxcapArrival job ∈ s.agenda ∧ job.id = id ∧ job.who = me s) →
            Completes (.mxst d a) s fun t => WritesG s t d 3)
          ∧ ((∀ job : CapJob, Msg.mxcapArrival job ∈ s.agenda → job.id = id → job.who ≠ me s) → s.cluster.remote = [] →
          ((s.cluster.jobs.find? fun j => j.id == id) = none →
            Completes (.mxst d a) s fun t => WritesG s t d (BitVec.ofNat 64 (rows * 2 ^ 8)))
          ∧ (∀ j, (s.cluster.jobs.find? fun j => j.id == id) = some j →
            Completes (.mxst d a) s fun t =>
              WritesG s t d (BitVec.ofNat 64 (j.rows * 2 ^ 8 + (if j.started then 2 else 1)))))))

/-- The matrix units (R286, R288, R290): MXB_START takes a place and a read lock; an MXB at its end leaves its
tile in NEXT with a swap due; a compute job starts on the swapped tile, and at its end gives the rows it wrote,
going on from the row a bank made it wait at, or NO TILE where there is none; a tile with an uncorrectable error of the
B store ends it with ECC and a record of CLASS 2 (R398). Remote compute (R293): an arriving job with a malformed, expired or forged
capability gives detail 12 and enters the system level of core 0 with CAPABILITY; one that passes joins the
queue; a job not answered within 100 µs gives UNREACH. -/
def Obligations.MatrixUnitsRunTheirJobs : Prop :=
  (∀ (s : State) (j : Job) (i : Fin 11), s.cluster.jobs = [j] → localSlot s j.who = some i → (s.at i).framed = false →
      let gone (t : State) (w : Word) : Prop :=
        t.cluster.jobs = [] ∧ (∀ r ∈ t.cluster.ranges, r.owner ≠ j.id) ∧ GivesToken t i j.token w
      (∀ src shape, j.op = .mxb src shape → j.started = false → s.event = some .mxbStart → s.cluster.ranges.length < 64 →
        Completes .mxbStart s fun t => t.cluster.jobs = [{ j with started := true, startRef := s.clock.ref }]
          ∧ (∃ l, t.cluster.ranges = s.cluster.ranges ++ [l] ∧ l.owner = j.id ∧ l.write = false)
          ∧ Msg.mxbComplete ∈ t.agenda ∧ KeepsMemory s t)
      ∧ (∀ src shape (s1 : State) cols, j.op = .mxb src shape → j.started = true → s.event = some .mxbComplete →
          let n := shape.toNat / 2 ^ 38 % 2 ^ 10 + 1
          mxbCols j src (64 * (shape.toNat / 2 ^ 48)) (mxbColumn shape) n 0 s = .ok s1 cols →
          Completes .mxbComplete s fun t => gone t (tokenWord 0 0 (n * ((mxbColumn shape + 63) / 64)))
            ∧ t.cluster.swapDue = true ∧ t.cluster.cur = s.cluster.cur
            ∧ t.cluster.next = some { fmt := BitVec.ofNat 8 (shape.toNat / 2 ^ 16), kb := shape.toNat / 2 ^ 34 % 2 ^ 4 + 1
                                      n := n, cols := cols, bad := [] }
            ∧ KeepsMemory s t)
      ∧ (∀ major aaddr jw sa sb, j.op = .compute major aaddr jw sa sb →
          (j.started = false → stageRuns s = false → s.event = some .computeJobStart → Completes .computeJobStart s fun t =>
            t.cluster.jobs = [{ j with started := true, startRef := s.clock.ref }]
            ∧ t.cluster.cur = (if s.cluster.swapDue then s.cluster.next else s.cluster.cur)
            ∧ t.cluster.swapDue = false ∧ Msg.computeJobComplete ∈ t.agenda ∧ KeepsMemory s t)
          ∧ (j.started = true → s.event = some .computeJobComplete → s.cluster.cur = none →
            Completes .computeJobComplete s fun t => gone t (tokenWord 1 13 0) ∧ KeepsMemory s t)
          ∧ (∀ tile : Tile, j.started = true → s.event = some .computeJobComplete → s.cluster.cur = some tile →
            tile.fmt.toNat = bCode (major.toNat - 0x28) → tile.bad ≠ [] → s.hw.log.length < 4096 →
            Completes .computeJobComplete s fun t => gone t (tokenWord 1 7 j.rows) ∧ KeepsMemory s t
              ∧ ∃ r, t.hw.log = s.hw.log ++ [r] ∧ r.cls = 2)
          ∧ (∀ (tile : Tile) (s1 : State) (st : FEnv) (rows : Nat), j.started = true → s.event = some .computeJobComplete →
            s.cluster.cur = some tile → tile.fmt.toNat = bCode (major.toNat - 0x28) → tile.bad = [] →
            computeRows j (major.toNat - 0x28) aaddr jw sa.toNat sb.toNat tile.kb tile.n
              (tile.cols.map (lineBlocks j.mode (bCode (major.toNat - 0x28)) tile.kb)) (jwRows jw - j.rows) j.rows s
              { md := j.mode, lfsr := j.seed, flags := j.flags } = (s1, st, rows, none) →
            Completes .computeJobComplete s fun t => gone t (tokenWord 0 0 rows) ∧ t.mem = s1.mem)))
  ∧ (∀ (s : State) (job : CapJob) (i : Fin 11), localSlot s job.who = some i →
      (s.event = some (.mxcapArrival job) → capEnded s job = false → clusterHolder s = none → capHere s job.cap = true →
        job.cap.getLsbD 24 = false → s.loc.core = 0 → i ≠ 0 → (s.at i).framed = false → (s.at 0).level = .c →
        (s.at 0).act.blocked = none → s.core.preempted = false → s.core.stopped = false →
        Completes .mxcapArrival s fun t => GivesToken t i job.token (tokenWord 1 12 0)
          ∧ (t.at 0).level = .s ∧ (t.at 0).trap.cause.toNat % 256 = 18 ∧ (t.at 0).queue = Queue.at s.core.sys.svec)
      ∧ (s.event = some (.mxcapArrival job) → capEnded s job = false → capRefusal s job = none → s.cluster.jobs = [] →
          s.cluster.waiting = [] → s.cluster.ranges.length ≤ 62 →
          jobRefusal s (job.desc.toNat / 2 ^ 160 % 2 ^ 8 - 0x28) (job.desc.truncate 64)
            (BitVec.ofNat 64 (job.desc.toNat / 2 ^ 64)) = none →
          Completes .mxcapArrival s fun t => (∃ j : Job, t.cluster.jobs = [j] ∧ j.who = job.who ∧ j.token = job.token)
            ∧ Msg.computeJobStart ∈ t.agenda ∧ KeepsMemory s t)
      ∧ (∀ id busy, s.event = some (.mxcapTimeout id) → s.cluster.remote = [(id, job.who, job.token, busy)] →
          (s.at i).framed = false → Completes .mxcapTimeout s fun t =>
            GivesToken t i job.token (tokenWord 2 2 0) ∧ KeepsMemory s t))

/-- Bank instructions at issue (R297 to R301): each that passes its checks joins the queue with its operands,
the header or descriptor it read, and a pending token; a selection that breaks R297 gives FORMAT; BVRD takes a write lock
on what it may write (R246; the length is the model's, log 67); BSTAT reads a unit. BANK_JOB_COMPLETE (R296, R298 to
R300): a BMV runs its rows in increasing number; a row whose slots all fit writes one result in each slot of the mask, at its
row's index, and makes it VALID; one with an EMPTY slot fails with NOVEC, one with a slot of another format or length with
MISMATCH, and writes nothing; the token has the failure of the lowest failing row and the number of rows written. BVLD puts its image into the slot of every selected unit and gives
their number; BCFG makes the slots of its mask EMPTY; BVRD writes its result elements; a job on a bound unit
gives BOUND. -/
def Obligations.BankJobsIssueAndComplete : Prop :=
  (∀ (s : State) (d a b : BitVec 5) (p : BitVec 3) (c : BitVec 4), bankStall s = false →
      let A := gv s a
      let B := gv s b
      (A.toNat % 64 ≠ 0 → Completes (.bvld d a b) s fun t => WritesG s t d (tokenWord 1 1 0))
      ∧ (∀ (s1 : State) (x : Nat), engReadNow s A 64 = .ok s1 x → s1.banks = s.banks →
          (A.toNat % 64 = 0 → imageFormat x = true → x / 2 ^ 64 % 2 ^ 64 = 0 → (∃ us, selectUnits s1 B false = some us
              ∧ ∀ u ∈ us, channelFenced s1 u = false) → bankStall s1 = false →
            Completes (.bvld d a b) s fun t => QueuesBank s t d (.bvld d a b) A B (BitVec.ofNat 512 x))
          ∧ (bmvFormat p.toNat x B = true → x % 64 = 0 → x / 2 ^ 192 % 64 = 0 →
            Completes (.bmv p d a b c) s fun t => QueuesBank s t d (.bmv p d a b c) A B (BitVec.ofNat 512 x)))
      ∧ (∀ (s1 : State) (x : Nat), engReadNow s A 64 = .ok s1 x → s1.banks = s.banks → A.toNat % 64 = 0 →
          imageFormat x = true → x / 2 ^ 64 % 2 ^ 64 ≠ 0 → gv s1 b = 0 →
          Completes (.bvld d a b) s fun t => QueuesBank s t d (.bvld d a b) A 0 (BitVec.ofNat 512 x))
      ∧ (selectUnits s B false = none → Completes (.bvrd d a b) s fun t => WritesG s t d (tokenWord 1 9 0))
      ∧ (∀ us, selectUnits s B false = some us →
          let n := min (bvrdBound s (B.toNat % 16) us) ((2 ^ 56 - A.toNat % 2 ^ 56) / 4)
          A.toNat % 4 = 0 → 1 ≤ lockRoom s → Completes (.bvrd d a b) s fun t =>
            QueuesBank s t d (.bvrd d a b) A B 0
            ∧ ∃ id, t.cluster.ranges = s.cluster.ranges ++ (if n = 0 then [] else
              let l := spanLock s (bvrdSpan A n) true
              [{ owner := id, lo := l.1, hi := l.2.1, write := l.2.2 }]))
      ∧ (selectUnits s A true = none → Completes (.bcfg d a) s fun t => WritesG s t d (tokenWord 1 9 0))
      ∧ (∀ us, selectUnits s A true = some us → Completes (.bcfg d a) s fun t => QueuesBank s t d (.bcfg d a) A 0 0)
      ∧ (∃ x, (Completes (.bstat d a) s fun t => WritesG s t d x)
        ∧ (A.toNat % 2 ^ 23 ≠ 0 ∨ A.toNat / 2 ^ 32 ≠ 0 ∨ stackPresent s.grade (A.toNat / 2 ^ 28 % 16) = false →
            x = BitVec.allOnes 64)))
  ∧ (∀ (s : State) (j : BankJob) (i : Fin 11), s.banks.jobs = [j] → s.event = some (.bankJobComplete j.id) →
      localSlot s j.who = some i → (s.at i).framed = false →
      let gone (t : State) (w : Word) : Prop := t.banks.jobs = [] ∧ GivesToken t i j.token w
      (∀ d a us, j.instr = .bcfg d a → selectUnits s j.ga true = some us →
        ((us.any (unitBound s)) = true → Completes .bankJobComplete s fun t => gone t (tokenWord 1 19 0) ∧ KeepsMemory s t)
        ∧ ((us.any (unitBound s)) = false → Completes .bankJobComplete s fun t => gone t (tokenWord 0 0 us.length)
          ∧ ∀ u ∈ us, ∀ k, k < 16 → j.ga.getLsbD k = true → (bankSlot t u.1 u.2 k).loaded = none))
      ∧ (∀ d a b us (s1 : State) (im : Image), j.instr = .bvld d a b → j.desc.toNat / 2 ^ 64 % 2 ^ 64 = 0 →
          selectUnits s j.gb false = some us → us.any (unitBound s) = false →
          readImage s j.xroot j.level j.ga j.desc.toNat = .ok s1 im → localSlot s1 j.who = some i →
          (s1.at i).framed = false → s1.banks = s.banks →
          Completes .bankJobComplete s fun t => gone t (tokenWord 0 0 us.length)
            ∧ ∀ u ∈ us, (bankSlot t u.1 u.2 (j.gb.toNat % 16)).loaded = some (BitVec.ofNat 8 im.fmt, im.len))
      ∧ (∀ d a b us (s1 : State) done, j.instr = .bvrd d a b → selectUnits s j.gb false = some us →
          us.any (unitBound s) = false →
          let n := bvrdCount s (j.gb.toNat % 16) us
          bvrdRefusal s j.level j.ga n = none →
          bvrdWrite j 1024 j.done (((List.range n).map fun k => bvrdElem s (j.gb.toNat % 16) k us).drop (16 * j.done)) s
            = (s1, done, none) →
          localSlot s1 j.who = some i → (s1.at i).framed = false → s1.banks = s.banks →
          Completes .bankJobComplete s fun t => gone t (tokenWord 0 0 n) ∧ t.mem = s1.mem)
      ∧ (∀ p d a b c, j.instr = .bmv p d a b c →
          let x := j.desc.toNat
          let l := bmvLen x
          let rb := j.gb.toNat / 2 ^ 16 % 2 ^ 14
          let slots := maskSlots (j.gb.toNat % 2 ^ 16)
          (∀ (us : List (Nat × Nat)) (R : Nat → RowRes) (S : Nat → State) (E : Nat → FEnv) (n : Nat),
            rowPlaces j (nfld x 128 32) 0 s = (S 0, .ok us) → us.any (unitBound (S 0)) = false → us.length = n →
            E 0 = { md := j.mode, lfsr := j.seed, flags := 0 } → localSlot (S n) j.who = some i → ((S n).at i).framed = false →
            (S n).banks.jobs = [j] →
            (∀ k u, us[k]? = some u → ∃ s2, bmvRow j p.toNat slots u k (S k) (E k) = (s2, .res (R k) (E (k + 1)))
              ∧ S (k + 1) = match R k with
                | .ok ys => putResults u (rb + k) ys s2
                | .error _ => s2) →
            let written := ((List.range n).filter fun k => (R k).isOk).length
            ((∀ k, k < n → (R k).isOk = true) →
              Completes .bankJobComplete s fun t => gone t (tokenWord 0 0 n) ∧ t.mem = (S n).mem)
            ∧ (∀ k f, k < n → (∀ k', k' < k → (R k').isOk = true) → R k = .error f →
              Completes .bankJobComplete s fun t => gone t (tokenWord f.1 f.2 written) ∧ t.mem = (S n).mem))
          ∧ (∀ (u : Nat × Nat) (bs : List Byte), nfld x 128 32 = 1 → rowPlace s j 0 = (s, .ok u) → unitBound s u = false →
            channelFenced s u = false → rowRead s j p.toNat 0 = .ok s bs →
            let fits (k : Nat) (im : Image) : Prop := slotImage s u.1 u.2 k = some im ∧ im.fmt = aCode p.toNat ∧ im.len = l
            ((∀ k ∈ slots, ∃ im, fits k im) → Memory.wf s.mem = true →
              Completes .bankJobComplete s fun t => gone t (tokenWord 0 0 1)
                ∧ (∀ k im, k ∈ slots → fits k im → ∃ st : FEnv, st.md = j.mode
                  ∧ readNat t (slotPa s u.1 u.2 k 1 + 4 * rb) 4 = (rowDot j.sa.toNat j.sb.toNat (im.blocks j.mode)
                    (lineBlocks j.mode (bCode p.toNat) (l / 32) bs) st).1 % 2 ^ 32)
                ∧ (∀ u' k e, (bankSlot t u'.1 u'.2 k).loaded = (bankSlot s u'.1 u'.2 k).loaded
                  ∧ (bankSlot t u'.1 u'.2 k).valid.getLsbD e =
                    ((bankSlot s u'.1 u'.2 k).valid.getLsbD e || decide (u' = u ∧ k ∈ slots ∧ e = rb)))
                ∧ ∀ addr, (∀ k ∈ slots, addr < slotPa s u.1 u.2 k 1 + 4 * rb ∨ slotPa s u.1 u.2 k 1 + 4 * rb + 4 ≤ addr) →
                  Memory.get t.mem addr = Memory.get s.mem addr)
            ∧ (∀ k ∈ slots, (∀ k' ∈ slots, k' < k → ∃ im, fits k' im) →
              (slotImage s u.1 u.2 k = none →
                Completes .bankJobComplete s fun t => gone t (tokenWord 1 15 0) ∧ KeepsMemory s t)
              ∧ (∀ im, slotImage s u.1 u.2 k = some im → im.fmt ≠ aCode p.toNat ∨ im.len ≠ l →
                Completes .bankJobComplete s fun t => gone t (tokenWord 1 14 0) ∧ KeepsMemory s t)))))

/-- The exchange instructions (R345 to R349, R353, R354). XPH ends with status 5, detail 9 outside a group, and
in one it counts its core and waits; the last participant of a module sends its arrival to LEADER, and that of a group of
one module sets the start tick LEAD or more ahead. In a phase and in their cycle, XSND and XMRK put a word or marker on the
network, due when its route's latency has passed, and XRCV takes a full receive slot. XEND, once CYC has reached L, clears INPH and
gives the status of the phase. XVS at S level sends a record that R351 allows to its switch, a switch chip's through a trunk
port in RUN. -/
def Obligations.ExchangeInstructions : Prop :=
  ∀ (s : State) (d a b c : BitVec 5), s.core.undo = none →
    let x := s.ctx.xch
    let now := s.clock.cycle - x.startCycle
    let A := gv s a
    let B := gv s b
    let C := gv s c
    (A.toNat < 2 ^ 13 → 1 ≤ B.toNat → B.toNat ≤ 2 ^ 20 → x.inph = false → otherInPhase s = false →
      arrivedAlready s = false →
      (groupOf s (A.truncate 12) = none → Completes (.xph d a b) s fun t => WritesG s t d (tokenWord 5 9 0))
      ∧ (∀ rec, groupOf s (A.truncate 12) = some rec → bellMember s = true →
          let p := phaseOf s (A.truncate 12)
          p.sent = false → p.first = none → p.counted + 1 <
            (if A.getLsbD 12 then max 1 (coresIn s s.ctx.user.scope) else grLpart rec) →
          Completes (.xph d a b) s fun t =>
            (phaseOf t (A.truncate 12)).counted = p.counted + 1
            ∧ (phaseOf t (A.truncate 12)).first = some (B.toNat, A.getLsbD 12, s.ctx.user.scope)
            ∧ t.ctx.act.blocked.isSome = true ∧ t.ctx.queue = s.ctx.queue ∧ KeepsRegisters s t ∧ KeepsMemory s t)
      ∧ (∀ rec, groupOf s (A.truncate 12) = some rec → bellMember s = true →
          let p := phaseOf s (A.truncate 12)
          p.sent = false → p.first = none → p.mismatch = false →
          (if A.getLsbD 12 then max 1 (coresIn s s.ctx.user.scope) else grLpart rec) ≤ p.counted + 1 →
          (grLeader rec ≠ s.loc.dev → Completes (.xph d a b) s fun t =>
            OutMsg.event (.phaseArrival (A.truncate 12) s.loc.dev B.toNat (A.getLsbD 12) s.ctx.user.scope s.bell.breached)
                ∈ t.outbox
            ∧ (phaseOf t (A.truncate 12)).sent = true ∧ t.ctx.act.blocked.isSome = true ∧ KeepsRegisters s t
            ∧ KeepsMemory s t)
          ∧ (grLeader rec = s.loc.dev → grNmem rec = 1 → p.arrivals = [] → s.bell.silent = [] → s.bell.breached = false →
            Completes (.xph d a b) s fun t => ∃ r : Run, t.exchange.runs = s.exchange.runs ++ [r]
              ∧ r.gid = A.truncate 12 ∧ r.len = B.toNat ∧ r.who = some (me s, d) ∧ s.clock.ref + grLead rec ≤ r.tick
              ∧ (r.tick, Msg.startTick r.gid) ∈ t.timers ∧ t.ctx.act.blocked.isSome = true ∧ KeepsRegisters s t
              ∧ KeepsMemory s t)))
    ∧ (x.inph = true → routeMalformed C = false → A.toNat = now → now + latency s C < x.len → phaseFailure s = 0 →
        Completes (.xsnd d a b c) s fun t => SetsG s t d 0 ∧ t.ctx.xch.words = x.words + 1 ∧ KeepsMemory s t ∧ Advances s t
          ∧ ∃ w : XWord, w.value = B ∧ w.marker = false ∧ w.sent = s.clock.cycle ∧ w.due = s.clock.cycle + latency s C
            ∧ w.gid = x.gid ∧ w.from' = [me s]
            ∧ (C.getLsbD 63 = false → Msg.wordDelivery w ∈ t.agenda ∧ w.slot.toNat = C.toNat / 2 ^ 44 % 16)
            ∧ (C.getLsbD 63 = true → ∃ e p, Msg.combine e p w ∈ t.agenda))
    ∧ (x.inph = true → routeMalformed C = false → A.toNat = now → now + latency s C < x.len → phaseFailure s ≠ 0 →
        Completes (.xsnd d a b c) s fun t => WritesG s t d (tokenWord 5 (phaseFailure s) 0))
    ∧ (x.inph = true → routeMalformed A = false → A.getLsbD 63 = true → B.toNat / 2 ^ 21 % 2 ^ 11 = 0 →
        B.toNat % 2 ^ 21 = now → now + latency s A < x.len → phaseFailure s = 0 →
        Completes (.xmrk a b) s fun t => KeepsRegisters s t ∧ KeepsMemory s t ∧ Advances s t
          ∧ ∃ (w : XWord) (e : Word) (p : BitVec 5), w.value = B ∧ w.marker = true ∧ Msg.markerStep e p w ∈ t.agenda)
    ∧ (∀ v marker, x.inph = true → (h : C.toNat < 16) → A.toNat = now → now < x.len →
        s.core.recv[C.toNat] = some (v, marker) →
        Completes (.xrcv d a b c) s fun t => KeepsF s t ∧ KeepsV s t ∧ KeepsK s t ∧ KeepsQ s t ∧
          (∀ r, gv t r = if r = d ∧ r ≠ 0 then tokenWord 0 marker.toNat 1 else if r = b ∧ r ≠ 0 then v else gv s r)
          ∧ t.core.recv = s.core.recv.set C.toNat none ∧ t.ctx.xch.words = x.words + 1 ∧ KeepsMemory s t ∧ Advances s t)
    ∧ (x.running = false → x.collided = none → x.breached = false → Completes (.xend d) s fun t =>
        t.ctx.xch.inph = false ∧ WritesG (s.mod fun y => { y with xch := { y.xch with inph := false } }) t d x.status)
    ∧ (∀ (s1 : State) (pas : List Nat), s.ctx.level = .s → entryMalformed A = false →
        checkSpan .read 64 2 s B = .ok s1 pas →
        let r := BitVec.ofNat 1024 (natLE (readSpan s1 64 pas))
        recordRefusal (enLvl A) r = none → ((enLvl A < 5 ∧ enDev A = s.loc.dev) ∨ (5 ≤ enLvl A ∧ (trunkPort s).isSome = true)) →
        Completes (.xvs a b) s fun t => Asks s t (.entryReplace A r (me s)))

/-- The phases of the exchange (R342 to R345): an arrival from a member reaches LEADER; the last one makes
LEADER choose a start tick LEAD or more ahead; a release in time arms the start tick, and a late one fails the
phase; the start tick starts CYC in the participant at its XPH, whose status has the phase's number, with empty receive
slots; when CYC has reached L the status and the word count that XEND gives stand, and INPH stays for XEND to clear (R349).
That the module's end of a phase is an event of its own is the model's choice (log 46). -/
def Obligations.PhasesStartAndEnd : Prop :=
  ∀ (s : State) (gid : BitVec 12) (rec : Nat),
    let p := phaseOf s gid
    (∀ dev len sc scope breach, s.event = some (.phaseArrival gid dev len sc scope breach) → groupOf s gid = some rec →
      dev ≠ s.loc.dev → grLeader rec = s.loc.dev → s.bell.silent = [] → streamPasses s (rec / 2 ^ 28 % 2 ^ 12) dev = true →
      p.arrivals.length + 1 < grNmem rec →
      (∀ a ∈ p.arrivals, a.1 ≠ dev) →
      Completes .phaseArrival s fun t => KeepsMemory s t
        ∧ (phaseOf t gid).arrivals = p.arrivals ++ [(dev, len, sc, scope, breach)])
    ∧ (∀ dev len sc scope, s.event = some (.phaseArrival gid dev len sc scope false) → groupOf s gid = some rec →
        dev ≠ s.loc.dev → grLeader rec = s.loc.dev → s.bell.silent = [] → streamPasses s (rec / 2 ^ 28 % 2 ^ 12) dev = true →
        s.bell.breached = false → grNmem rec = 2 →
        p.arrivals = [(s.loc.dev, len, sc, scope, false)] → p.first = some (len, sc, scope) →
        Completes .phaseArrival s fun t => KeepsMemory s t ∧ ∃ tick, s.clock.ref + grLead rec ≤ tick
          ∧ OutMsg.event (.phaseRelease gid tick p.seq 0) ∈ t.outbox ∧ (tick, Msg.startTick gid) ∈ t.timers)
    ∧ (∀ tick seq len sc scope, s.event = some (.phaseRelease gid tick seq 0) → p.sent = true → s.bell.breached = false →
        p.first = some (len, sc, scope) →
        (s.clock.ref ≤ tick → Completes .phaseRelease s fun t => (tick, Msg.startTick gid) ∈ t.timers
          ∧ (∃ r, t.exchange.runs = s.exchange.runs ++ [r] ∧ r.gid = gid ∧ r.len = len ∧ r.tick = tick ∧ r.who = p.who)
          ∧ (phaseOf t gid).counted = 0 ∧ KeepsMemory s t)
        ∧ (tick < s.clock.ref → p.who = none → Completes .phaseRelease s fun t =>
            OutMsg.event (.failureNotice gid 2) ∈ t.outbox ∧ (phaseOf t gid).counted = 0 ∧ KeepsMemory s t))
    ∧ (s.event = some (.arrivalTimeout gid true p.round) → p.who = none → Completes .arrivalTimeout s fun t =>
        OutMsg.event (.failureNotice gid 1) ∈ t.outbox ∧ (phaseOf t gid).arrivals = [] ∧ KeepsMemory s t)
    ∧ (∀ (r : Run) (i : Fin 11) sel d, s.event = some (.startTick gid) → s.exchange.runs = [r] → r.gid = gid →
        r.started = false → r.failure = 0 → r.who = some (sel, d) → atXph s r.who = some (i, d) → (s.at i).xch.inph = false →
        Completes .startTick s fun t => (t.at i).xch.running = true ∧ (t.at i).xch.startCycle = s.clock.cycle
          ∧ (t.at i).xch.len = r.len ∧ (t.at i).xch.words = 0 ∧ t.core.recv = Vector.replicate 16 none
          ∧ (t.at i).act.blocked = none ∧ Msg.phaseEnd gid ∈ t.agenda
          ∧ ((s.at i).framed = false → d ≠ 0 → (t.at i).g d = tokenWord 0 0 r.seq.toNat))
    ∧ (∀ (r : Run) (i : Fin 11), s.event = some (.phaseEnd gid) → s.exchange.runs = [r] → r.gid = gid → r.started = true →
        inPhase s gid = some i →
        Completes .phaseEnd s fun t => (t.at i).xch.inph = (s.at i).xch.inph ∧ (t.at i).xch.running = false
          ∧ (t.at i).xch.held = (s.at i).xch.len
          ∧ (t.at i).xch.status = tokenWord (if r.failure = 0 then 0 else 5) r.failure.toNat (s.at i).xch.words
          ∧ t.exchange.runs = [] ∧ KeepsMemory s t ∧ (∀ j, (t.at j).regs = (s.at j).regs))
    ∧ (∀ (r : Run) detail, s.event = some (.failureNotice gid detail) → s.exchange.runs = [r] → r.gid = gid →
        Completes .failureNotice s fun t => t.exchange.runs = [{ r with failure := if r.failure = 0 then detail else r.failure }]
          ∧ KeepsMemory s t)

/-- Words on the network (R333, R344, R348, R350 to R354): a word from another module takes the outputs on its way down; a
word of the running phase comes to its receive slot in its cycle, too late fails the phase with detail 10 and a full slot with 11; a word of another phase or group is discarded; two words that reach an ADDI32 entry from its two IN
ports combine into one on its OUT port; a marker steps CUR; and ENTRY_REPLACE installs a record and acknowledges
it. -/
def Obligations.WordsMeetAtEntries : Prop :=
  ∀ (s : State) (w : XWord) (e : Word),
    (s.event = some (.wordDelivery w) → w.path = [] → (destOf w.dest).1 = s.loc.dev → s.exchange.outputs = [] →
      Completes .wordDelivery s fun t => KeepsMemory s t ∧ t.core = s.core
        ∧ ∃ v : XWord, Msg.wordDelivery v ∈ t.agenda ∧ v = { w with path := v.path }
          ∧ ∀ o ∈ v.path, ∃ x ∈ t.exchange.outputs, x.1 = o.1 ∧ x.2.1 = o.2 ∧ x.2.2.1 = w.due)
    ∧ (∀ (i : Fin 11), s.event = some (.wordDelivery w) → w.path ≠ [] → wordDead s w = false → w.dest = (selfId s 0).truncate 32 →
      slots.find? (fun j => (s.at j).xch.running) = some i → s.exchange.runs = [] →
      ((w.gid ≠ (s.at i).xch.gid ∨ w.due < (s.at i).xch.startCycle) → Completes .wordDelivery s fun t => t = s)
      ∧ (w.gid = (s.at i).xch.gid → (s.at i).xch.startCycle ≤ w.due → s.clock.cycle ≤ w.due → s.core.recv[w.slot.toNat] = none → Completes .wordDelivery s fun t =>
        t.core.recv[w.slot.toNat] = some (if w.marker then BitVec.ofNat 64 (w.value.toNat / 2 ^ 32) else w.value, w.marker)
        ∧ (∀ k : Fin 16, k.val ≠ w.slot.toNat → t.core.recv[k.val] = s.core.recv[k.val])
        ∧ KeepsMemory s t ∧ (∀ j, t.at j = s.at j)))
    ∧ (∀ (i : Fin 11) (r : Run), s.event = some (.wordDelivery w) → w.path ≠ [] → wordDead s w = false →
        w.dest = (selfId s 0).truncate 32 → slots.find? (fun j => (s.at j).xch.running) = some i → s.exchange.runs = [r] → r.gid = (s.at i).xch.gid →
        r.started = true → r.failure = 0 → w.gid = r.gid → (s.at i).xch.startCycle ≤ w.due →
        (w.due < s.clock.cycle → Completes .wordDelivery s fun t =>
          t.exchange.runs = [{ r with failure := 10 }] ∧ t.core.recv = s.core.recv)
        ∧ (s.clock.cycle ≤ w.due → s.core.recv[w.slot.toNat].isSome = true → Completes .wordDelivery s fun t =>
          t.exchange.runs = [{ r with failure := 11 }] ∧ t.core.recv = s.core.recv))
    ∧ (∀ (u : XWord) (x : Entry), s.event = some (.combine e 0 w) → s.agenda = [.combine e 1 u] → enLvl e = 1 →
        s.exchange.entries = [x] → x.num = e → s.exchange.outputs = [] → w.path = [] → u.path = [] → u.sent = w.sent → u.gid = w.gid →
        w.marker = false → u.marker = false → x.stepped = none → x.cur = 0 → x.mode 0 = 3 → x.inMask 0 = 3 → x.outMask 0 = 4 →
        Completes .combine s fun t => ∃ v : XWord, KeepsMemory s t
          ∧ v.value.toNat % 2 ^ 32 = (w.value.toNat % 2 ^ 32 + u.value.toNat % 2 ^ 32) % 2 ^ 32
          ∧ v.value.toNat / 2 ^ 32 = (w.value.toNat / 2 ^ 32 + u.value.toNat / 2 ^ 32) % 2 ^ 32
          ∧ ∃ o ∈ t.exchange.outputs, o.1 = switchKey 1 (enDev e) (enIdx e) (rackOfBoard s (enIdx e)) ∧ o.2.1 = 2 ∧ o.2.2.2 = v)
    ∧ (∀ x : Entry, s.event = some (.markerStep e 0 w) → s.agenda = [] → enLvl e = 1 → s.exchange.entries = [x] →
        x.num = e → s.exchange.outputs = [] → w.path = [] → w.marker = true → x.stepped = none → x.cur < 4 → x.nsm1 = 3 →
        x.inMask x.cur = 1 → x.outMask x.cur = 0 →
        Completes .markerStep s fun t => (entryOf t e).cur = (x.cur + 1) % 4 ∧ (entryOf t e).stepped = some w.sent
          ∧ KeepsMemory s t)
    ∧ (∀ r who, s.event = some (.entryReplace e r who) → ofCore s who = true → Completes .entryReplace s fun t =>
        entryOf t e = { num := e, record := r, stepped := none } ∧ Msg.homeAnswer (.done 0 none none) who ∈ t.agenda
        ∧ KeepsMemory s t)

/-- Code objects (R21, R25, R36, R37). CODE_OBJECT_LOAD refuses an image with the code of its first failing check,
and 1 where the magic is wrong; one that passes, at a place with room, becomes resident under its id with its kernel
records and its resource-table template, and the answer names its table; where there is no room it is refused with
SPACE, and so, the model's choice (log 58), where its place is not 64-byte aligned. CODE_OBJECT_UNLOAD is refused while a launch context names the object; otherwise the object is first marked, and
then it goes. -/
def Obligations.CodeObjectsLoadAndUnload : Prop :=
  ∀ (s : State) (addr len xroot place base : Word) (id : W32),
    let img := Memory.bytes s.mem addr.toNat len.toNat
    let parts := loadParts img len.toNat s.grade id base.toNat
    let refused (code : Nat) : Prop :=
      Completes .codeObjectLoad s fun t => t.outbox = s.outbox ++ [.loader id code 0] ∧ t.engine = s.engine ∧ KeepsMemory s t
    (s.event = some (.codeObjectLoad addr len xroot place base id) →
      (natLE (img.take 4) ≠ 0x46594B4F → refused 1)
      ∧ (∀ code, parts = .error code → refused code)
      ∧ (∀ ps, parts = .ok ps → roomAt s place.toNat (residentSize ps) = false ∨ place.toNat % 64 ≠ 0 ∨ base.toNat % 64 ≠ 0 →
          refused 12)
      ∧ (∀ ps, parts = .ok ps → roomAt s place.toNat (residentSize ps) = true → place.toNat % 64 = 0 → base.toNat % 64 = 0 →
          memoryAt s addr.toNat len.toNat = true → eccBad s addr.toNat len.toNat = false →
          Completes .codeObjectLoad s fun t =>
            ∃ c, t.engine.code = s.engine.code ++ [c] ∧ c.id = id ∧ c.kernels = kernelRecs ps ∧ c.xroot = keepBits xroot xrootBits
              ∧ c.template = (templateOf ps).map (BitVec.ofNat 512) ∧ c.lo = place.toNat ∧ c.unloading = false
              ∧ t.outbox = s.outbox ++ [.loader id 0 c.restab] ∧ t.core = s.core))
    ∧ (s.event = some (.codeObjectUnload id) →
      ((∃ l ∈ s.engine.ctxs, l.objid = id) → Completes .codeObjectUnload s fun t => t.engine = s.engine ∧ KeepsMemory s t)
      ∧ (∀ c, (∀ l ∈ s.engine.ctxs, l.objid ≠ id) → s.engine.asking = [] → codeOf s id = some c →
          (c.unloading = false → Completes .codeObjectUnload s fun t => codeOf t id = some { c with unloading := true }
            ∧ Msg.codeObjectUnload id ∈ t.agenda ∧ KeepsMemory s t)
          ∧ (c.unloading = true → Completes .codeObjectUnload s fun t => codeOf t id = none
            ∧ (∀ r ∈ t.core.resident, r.1 ≠ id) ∧ KeepsMemory s t)))

/-- Launches (R38, R39, R43, R44, R45, R75, R78). A refused message is answered with its code and leaves
everything as it was. An accepted one adds N to the VALUE and to the owed count of COMPL, joins the launch
queue, and is answered with N. Where COMPL is homed on another device, that home is asked for the acceptance step, and
with its answer the launch enters the queue (log 61). A decision sends the next item of the one launch to its unit; aging raises a
launch one level; and an item joins the item queue of its core, where it raises an event unless IDLE waits for
it. -/
def Obligations.LaunchesReachTheirCores : Prop :=
  ∀ (s : State) (hdr : BitVec 512) (dev : BitVec 12) (token : BitVec 5) (lo hi : BitVec 21),
    let n := hdrItems hdr
    let compl := hdrCompl hdr
    (s.event = some (.launchMessage hdr (.host dev) token lo hi none) → homeHere s compl = true →
      (∀ code, launchRefusal s hdr (.host dev) lo hi = some code → Completes .launchMessage s fun t =>
        t.outbox = s.outbox ++ [.launchResponse dev (tokenWord 1 code 0)] ∧ t.engine = s.engine ∧ t.signals = s.signals
          ∧ t.core = s.core ∧ KeepsMemory s t)
      ∧ (∀ o, launchRefusal s hdr (.host dev) lo hi = none → objOf s compl = some o → Completes .launchMessage s fun t =>
        t.outbox = s.outbox ++ [.launchResponse dev (tokenWord 0 0 n)] ∧ t.core = s.core ∧ KeepsMemory s t
        ∧ (∃ l, t.engine.launches = s.engine.launches ++ [l] ∧ l.hdr = hdr ∧ l.next = 0 ∧ l.total = n
          ∧ l.prio = hdr.toNat / 2 ^ 248 % 4 ∧ l.accepted = s.clock.ref)
        ∧ ∃ p, objOf t compl = some p ∧ p.count = (o.count + n) % 2 ^ 36 ∧ p.owed.toNat = o.owed.toNat + n))
    ∧ (s.event = some (.launchMessage hdr (.host dev) token lo hi none) → homeHere s compl = false →
      headerRefusal s hdr (.host dev) lo hi = none → (kernelOf s hdr).isSome = true → Completes .launchMessage s fun t =>
        (∃ a : Asking, t.engine.asking = s.engine.asking ++ [a] ∧ a.hdr = hdr ∧ a.src = .host dev ∧ a.token = token
          ∧ t.outbox = s.outbox ++ [.event (.launchStep compl n (.host dev) s.loc.dev s.loc.die a.id a.place)])
        ∧ t.engine.launches = s.engine.launches ∧ t.signals = s.signals ∧ t.core = s.core ∧ KeepsMemory s t)
    ∧ (∀ a : Asking, s.event = some (.launchStepAnswer s.loc.dev s.loc.die a.id 0) → s.engine.asking = [a] →
      a.src = .host dev → a.place = true → Completes .launchMessage s fun t =>
        t.outbox = s.outbox ++ [.launchResponse dev (tokenWord 0 0 (hdrItems a.hdr))] ∧ t.engine.asking = []
        ∧ (∃ l, t.engine.launches = s.engine.launches ++ [l] ∧ l.hdr = a.hdr ∧ l.next = 0 ∧ l.total = hdrItems a.hdr)
        ∧ t.core = s.core ∧ KeepsMemory s t)
    ∧ (∀ (l : Launch) (c k : Nat), s.event = some .placementDecision → s.engine.launches = [l] → unitOf s l = some (c, k) →
        queueOpen s c k = true → Completes .placementDecision s fun t =>
          t.engine.launches = (if l.total ≤ l.next + 1 then [] else [{ l with next := l.next + 1 }])
          ∧ (if c = s.loc.cluster.toNat ∧ k = s.loc.core.toNat then Msg.itemDelivery (itemOf l c k) ∈ t.agenda
            else t.outbox = s.outbox ++ [.event (.itemDelivery (itemOf l c k))])
          ∧ KeepsMemory s t)
    ∧ (∀ l : Launch, s.event = some (.launchAging l.id) → s.engine.launches = [l] → Completes .launchAging s fun t =>
        t.engine.launches = [{ l with prio := l.prio - 1 }] ∧ KeepsMemory s t)
    ∧ (∀ item : Item, s.event = some (.itemDelivery item) → item.cluster = s.loc.cluster → item.core = s.loc.core →
        s.core.itemQ.length < 16 →
        ((s.at 0).idle = true → Completes .itemDelivery s fun t => t.core.itemQ = s.core.itemQ ++ [item]
          ∧ t.core.events = s.core.events ∧ KeepsMemory s t)
        ∧ ((s.at 0).idle = false → spilling s = false → s.core.events.length < 16 →
          SaveReady s (0x5900 + 16 * s.core.events.length) → Completes .itemDelivery s fun t =>
          t.core.itemQ = s.core.itemQ ++ [item] ∧ KeepsMemoryButSave s t (0x5900 + 16 * s.core.events.length) 16
          ∧ ∃ e, t.core.events = s.core.events ++ [e] ∧ e.cause = 0x40))

/-- Wait requests and discharges at their home (R47, R49, R54 to R57). A handle that matches no record is
answered with HANDLE; a wait whose condition fails is queued while anything is owed, and otherwise answered with
DEADLOCK; a set EVENT answers at once, and a SEM gives a unit with a RELEASE. A discharge applies its effect,
takes one from OWED, and wakes the waiter whose condition it made true. -/
def Obligations.WaitsAndDischargesMeet : Prop :=
  ∀ (s : State) (h : Word) (i : Fin 11) (o : Obj), homeHere s h = true →
    let sel := selfId s i
    let who := Agent.ctx sel
    let answers (j : Instr) (a : HomeAns) (P : State → Prop) : Prop :=
      Completes j s fun t => t.agenda = s.agenda ++ [.homeAnswer a sel] ∧ t.core = s.core ∧ KeepsMemory s t ∧ P t
    let st : Nat := if o.failed then 1 else 0
    let det : Nat := if o.failed then o.code else 0
    (s.event = some (.waitRequest h .wait who) → objOf s h = none →
      answers .waitRequest (.fault 9 h false) fun t => t.signals = s.signals)
    ∧ (s.event = some (.waitRequest h .wait who) → objOf s h = some o → inScope o who = true → o.queue = none →
      (o.holdsCond s = false → o.owed = 0 → answers .waitRequest (.fault 8 h false) fun t => t.signals = s.signals)
      ∧ (o.holdsCond s = false → o.owed ≠ 0 → answers .waitRequest .queued fun t =>
          objOf t h = some { o with waiters := o.waiters ++ [{ who := who, op := .wait }] })
      ∧ (o.kind = 1 → o.isSet = true → answers .waitRequest (.done (waitResult st det 0) none none) fun t =>
          t.signals = s.signals)
      ∧ (o.kind = 3 → 0 < o.count →
          Completes .waitRequest s fun t => KeepsMemory s t ∧ t.core = s.core ∧ ∃ p r, objOf t h = some p
            ∧ p.count + 1 = o.count ∧ p.owed = o.owed + 1
            ∧ t.agenda = s.agenda ++ [.homeAnswer (.done r none (some (o.handle, .release))) sel]))
    ∧ (∀ k how, s.event = some (.discharge h k how who) →
      (objOf s h = none → answers .discharge (.fault 9 h false) fun t => t.signals = s.signals)
      ∧ (objOf s h = some o → o.queue = none → o.waiters = [] → kindObl o.kind = k → how = .ok →
          Completes .discharge s fun t => KeepsMemory s t ∧ t.core = s.core ∧ ∃ p, objOf t h = some p
            ∧ p.owed = o.owed - 1 ∧ p.waiters = []
            ∧ (o.kind = 1 → p.isSet = true ∧ p.value = o.value)
            ∧ (o.kind = 2 → 1 ≤ o.count → p.count + 1 = o.count)
            ∧ (o.kind = 3 → p.count = (o.count + 1) % 2 ^ 36)
            ∧ (o.kind = 4 → p.isSet = false ∧ p.value = o.value))
      ∧ (∀ op, objOf s h = some o → o.queue = none → o.waiters = [{ who := who, op := op }] → o.kind = 2 → k = .signal →
          how = .ok → o.count = 1 → 1 < o.owed.toNat →
          Completes .discharge s fun t => KeepsMemory s t ∧ t.core = s.core
            ∧ Msg.wake (waitResult st det 0) none none sel ∈ t.agenda
            ∧ ∃ p, objOf t h = some p ∧ p.waiters = [] ∧ p.count = 0 ∧ p.owed = o.owed - 1))

/-- Home operations, cancels and hosts (R47, R50, R54, R63, R65, R71, R275 to R283). OFREE of a quiet object
takes its record away, and one that owes is answered with OWED; OBLIG creates an obligation within the limits of
R50; OQRY reads a field; a cancel of a queued waiter ends its wait with status 4 and the detail it names, 4 for a HOLD
(R63) and 2 for an obligation that came (R58). A host registers as
OBLIG does, and when it is lost its obligations are discharged with code 1. -/
def Obligations.HomesServeTheirObjects : Prop :=
  ∀ (s : State) (h : Word) (i : Fin 11) (o : Obj) (dev : BitVec 12), homeHere s h = true → objOf s h = some o →
    let sel := selfId s i
    let who := Agent.ctx sel
    let answers (a : HomeAns) (P : State → Prop) : Prop :=
      Completes .homeOperation s fun t => t.agenda = s.agenda ++ [.homeAnswer a sel] ∧ t.core = s.core
        ∧ KeepsMemory s t ∧ P t
    (inScope o who = true → o.queue = none →
      (s.event = some (.homeOperation (.ofree h) who) →
        (o.owed = 0 → o.waiters = [] → answers (.done 0 none none) fun t => objOf t h = none)
        ∧ (o.owed ≠ 0 → answers (.fault 10 h false) fun t => t.signals = s.signals))
      ∧ (s.event = some (.homeOperation (.oblig h) who) →
        (o.mayOwe = true → answers (.done 0 none (some (h, kindObl o.kind))) fun t => ∃ p, objOf t h = some p
          ∧ p.owed = o.owed + 1 ∧ (o.kind = 2 → p.count = (o.count + 1) % 2 ^ 36))
        ∧ (o.mayOwe = false → answers (.done 1 none none) fun t => t.signals = s.signals))
      ∧ (∀ field, s.event = some (.homeOperation (.oqry h field) who) →
        answers (.done (o.field field) none none) fun t => t.signals = s.signals))
    ∧ (inScope o who = false → ∀ field, s.event = some (.homeOperation (.oqry h field) who) →
        answers (.fault 6 h false) fun t => t.signals = s.signals)
    ∧ (∀ op how, s.event = some (.cancel h sel how) → o.waiters = [{ who := who, op := op }] → Completes .cancel s fun t =>
        t.agenda = s.agenda ++ [.wake (waitResult 4 how 0) none none sel] ∧ objOf t h = some { o with waiters := [] }
        ∧ KeepsMemory s t)
    ∧ (∀ k, s.event = some (.hostRegistration h k dev) → kindObl o.kind = k → o.queue = none → o.mayOwe = true →
        s.signals.hosts = [] → Completes .hostRegistration s fun t =>
          t.outbox = s.outbox ++ [.hostAnswer dev (.done 0 none none)]
          ∧ t.signals.hosts = [{ dev := dev, h := h, kind := k, mult := 1 }] ∧ (∃ p, objOf t h = some p ∧ p.owed = o.owed + 1)
          ∧ KeepsMemory s t)
    ∧ (∀ x : HostObl, s.event = some (.hostLost dev) → s.signals.hosts = [x] → x.dev = dev → Completes .hostLost s fun t =>
        t.agenda = s.agenda ++ List.replicate x.mult (.discharge x.h x.kind (.fail 1) (.host dev)) ∧ KeepsMemory s t)

/-- Answers and wakes reach their context (R54, R56, R275, R281). An answer ends the request: its result goes to
g[d] and the instruction is done; "queued" puts the slot in WAITING; a fault is taken precisely at the
instruction. A wake gives the result and makes the slot READY; on a pre-empted core it goes to the spill ring, unless
writing the ring ends in a machine check (R368). -/
def Obligations.AnswersAndWakesArrive : Prop :=
  ∀ (s : State) (i : Fin 11) (a : Asked) (d : BitVec 5) (r : Word), (s.at i).framed = false →
    let sel := selfId s i
    ((s.at i).act.blocked = some a → (s.at i).frame = none → a.d = some d →
      (∀ acq : Option (Word × OblKind), a.reserved = false → a.kind = none → a.op = none → acq = none →
        s.event = some (.homeAnswer (.done r none acq) sel) → Completes .homeAnswer s fun t =>
          (t.at i).act.blocked = none ∧ (d ≠ 0 → (t.at i).g d = r ∧ (t.at i).isPending (.g d) = false)
          ∧ (t.at i).queue.q0 = (s.at i).queue.q1 ∧ (t.at i).queue.q1 = (s.at i).queue.q2
          ∧ (t.at i).queue.q2 = (s.at i).queue.q2 + 4 ∧ KeepsMemory s t ∧ (∀ j, j ≠ i → t.at j = s.at j))
      ∧ (s.event = some (.homeAnswer .queued sel) → rankOf a.h < minHeld s i → Completes .homeAnswer s fun t =>
          (t.at i).slotState = .waiting ∧ (t.at i).act.blocked = none ∧ (t.at i).act.wait = some a
          ∧ (d ≠ 0 → (t.at i).isPending (.g d) = true) ∧ (t.at i).queue.q0 = (s.at i).queue.q1 ∧ KeepsMemory s t
          ∧ (∀ j, j ≠ i → t.at j = s.at j))
      ∧ (∀ (c : BitVec 8) (tval : Word), s.event = some (.homeAnswer (.fault c tval false) sel) → i ≠ 0 → c ≠ 22 → c ≠ 2 →
          Completes .homeAnswer s fun t => (t.at i).slotState = .trapped ∧ (t.at i).act.blocked = none
            ∧ (t.at i).trap.cause.toNat % 256 = c.toNat ∧ (t.at i).trap.tval = tval
            ∧ (t.at i).trap.epc0 = (s.at i).queue.q0 ∧ (t.at i).regs = (s.at i).regs
            ∧ (t.at 0).upcall.pend = (s.at 0).upcall.pend ||| BitVec.twoPow 10 (i.val - 1)))
    ∧ (s.event = some (.wake r none none sel) →
      (spilling s = false → (s.at i).act.wait = some a → (s.at i).heldFrom = none → a.d = some d →
        Completes .wake s fun t => (t.at i).slotState = .ready ∧ (t.at i).act.wait = none
          ∧ (d ≠ 0 → (t.at i).g d = r ∧ (t.at i).isPending (.g d) = false) ∧ KeepsMemory s t
          ∧ (∀ j, j ≠ i → t.at j = s.at j))
      ∧ (spilling s = true → (s.at i).heldFrom = none →
        (toSpill s (.msg (.wake r none none sel))).core.machineCheck = false → Completes .wake s fun t =>
          t.core.spill = s.core.spill ++ [.msg (.wake r none none sel)] ∧ t.core.ctxs = s.core.ctxs))

/-- Messages for the core (R61, R68, R78, R88, R89, R378). A transfer installs one unit on its slot, or, where
the slot is FREE, on the control context, which gets event 0x44; the Reeve reloads a spilled entry as its owed area
holds it; a
continuation joins its queue; the spill ring is delivered from its head; and CLUSTLD takes the load bytes of this core
and of the others. TAKE_UPCALL (R372): slot 0 at C level takes the trap of the lowest slot in PEND, from its saved frame, and
else the oldest event, as the event list of the save area has it, once there is a save area (R368). The record holds the queue as it stands, LVL C and the slot; IN-HANDLER is set and the
queue starts at VEC; its LLK lock lapses (R255). No register is written. -/
def Obligations.MessagesAndUpcallsReachTheCore : Prop :=
  (∀ (s : State) (i : Fin 11) (h : Word) (k : OblKind),
      let busy := (helperSlots.filter fun j => (s.at j).slotState != .free).length
      (∀ src, s.event = some (.obligationTransfer h k (selfId s i) src) → spilling s = false → s.core.spilled = [] →
        s.core.reeve.length < 256 →
        ((s.at i).slotState ≠ .free → (s.at i).act.wait = none → Completes .obligationTransfer s fun t =>
          owes t i h k = owes s i h k + 1 ∧ t.core.ctxs = s.core.ctxs ∧ t.core.events = s.core.events ∧ KeepsMemory s t)
        ∧ ((s.at i).slotState = .free → (s.at 0).act.wait = none → s.core.events.length < 16 →
          SaveReady s (0x5900 + 16 * s.core.events.length) →
          Completes .obligationTransfer s fun t => owes t 0 h k = owes s 0 h k + 1 ∧ t.core.ctxs = s.core.ctxs
            ∧ KeepsMemoryButSave s t (0x5900 + 16 * s.core.events.length) 16
            ∧ ∃ e, t.core.events = s.core.events ++ [e] ∧ e.cause.toNat = 0x44 + 256 * oblCode k ∧ e.tval = h))
      ∧ (∀ o : Obl, s.event = some (.refill (BitVec.ofNat 4 i.val)) → s.core.spilled = [o] → o.owner.toNat = i.val →
          refilling s i = true → s.core.reeve.length < 256 →
          ∀ pa, owedAddr s i 0 = some pa → eccBad s pa 16 = false →
          Completes .refill s fun t => t.core.reeve = s.core.reeve ++ [o.read (Memory.bytes s.mem pa 16)]
            ∧ t.core.spilled = [] ∧ t.core.ctxs = s.core.ctxs)
      ∧ (∀ record l, s.event = some (.continuationMessage ((selfId s 0).truncate 32) record l) → spilling s = false →
          s.core.contQ.length < 16 → (s.at 0).idle = true → Completes .continuationMessage s fun t =>
            t.core.contQ = s.core.contQ ++ [record] ∧ t.core.ctxs = s.core.ctxs ∧ KeepsMemory s t)
      ∧ (∀ e, s.event = some .spillRedelivery → s.core.preempted = false → s.core.spill = [.event e] →
          s.core.events.length < 16 → (keepEvent (dropSpill s) e).core.machineCheck = false →
          Completes .spillRedelivery s fun t => t.core.spill = []
            ∧ t.core.spillHead = s.core.spillHead + 1 ∧ t.core.events = s.core.events ++ [e] ∧ t.core.ctxs = s.core.ctxs)
      ∧ (∀ others hold, s.event = some (.coreLoads others hold) → Completes .clustldUpdate s fun t => KeepsMemory s t
          ∧ t.core = s.core ∧ t.cluster.others = others ∧ t.cluster.clustld = s.cluster.clustld)
      ∧ (s.event = some .clustldUpdate → Completes .clustldUpdate s fun t => KeepsMemory s t
          ∧ t.core = s.core ∧ ∀ n, n < 8 → t.cluster.clustld.toNat / 2 ^ (8 * n) % 256 =
            if n = s.loc.core.toNat then
              16 * busy + min 15 (s.core.itemQ.length + s.core.contQ.length + min 256 s.core.spill.length)
            else s.cluster.others.toNat / 2 ^ (8 * n) % 256))
  ∧ (∀ s : State, upcallDue s = true → (s.at 0).frame = none →
      let c := s.at 0
      let entered (t : State) (slot code detail : Nat) (tval : Word) : Prop :=
        (t.at 0).upcall.inHandler = true ∧ (t.at 0).queue = Queue.at (c.upcall.vec.zeroExtend 64)
          ∧ (t.at 0).trap.epc0 = c.queue.q0 ∧ (t.at 0).trap.epc1 = c.queue.q1 ∧ (t.at 0).trap.epc2 = c.queue.q2
          ∧ (t.at 0).trap.tval = tval ∧ (t.at 0).trap.cause.toNat / 2 ^ 44 % 16 = slot
          ∧ (t.at 0).trap.cause.toNat / 2 ^ 40 % 4 = 1 ∧ (t.at 0).trap.cause.toNat % 256 = code
          ∧ (t.at 0).trap.cause.toNat / 2 ^ 8 % 2 ^ 24 = detail ∧ (t.at 0).regs = c.regs ∧ (t.at 0).llk = none ∧ (t.at 0).level = .c
          ∧ ∀ j, j ≠ 0 → t.at j = s.at j
      (∀ (i : Fin 11) pa, helperSlots.find? (fun j => maskBit c.upcall.pend j) = some i →
        saveAddr s (0x800 * i.val + 0x5B8) .read = some pa → eccBad s pa 16 = false → Completes .takeUpcall s fun t =>
          entered t i.val (readNat s pa 1) (readNat s (pa + 1) 3) (BitVec.ofNat 64 (readNat s (pa + 8) 8)) ∧ KeepsMemory s t
          ∧ (t.at 0).upcall.pend = c.upcall.pend &&& ~~~ BitVec.twoPow 10 (i.val - 1) ∧ t.core.events = s.core.events)
      ∧ (∀ e rest, c.upcall.pend = 0 → s.core.events = e :: rest → s.core.sys.saveb = 0 → Completes .takeUpcall s fun t =>
          entered t 0 (e.cause.toNat % 256) (e.cause.toNat / 2 ^ 8 % 2 ^ 24) e.tval ∧ KeepsMemory s t ∧ t.core.events = rest
          ∧ (t.at 0).upcall.pend = 0)
      ∧ (∀ e rest pa, c.upcall.pend = 0 → s.core.events = e :: rest → s.core.sys.saveb ≠ 0 →
          saveAddr s 0x5900 .read = some pa → eccBad s pa 16 = false → (saveAddr s 0x5900).isSome = true →
          Completes .takeUpcall s fun t =>
            entered t 0 (readNat s pa 1) (readNat s (pa + 1) 3) (BitVec.ofNat 64 (readNat s (pa + 8) 8))
            ∧ KeepsMemoryButSave s t 0x5900 256 ∧ t.core.events = rest ∧ (t.at 0).upcall.pend = 0))

/-- Results and acknowledgements (R129, R173, R253, R255): a result goes to its register, which is no longer
pending, or marks it in error; a failed store is kept for the next fence; a refused access is tried again, and
raised after eight losses; LLK_LAPSE ends the lock; and the token of a job that has ended already is written no second time
(R131). -/
def Obligations.ResultsComeBack : Prop :=
  ∀ (s : State) (i : Fin 11) (r : Result), Memory.wf s.mem = true → r.who = selfId s i → (s.at i).framed = false →
    (s.event = some (.resultArrival r) → r.token = false → r.flags = 0 → r.pair = none → r.job = none →
      (r.cause = 0 → r.cls = 1 → Completes .resultArrival s fun t => KeepsMemory s t
        ∧ (r.num ≠ 0 → (t.at i).isPending (.g r.num) = false)
        ∧ ∀ n, (t.at i).g n = if n = r.num ∧ n ≠ 0 then r.value.truncate 64 else (s.at i).g n)
      ∧ (r.cause = 0 → r.cls = 2 → Completes .resultArrival s fun t => KeepsMemory s t
        ∧ (t.at i).isPending (.v r.num) = false ∧ ∀ n, (t.at i).v n = if n = r.num then r.value else (s.at i).v n)
      ∧ (r.cause ≠ 0 → r.cls = 1 → Completes .resultArrival s fun t => KeepsMemory s t
        ∧ (t.at i).pend.marks = (s.at i).pend.marks ++ [{ cls := 1, num := r.num, cause := r.cause, ea := r.ea }]
        ∧ ∀ n, (t.at i).g n = if n = r.num then 0 else (s.at i).g n))
    ∧ (∀ id, s.event = some (.resultArrival r) → r.job = some id → (∀ x ∈ s.cluster.remote, x.1 ≠ id) →
        (∀ j ∈ s.cluster.jobs, j.id ≠ id) → Completes .resultArrival s fun t => t = s)
    ∧ (∀ cause ea far, s.event = some (.storeAcknowledgement (selfId s i) cause ea far) → Completes .storeAcknowledgement s fun t =>
        KeepsMemory s t ∧ (t.at i).regs = (s.at i).regs ∧ (t.at i).pend.storeErr =
          if cause = 0 then (s.at i).pend.storeErr
          else (s.at i).pend.storeErr ++ [{ cls := 0, num := 0, cause := cause, ea := ea }])
    ∧ (∀ (a : Access) losses, s.event = some (.lockRetry a losses) → homeStep s a = (s, .refused) →
        Completes .lockRetry s fun t => KeepsMemory s t ∧ t.agenda = .lockRetry a (losses + 1) :: s.agenda
          ∧ (7 ≤ losses → a.who ∈ t.cluster.raised))
    ∧ (∀ (a : Access) losses, s.event = some (.lockRetry a losses) → a.kind = .store → isSystemSpace a.pa = false →
        s.hw.leases = [] → physExists s a.pa a.layout = true → lockRefuses s a.pa a.size a.who = false →
        eccBad s a.pa a.size = false → Completes .lockRetry s fun t => KeepsMemoryBut s t a.pa a.size
          ∧ readNat t a.pa a.size = a.data.toNat % 2 ^ (8 * a.size)
          ∧ SendsOne s t (.storeAcknowledgement a.who 0 a.ea (farDev s a.pa)) ∧ a.who ∉ t.cluster.raised)
    ∧ (∀ l, s.event = some (.llkLapse (selfId s i)) → (s.at i).llk = some l → Completes .llkLapse s fun t =>
        (t.at i).llk = none ∧ (∀ p ∈ t.cluster.locks, p.2 ≠ selfId s i) ∧ KeepsMemory s t)

/-- Replicated stores and host accesses (R239, R331, R339). The sequencer gives an MST the group's next stamp
and sends it to every member; a member writes its own copy, and the sequencing die acknowledges. A host access
reads or writes aligned memory of its device, above the BOUND of every TCM and in the order of the banks (R253), and is
answered with its tag; one that is not aligned is answered with PEER, which is the model's choice, for R339 is silent on
alignment (log 53), and so is one to a module that has left its domain (R397). -/
def Obligations.ReplicasAndHostsAccess : Prop :=
  ∀ (s : State) (a : Access) (mask : BitVec 8) (h : HostAcc), Memory.wf s.mem = true →
    let seqDie := BitVec.ofNat 3 (dieOfPlace a.pa)
    let pa := h.pa.toNat
    (s.event = some (.mstStamp a mask) → Completes .mstStamp s fun t => KeepsMemory s t
      ∧ (∀ die : BitVec 3, mask.getLsbD die.toNat = true → Msg.mstApply a mask (replicaOf s mask seqDie).stamp die ∈ t.agenda)
      ∧ (replicaOf t mask seqDie).stamp = (replicaOf s mask seqDie).stamp + 1)
    ∧ (∀ stamp (die : BitVec 3), s.event = some (.mstApply a mask stamp die) → a.kind = .mst →
        let place := replicaPlace a.pa die
        physExists s place = true → eccBad s place a.size = false → Completes .mstApply s fun t =>
          KeepsMemoryBut s t place a.size ∧ readNat t place a.size = a.data.toNat % 2 ^ (8 * a.size)
          ∧ (die = seqDie → t.agenda = s.agenda ++ [.storeAcknowledgement a.who 0 a.ea (farDev s a.pa)])
          ∧ (die ≠ seqDie → t.agenda = s.agenda))
    ∧ (s.event = some (.hostAccess h) → pa / 2 ^ 52 = s.loc.dev.toNat →
      (pa % max 1 h.size ≠ 0 ∨ 8 ≤ s.hw.control.leaving → Completes .hostAccess s fun t =>
        t.outbox = s.outbox ++ [.hostResponse h.dev h.tag 0 15] ∧ KeepsMemory s t)
      ∧ (s.hw.control.leaving < 8 → isSystemSpace pa = false → belowAnyBound s pa = false → pa % max 1 h.size = 0 →
        s.hw.leases = [] → engineRefused s (hostPort h.dev) (hostKeys h) = false → physExists s pa = true → eccBad s pa h.size = false →
        (h.kind = .load → Completes .hostAccess s fun t => KeepsMemory s t
          ∧ t.outbox = s.outbox ++ [.hostResponse h.dev h.tag (BitVec.ofNat 64 (readNat s pa h.size)) 0])
        ∧ (h.kind = .store → lockRefuses s pa h.size (15#4 ++ h.dev ++ 0#20) = false → Completes .hostAccess s fun t =>
          KeepsMemoryBut s t pa h.size ∧ readNat t pa h.size = h.data.toNat % 2 ^ (8 * h.size)
          ∧ t.outbox = s.outbox ++ [.hostResponse h.dev h.tag 0 0])))

/-- Requests at Millrace (R98, R102, R305 to R307). A PBIND whose descriptor failed at issue gives its status and detail,
frees its two reserved places and writes 0 to its second register; with no unit of BINDOBJ free it gives BINDBUSY; one of a
single core stage, its two objects being
live here, takes a unit of BINDOBJ, makes a binding, frees the two places, gives its binder the RELEASE and the SIGNAL, and
answers with token 0 and its handle. PSTAT of a handle that names no
binding gives REFUSED 18, and of a binding its answer; PFREE without the binding, or without the RELEASE of its binder,
is refused. GOVERNOR_SAMPLE (R93, R94): with one binding of two core stages, one whose queue stands at or above HI and
one at or below LO, one unit of GRANB size that the second may give moves to the first, and the next sample falls due. That
it is the lowest placement unit's, by the donor's own GRANB, is the model's choice (log 43). -/
def Obligations.MillraceAnswersAndGoverns : Prop :=
  (∀ (s : State) (i : Fin 11) (token : BitVec 5) (h xroot restb : Word) (lo hi : BitVec 21),
      (s.at i).framed = false →
      let who := selfId s i
      let asks (op : MillOp) : Prop := s.event = some (.millraceRequest op who token xroot restb lo hi)
      let gives (status detail : Nat) (second : Word) : Prop :=
        Completes .millraceRequest s fun t => GivesToken t i token (tokenWord status detail 0)
          ∧ (token + 1 ≠ 0 → (t.at i).g (token + 1) = second) ∧ t.mill.binds = s.mill.binds ∧ t.mill.insts = s.mill.insts
          ∧ KeepsMemory s t
      let answers (a : HomeAns) : Prop :=
        Completes .millraceRequest s fun t => t.agenda = s.agenda ++ [.homeAnswer a who] ∧ t.mill.binds = s.mill.binds
          ∧ t.mill.insts = s.mill.insts ∧ t.core = s.core ∧ KeepsMemory s t
      (∀ p status detail, asks (.pbind p) → p.fail = some (status, detail) → gives status detail 0
        ∧ Completes .millraceRequest s fun t => (t.at i).act.reserved = (s.at i).act.reserved - 2)
      ∧ (∀ (p : PipeSnap) (o : Obj), asks (.pbind p) → p.fail = none → s.mill.asking = none → homeHere s (pipeBind p) = true →
          objOf s (pipeBind p) = some o → o.kind = 3 → o.queue = none → o.count = 0 → gives 1 16 0)
      ∧ (∀ (p : PipeSnap) (r : BitVec 192) (e : BitVec 512) (core : W32) (o x : Obj), asks (.pbind p) → p.fail = none →
          s.mill.asking = none → (s.at i).act.wait = none → p.stages = [r] → p.entries = [e] → stKind r = 3 → p.units = [core] → s.core.spilled = [] →
          s.core.reeve.length < 255 → homeHere s (pipeBind p) = true → homeHere s (pipeEnd p) = true →
          objOf s (pipeBind p) = some o → o.kind = 3 → o.queue = none → 0 < o.count →
          objOf s (pipeEnd p) = some x → (x.kind = 1 ∨ x.kind = 2) → x.queue = none →
          Completes .millraceRequest s fun t => GivesToken t i token (tokenWord 0 0 0) ∧ KeepsMemory s t
            ∧ (∃ b, t.mill.binds = s.mill.binds ++ [b] ∧ b.binder = who ∧ b.bindObj = pipeBind p ∧ b.endObj = pipeEnd p
              ∧ b.desc = [r] ∧ (token + 1 ≠ 0 → ((t.at i).g (token + 1)).toNat =
                s.loc.dev.toNat * 2 ^ 52 + b.gen.toNat * 2 ^ 39 + b.place * 2 ^ 35 + b.inst * 2 ^ 20 + b.id))
            ∧ (t.at i).act.reserved = (s.at i).act.reserved - 2
            ∧ owes t i (pipeBind p) .release = owes s i (pipeBind p) .release + 1
            ∧ owes t i (pipeEnd p) .signal = owes s i (pipeEnd p) .signal + 1
            ∧ (∃ o', objOf t (pipeBind p) = some o' ∧ o'.count + 1 = o.count ∧ o'.owed = o.owed + 1))
      ∧ (asks (.pstat h) → bindingOf s h = none → gives 1 18 0)
      ∧ (∀ b inst, asks (.pstat h) → bindingOf s h = some b → instOf s b.inst = some inst → h.toNat / 2 ^ 47 % 32 < 17 →
          gives 0 0 (pstatValue s b inst (h.toNat / 2 ^ 47 % 32)))
      ∧ (∀ held, asks (.pfree h held) →
        (h.toNat / 2 ^ 47 % 32 ≠ 0 → answers (.done (tokenWord 1 9 0) none none))
        ∧ (h.toNat / 2 ^ 47 % 32 = 0 → bindingOf s h = none → answers (.done (tokenWord 1 18 0) none none))
        ∧ (∀ b, h.toNat / 2 ^ 47 % 32 = 0 → bindingOf s h = some b → holds s i b.bindObj .release = false →
          answers (.fault 6 h false))))
  ∧ (∀ (s : State) (b : Binding) (x y : Nat) (u : BoundUnit) (load : Nat × Nat × Nat) (spare : Nat × Nat × Nat),
      s.event = some .governorSample → s.mill.binds = [b] → coreStages b = [x, y] ∨ coreStages b = [y, x] → x ≠ y →
      stageLoad s b x = some load → load.2.1 ≤ load.1 → load.2.2 < load.1 →
      stageLoad s b y = some spare → spare.1 ≤ spare.2.2 → spare.1 < spare.2.1 →
      donorUnit b (s.mill.samples + 1) y = some u →
      Completes .governorSample s fun t => t.mill.samples = s.mill.samples + 1
        ∧ (∃ c, t.mill.binds = [c] ∧ c.id = b.id ∧ c.queues = b.queues ∧ c.units = b.units.map fun w =>
            if granGroup b y u w then { w with stage := x, moved := some (s.mill.samples + 1) } else w)
        ∧ ((∃ m ∈ t.timers, m.2 = .governorSample) ∨ Msg.governorSample ∈ t.agenda))

/-- The weight stream (R100, R101, R308, R316) with one consumer. At a segment start a stream with no one to
serve stops; a GATED consumer that is ready becomes ACTIVE with the image it has staged, and the segment is read; one
that is not holds the gate until its deadline, when it misses the segment. At the end of a segment an ACTIVE consumer without a bank
stage is GATED at the next; an entry that was held for a full queue goes in. -/
def Obligations.StreamsServeTheirConsumers : Prop :=
  ∀ (s : State) (inst : Nat) (i : Instance') (c : Consumer), instOf s inst = some i → i.consumers = [c] → i.segs ≠ 0 →
    i.stopped = false →
    let next : Nat := if i.seg + 1 < i.segs then i.seg + 1 else 0
    (s.event = some (.segmentStart inst) → i.reading = false → i.gateOpen = true →
      (c.state = .idle → Completes .segmentStart s fun t => KeepsMemory s t ∧ ∃ j, instOf t inst = some j ∧ j.stopped = true)
      ∧ (c.state = .gated → c.seg = i.seg → consReady s i i.seg c = true → Completes .segmentStart s fun t =>
          ((bindAt s inst c.place).bind bankStage = none ∨ i.units = [] → KeepsMemory s t) ∧ Msg.segmentEnd inst ∈ t.agenda
          ∧ ∃ j x, instOf t inst = some j ∧ j.reading = true ∧ j.seg = i.seg ∧ j.consumers = [x] ∧ x.state = .active
            ∧ x.cur = c.image.map fun im => (im, c.mode, c.seed))
      ∧ (c.state = .gated → c.seg = i.seg → consReady s i i.seg c = false → 1 ≤ i.deadline → Completes .segmentStart s fun t =>
          KeepsMemory s t ∧ (s.clock.ref + (i.deadline * 25 + 15) / 16, Msg.gateDeadline inst) ∈ t.timers
          ∧ ∃ j, instOf t inst = some j ∧ j.gateOpen = false ∧ j.reading = false ∧ j.consumers = [c]))
    ∧ (s.event = some (.gateDeadline inst) → i.reading = false → i.gateOpen = false →
        i.gateAt + (i.deadline * 25 + 15) / 16 ≤ s.clock.ref → c.state = .gated → c.seg = i.seg →
        consReady s i i.seg c = false → Completes .gateDeadline s fun t => KeepsMemory s t
          ∧ Msg.segmentStart inst ∈ t.agenda ∧ ∃ j, instOf t inst = some j ∧ j.seg = next
            ∧ j.consumers = [{ c with misses := c.misses + 1, missLap := i.lap, missSeg := i.seg }])
    ∧ (∀ b, s.event = some (.segmentEnd inst) → i.reading = true → c.state = .active →
        (s.mill.binds.find? fun x => x.inst == inst && x.place == c.place) = some b → bankStage b = none →
        Completes .segmentEnd s fun t => KeepsMemory s t ∧ Msg.segmentStart inst ∈ t.agenda
          ∧ ∃ j x, instOf t inst = some j ∧ j.reading = false ∧ j.seg = next ∧ j.consumers = [x] ∧ x.got = c.got + 1
            ∧ x.seg = (i.seg + 1) % i.segs ∧ x.first = some (c.first.getD i.seg) ∧ (c.lapsDue = 0 → x.state = .gated))
    ∧ (∀ b bs o s1, s.event = some (.bankStageEnqueue inst c.place) → c.waitEntry = some bs → c.owing = 0 →
        (s.mill.binds.find? fun x => x.inst == inst && x.place == c.place) = some b → (∀ r ∈ b.desc, stKind r < 4) →
        ((bankIndex b).bind fun k => assoc (k + 1) b.queues) = some o → enqueueFor s b o bs c.failCode = some s1 →
        Completes .bankStageEnqueue s fun t => t.mem = s1.mem ∧ Msg.segmentStart inst ∈ t.agenda
          ∧ ∃ j x, instOf t inst = some j ∧ j.consumers = [x] ∧ x.waitEntry = none ∧ x.got = c.got + 1)

/-- Translation and migration (R229 to R235). A walk fills the level-one TLB, or nothing where it faults; an
invalidation drops the entries of its page on the cores of its scope; a notice is an event of the control
context; one request copies and moves a page, changes its mappings and is answered; two opposite ones leave it where it
is and map it on the other side, with PINR when that is one move too many, each with a notice; MIGMAX is written; PINR
expires. The model's own choices, of log 51: a request names the page's PTE and its new place, the bytes and the PTE
change in one step, and a page that the agent has not moved yet lies where its PTE says. -/
def Obligations.PagesWalkMoveAndExpire : Prop :=
  ∀ (s : State) (xroot va page scope : Word) (domain : BitVec 8),
    let v := va.toNat % 2 ^ 55
    let dom := BitVec.ofNat 8 (xroot.toNat / 2 ^ 8 % 2 ^ 8)
    (s.event = some (.pageWalk xroot va) → xroot.getLsbD 0 = true → tlbFind dom v s.core.tlb1 = none →
      tlbFind dom v s.cluster.tlb2 = none →
      (∀ e large, walk s v 3 1 (rootOf xroot) = some (e, large) → s.core.tlb1.length < 64 → Completes .pageWalk s fun t =>
        t.core.tlb1 = s.core.tlb1 ++
          [{ domain := dom, vpage := if large then v / 2 ^ 29 else v / 2 ^ 16, large := large, pte := e }]
        ∧ t.core.ctxs = s.core.ctxs ∧ KeepsMemory s t)
      ∧ (walk s v 3 1 (rootOf xroot) = none → Completes .pageWalk s fun t => t.core = s.core ∧ t.cluster = s.cluster
        ∧ KeepsMemory s t))
    ∧ (s.event = some (.tlbInvalidation domain va scope) → scopeHolds scope s.loc.dev (selfId s 0) = true →
        Completes .tlbInvalidation s fun t => t.outbox = s.outbox ++ [.invalidated va] ∧ KeepsMemory s t
          ∧ (∀ x, x ∈ t.core.tlb1 ↔ x ∈ s.core.tlb1 ∧ x.covers domain v = false)
          ∧ (∀ x, x ∈ t.cluster.tlb2 ↔ x ∈ s.cluster.tlb2 ∧ x.covers domain v = false))
    ∧ (s.event = some (.completionNotice page) → spilling s = false → s.core.events.length < 16 →
        SaveReady s (0x5900 + 16 * s.core.events.length) →
        Completes .completionNotice s fun t => t.core.events = s.core.events ++ [{ cause := 0x43, tval := page }]
          ∧ t.core.sysMsg = true ∧ t.core.ctxs = s.core.ctxs
          ∧ KeepsMemoryButSave s t (0x5900 + 16 * s.core.events.length) 16)
    ∧ (∀ (i : Fin 11) (pte place : Word), s.event = some (.migrationRequest va (.ctx (selfId s i)) pte place) →
      va.toNat / 2 ^ 16 % 2 ^ 3 = s.loc.die.toNat → Memory.wf s.mem = true →
      let p := migPage s va pte
      let q := p.withPlace true place
      (∀ s1, s.agenda.find? (opposes va pte (.ctx (selfId s i))) = none → p.onDevice = false → p.pinned = false →
        (p.recent s.clock.ref).length + 1 ≤ s.hw.control.migmax.toNat → migCopy s q true = some s1 →
        Completes .migrationRequest s fun t =>
          t.agenda = s.agenda ++ [.completionNotice va] ∧ t.outbox = s.outbox ++ [.moved va q.dev true false false]
          ∧ (∃ x ∈ t.hw.mig, x.va = va ∧ x.pte = pte ∧ x.onDevice = true ∧ x.remote = false ∧ x.dev = q.dev)
          ∧ (q.pte = 0 → t.mem = s1.mem) ∧ (q.pte ≠ 0 → (readNat t q.pte.toNat 8).testBit 0 = true)
          ∧ (∀ a, (a < q.dev.toNat ∨ q.dev.toNat + migBytes s q ≤ a) → (a < q.pte.toNat ∨ q.pte.toNat + 8 ≤ a) →
            Memory.get t.mem a = Memory.get s.mem a))
      ∧ (∀ (dev : BitVec 12) place', p.pinned = false → s.agenda = [.migrationRequest va (.host dev) pte place'] →
        let pin := decide (s.hw.control.migmax.toNat < (p.recent s.clock.ref).length + 1)
        Completes .migrationRequest s fun t =>
          t.agenda = [.completionNotice va]
          ∧ t.outbox = s.outbox ++
            [.moved va (if p.onDevice then p.dev else p.host) p.onDevice true (pin && p.onDevice), .notice dev va]
          ∧ (∃ x ∈ t.hw.mig, x.va = va ∧ x.pte = pte ∧ x.onDevice = p.onDevice ∧ x.remote = true ∧ x.pinned = pin)
          ∧ (pin = true → (s.clock.ref + 15625000, Msg.pinrExpiry va pte) ∈ t.timers)
          ∧ (∀ a, (a < p.pte.toNat ∨ p.pte.toNat + 8 ≤ a) → Memory.get t.mem a = Memory.get s.mem a)))
    ∧ (∀ max : BitVec 8, s.event = some (.migrationConfig max) → max ≠ 0 → Completes .migrationRequest s fun t =>
        t.hw.control.migmax = max ∧ KeepsMemory s t ∧ t.core = s.core)
    ∧ (∀ p pte, s.event = some (.pinrExpiry va pte) → (s.hw.mig.find? fun q => q.is va pte) = some p →
        Memory.wf s.mem = true →
        Completes .pinrExpiry s fun t => { p with pinned := false } ∈ t.hw.mig
          ∧ ∀ a, (a < p.pte.toNat ∨ p.pte.toNat + 8 ≤ a) → Memory.get t.mem a = Memory.get s.mem a)

/-- Leases (R240 to R244). A record sets its lease up under its lessor and id; RECLAIM clears the bitmap of failed pages,
starts the first sixteen page copies and the bound, and tells the control context of UPLOC, held here as event 0x42 or
sent where that core stands elsewhere; a page that is copied goes to its place, one that fails is marked in the bitmap,
and the last one brings the lease to STATE 2, with the second event and, here, the completion for the runtime; the
lessee's acknowledgement ends it; and the bound, reached before that, is remembered. -/
def Obligations.LeasesDemoteTheirPages : Prop :=
  ∀ (s : State) (record : BitVec 512) (bitmap : Word) (id lessor : BitVec 12) (l : Lease),
    let new : Lease := { record := record, copied := 0, failed := [], reached := false, bitmap := bitmap.toNat }
    let place := 0x5900 + 16 * s.core.events.length
    let up := BitVec.ofNat 32 (l.fld 224 32)
    let told (t : State) (done : Bool) (failed : Nat) : Prop :=
      (upHere s up = true → t.core.events = s.core.events ++
        [{ cause := if done then 0x142 else 0x42, tval := id.zeroExtend 64 }]
        ∧ t.outbox = s.outbox ++ if done then [.demotion id failed l.bitmap] else [])
      ∧ (upHere s up = false → t.core.events = s.core.events
        ∧ t.outbox = s.outbox ++ [.event (.demotionEvent up id done failed l.bitmap)])
    (s.event = some (.leaseSetup record bitmap) → new.fld 316 4 < 3 → new.id ≠ 0 → Completes .leaseSetup s fun t =>
      leaseOf t (BitVec.ofNat 12 new.lessor) (BitVec.ofNat 12 new.id) = some new ∧ KeepsMemory s t)
    ∧ (leaseOf s s.loc.dev id = some l →
      (s.event = some (.reclaim id) → l.fld 316 4 = 0 → spilling s = false → s.core.events.length < 16 →
        (l.bitmap = 0 ∨ s.core.sys.saveb = 0) → SaveReady s place → Memory.wf s.mem = true →
        Completes .reclaim s fun t =>
          (∃ x, leaseOf t s.loc.dev id = some x ∧ x.fld 316 4 = 1 ∧ x.copied = l.copied)
          ∧ (s.clock.ref + l.bound, Msg.boundReached s.loc.dev id) ∈ t.timers
          ∧ (∀ p, p < 16 → p < l.pages → Msg.demotionPageCopy id p ∈ t.agenda)
          ∧ told t false l.failed.length
          ∧ (l.bitmap ≠ 0 → (∀ k, k < l.pages / 8 → Memory.get t.mem (l.bitmap + k) = 0)
            ∧ KeepsMemoryBut s t l.bitmap (l.pages / 8))
          ∧ (l.bitmap = 0 → KeepsMemoryButSave s t place 16))
      ∧ (∀ page, s.event = some (.demotionPageCopy id page) → l.fld 316 4 = 1 → page = l.copied →
          let src := l.fld 384 64 + 65536 * page
          let dst := l.fld 448 64 + 65536 * page
          (physExists s src = true → physExists s dst = true → eccBad s src 65536 = false →
            (page + 1 < l.pages → Completes .demotionPageCopy s fun t =>
              t.mem = Memory.putBytes s.mem dst (Memory.bytes s.mem src 65536)
              ∧ leaseOf t s.loc.dev id = some { l with copied := page + 1 }
              ∧ (page + 16 < l.pages → Msg.demotionPageCopy id (page + 16) ∈ t.agenda))
            ∧ (l.pages ≤ page + 1 → spilling s = false → s.core.events.length < 16 → s.core.sys.saveb = 0 →
              Completes .demotionPageCopy s fun t =>
                t.mem = Memory.putBytes s.mem dst (Memory.bytes s.mem src 65536)
                ∧ (∃ x, leaseOf t s.loc.dev id = some x ∧ x.fld 316 4 = 2) ∧ told t true l.failed.length))
          ∧ (eccBad s src 65536 = true → Memory.wf s.mem = true →
            (page + 1 < l.pages → Completes .demotionPageCopy s fun t =>
              leaseOf t s.loc.dev id = some { l with copied := page + 1, failed := l.failed ++ [page] }
              ∧ (l.bitmap ≠ 0 → (Memory.get t.mem (l.bitmap + page / 8)).getLsbD (page % 8) = true)
              ∧ ∀ a, a ≠ l.bitmap + page / 8 → Memory.get t.mem a = Memory.get s.mem a)
            ∧ (l.pages ≤ page + 1 → spilling s = false → s.core.events.length < 16 → l.bitmap = 0 → SaveReady s place →
              Completes .demotionPageCopy s fun t => (∃ x, leaseOf t s.loc.dev id = some x ∧ x.fld 316 4 = 2)
                ∧ told t true (l.failed.length + 1) ∧ KeepsMemoryButSave s t place 16)))
      ∧ (s.event = some (.leaseAcknowledgement id) → l.fld 316 4 = 2 → Completes .leaseAcknowledgement s fun t =>
          (∃ x, leaseOf t s.loc.dev id = some x ∧ x.fld 316 4 = 3) ∧ KeepsMemory s t))
    ∧ (leaseOf s lessor id = some l → s.event = some (.boundReached lessor id) → l.fld 316 4 ≠ 3 →
        Completes .boundReached s fun t => leaseOf t lessor id = some { l with reached := true } ∧ KeepsMemory s t)
    ∧ (∀ core done failed map, s.event = some (.demotionEvent core id done failed map) → upHere s core = true →
        spilling s = false → s.core.events.length < 16 → SaveReady s place → Completes .reclaim s fun t =>
          t.core.events = s.core.events ++ [{ cause := if done then 0x142 else 0x42, tval := id.zeroExtend 64 }]
          ∧ t.outbox = s.outbox ++ (if done then [.demotion id failed map] else []) ∧ t.core.ctxs = s.core.ctxs
          ∧ KeepsMemoryButSave s t place 16)

/-- The link layer and the states of a port (R336, R338, R359 to R361). An UNLOCKED port delivers and acknowledges a
management flit that comes in sequence with its CRC, asks for a replay of one whose CRC is wrong or before which a number is
missing, and drops one that it has had; a flit it sends takes the next number and stays in the replay buffer until it is
acknowledged, and waits while its class has no credit or the buffer has no place; a replay request acknowledges what came
before it and the rest goes again, and more than 8 for one flit put a protected port into ERROR. The model's own choices, of
log 53: one acknowledgement goes out with each flit accepted, and a flit is handed to its port through the FLIT_RECEIVE
event. LOCK after a finished session and START lead to RUN; loss of FEC lock, an exhausted key and a
configuration write put a protected port into ERROR; a new key starts at a batch boundary, where the sender announces it
to its peer; a management reset leads from there to UNLOCKED, and training to a
fresh port. SPDM (R359): on a trained port in UNLOCKED each of the nine requests is taken in its turn, FINISH ends the
session with fresh keys, and a failed or misplaced one starts it over and is reported. -/
def Obligations.PortsFollowTheirStates : Prop :=
  (∀ (s : State) (p : BitVec 5) (f : Flit) (v : Word) (seq : BitVec 16) (tx : Bool),
      let x := portAt s p
      let becomes (i : Instr) (P : Port → Prop) : Prop :=
        Completes i s fun t => P (portAt t p) ∧ (∀ q, q ≠ p → portAt t q = portAt s q) ∧ t.core = s.core ∧ KeepsMemory s t
      let guarded : Prop := x.state = .locked ∨ x.state = .run
      (s.event = some (.flitReceive p f) → x.state = .unlocked → f.vc = 7 →
        (f.seq = x.rxSeq → f.crc = Config.crc24 f.payload f.seq f.vc → Completes .flitReceive s fun t =>
          portAt t p = { x with rxSeq := x.rxSeq + 1 }
            ∧ t.outbox = s.outbox ++ [.event (.flitAck p f.seq), .delivered p f])
        ∧ (f.crc ≠ Config.crc24 f.payload f.seq f.vc ∨ 1 ≤ (f.seq - x.rxSeq).toNat ∧ (f.seq - x.rxSeq).toNat < 2 ^ 15 →
          Completes .flitReceive s fun t =>
          portAt t p = x ∧ t.outbox = s.outbox ++ [.event (.replayRequest p x.rxSeq)])
        ∧ (f.crc = Config.crc24 f.payload f.seq f.vc → 2 ^ 15 ≤ (f.seq - x.rxSeq).toNat → Completes .flitReceive s fun t =>
          portAt t p = x ∧ t.outbox = s.outbox))
      ∧ (s.event = some (.flitReceive p f) → x.state = .unlocked → f.vc ≠ 7 → Completes .flitReceive s fun t =>
          portAt t p = x ∧ t.outbox = s.outbox)
      ∧ (s.event = some (.replayRequest p seq) → x.state = .unlocked → Completes .replayRequest s fun t =>
          (portAt t p).replay = x.replay.dropWhile (fun g => g.seq != seq)
          ∧ t.outbox = s.outbox ++ (x.replay.dropWhile fun g => g.seq != seq).map fun g => .flit p g)
      ∧ (s.event = some (.replayRequest p seq) → guarded → 8 ≤ x.replays → x.replaySeq = seq →
          becomes .replayRequest fun y => y.state = .error)
      ∧ (s.event = some (.flitAck p f.seq) → ∀ old new, x.replay = old ++ f :: new → (∀ g ∈ old, g.seq ≠ f.seq) →
          becomes .replayRequest fun y => y = { x with
            replay := new, replays := if new.any fun g => g.seq == x.replaySeq then x.replays else 0 })
      ∧ (∀ payload last, s.event = some (.flitSend p 7 payload last) → x.state = .unlocked →
          (x.replay.length < 1023 → (x.replay.filter fun g => g.vc == 7).length ≤ Config.classCredits 7 →
          Completes .flitReceive s fun t => ∃ g : Flit, g.seq = x.txSeq ∧ g.payload = payload
            ∧ g.crc = Config.crc24 payload x.txSeq 7 ∧ t.outbox = s.outbox ++ [.flit p g]
            ∧ portAt t p = { x with txSeq := x.txSeq + 1, replay := x.replay ++ [g] })
          ∧ (1023 ≤ x.replay.length ∨ Config.classCredits 7 < (x.replay.filter fun g => g.vc == 7).length →
            Completes .flitReceive s fun t => portAt t p = x ∧ t.outbox = s.outbox
              ∧ t.agenda = .flitSend p 7 payload last :: s.agenda))
      ∧ (s.event = some (.lock p) → (x.state = .unlocked ∧ x.spdm = 9 → becomes .lock fun y => y = { x with state := .locked })
        ∧ (x.spdm ≠ 9 → becomes .lock fun y => y = x))
      ∧ (s.event = some (.start p) → (x.state = .locked → s.hw.control.recovery = false →
          becomes .start fun y => y = { x with state := .run })
        ∧ (x.state ≠ .locked → becomes .start fun y => y = x))
      ∧ (guarded → (s.event = some (.fecLockLoss p) → becomes .fecLockLoss fun y => y.state = .error)
        ∧ (s.event = some (.keyExhaustion p tx) → becomes .keyExhaustion fun y => y.state = .error)
        ∧ (s.event = some (.portConfigurationWrite p v) →
          becomes .portConfigurationWrite fun y => y.state = .error ∧ y.config = x.config)
        ∧ (s.event = some (.keyUpdate p true) → x.txBatch = [] → becomes .keyUpdate fun y =>
            y = { x with txKey := x.txKey + 1, txFlits := 0, txCounter := 0 })
        ∧ (s.event = some (.keyUpdate p true) → x.txBatch = [] → Completes .keyUpdate s fun t =>
            t.outbox = s.outbox ++ [.event (.keyUpdate p false)])
        ∧ (s.event = some (.keyUpdate p false) → (x.batch = [] → becomes .keyUpdate fun y =>
            y.rxKey = x.rxKey + 1 ∧ y.rxFlits = 0 ∧ y.rxCounter = 0 ∧ y.txKey = x.txKey)
          ∧ (x.batch ≠ [] → becomes .keyUpdate fun y => y = { x with rxDue := true })))
      ∧ (s.event = some (.portConfigurationWrite p v) → x.state = .unlocked →
          becomes .portConfigurationWrite fun y => y = { x with config := v })
      ∧ (s.event = some (.managementReset p) → (x.state = .error → becomes .managementReset fun y =>
          y.state = .unlocked ∧ y.spdm = 0 ∧ y.config = x.config) ∧ (x.state ≠ .error → becomes .managementReset fun y => y = x))
      ∧ (s.event = some (.linkTraining p) → becomes .linkTraining fun y =>
          y.state = .unlocked ∧ y.trained = true ∧ y.spdm = 0 ∧ y.config = x.config))
  ∧ (∀ (s : State) (p : BitVec 5) (ok : Bool), (portAt s p).state = .unlocked → (portAt s p).trained = true →
      s.hw.control.seedErased = false →
      let x := portAt s p
      let step (i : Instr) (m : Msg) (k : Nat) : Prop := s.event = some m →
        (x.spdm = k → ok = true → Completes i s fun t => (portAt t p).spdm = k + 1 ∧ (portAt t p).state = .unlocked
          ∧ t.outbox = s.outbox ∧ KeepsMemory s t)
        ∧ (x.spdm ≠ k ∨ ok = false → Completes i s fun t => (portAt t p).spdm = 0 ∧ (portAt t p).state = .unlocked
          ∧ t.outbox = s.outbox ++ [.report k] ∧ KeepsMemory s t)
      step .getVersion (.getVersion p ok) 0 ∧ step .getCapabilities (.getCapabilities p ok) 1
      ∧ step .negotiateAlgorithms (.negotiateAlgorithms p ok) 2 ∧ step .getDigests (.getDigests p ok) 3
      ∧ step .getCertificate (.getCertificate p ok) 4 ∧ step .challenge (.challenge p ok) 5
      ∧ step .getMeasurements (.getMeasurements p ok) 6 ∧ step .keyExchange (.keyExchange p ok) 7
      ∧ step .finish (.finish p ok) 8
      ∧ (s.event = some (.finish p true) → x.spdm = 8 → Completes .finish s fun t =>
          (portAt t p).session = x.session + 1 ∧ (portAt t p).txKey = 0 ∧ (portAt t p).rxKey = 0))

/-- Bell (R355 to R358). At a boundary a due ceiling applies and the clock takes its multiplier, and this
module's ANN is carried up; LEADER alone takes its own ANN as the minimum; a result is due at its boundary; the
cores issue nothing for 160 cycles after a change; a join counts from the fourth boundary, this module's with reference
lock alone, and a leave from the second; and a member's limit below CEIL is a breach, which fails every phase that runs or
is to start. Multipliers lie from 20 to 40 (R15). -/
def Obligations.BellKeepsTheCeiling : Prop :=
  ∀ (s : State) (r : BitVec 6) (j : Nat) (dev : BitVec 12),
    let k := s.clock.ref / 1250
    let b := s.bell
    let legal (x : BitVec 6) : Prop := 20 ≤ x.toNat ∧ x.toNat ≤ 40
    (s.event = some .epochBoundary → b.due = [(r, j)] → j ≤ k → b.breached = false → b.joining = [] → b.leaving = [] →
      b.state = 2 → (∀ m ∈ b.members, m.2 < 3) → Completes .epochBoundary s fun t =>
        t.bell.ceil = r ∧ t.bell.due = [] ∧ t.clock.n = r.toNat ∧ t.bell.carried = b.ann ∧ KeepsMemory s t
        ∧ (s.clock.n ≠ r.toNat → t.core.settle = s.clock.ref + 160 ∧ (s.clock.ref + 160, Msg.clockSettle) ∈ t.timers))
    ∧ (s.event = some (.contributionCutoff []) → isLeader s = true → b.members = [(s.loc.dev, 0)] → b.joining = [] →
        legal b.carried → Completes .contributionCutoff s fun t => t.bell.next = b.carried ∧ t.outbox = s.outbox ∧ KeepsMemory s t
          ∧ (b.due = [] → b.carried ≠ b.ceil → ∃ n, k + 2 ≤ n ∧ t.bell.due = [(b.carried, n)]))
    ∧ (s.event = some (.bellResult r j) → b.due = [] → legal r → Completes .bellResult s fun t => t.bell.next = r ∧ KeepsMemory s t
        ∧ t.bell.due = if r = b.ceil then [] else [(r, j)])
    ∧ (s.event = some .clockSettle → s.core.settle ≤ s.clock.ref → Completes .clockSettle s fun t => t.core.settle = 0
        ∧ t.core.ctxs = s.core.ctxs ∧ KeepsMemory s t)
    ∧ (s.event = some (.join dev) → dev = s.loc.dev → s.clock.locked = false → Completes .join s fun t => t = s)
    ∧ (s.event = some (.join dev) → (dev = s.loc.dev → s.clock.locked = true) → b.joining = [] → Completes .join s fun t => t.bell.joining = [(dev, k + 4)]
        ∧ (dev = s.loc.dev → b.state = 0 → t.bell.state = 1) ∧ KeepsMemory s t)
    ∧ (s.event = some (.leave dev) → b.leaving = [] → Completes .leave s fun t => t.bell.leaving = [(dev, k + 2)]
        ∧ (dev = s.loc.dev → b.state ≠ 0 → t.bell.state = 3) ∧ KeepsMemory s t)
    ∧ (s.event = some (.breach r) → legal r → Completes .breach s fun t => t.clock.n = min s.clock.n r.toNat ∧ t.bell.ann = r
        ∧ KeepsMemory s t
        ∧ (r.toNat < b.ceil.toNat → isMember s = true → t.bell.breached = true
          ∧ ∀ x ∈ t.exchange.runs, x.failure ≠ 0 ∧ x.breached = true))

/-- Core messages (R63, R376 to R382, R391) from the OS agent. PREEMPT with a save area stops the core and is
acknowledged; RESUME and RESTART make it issue again, RESTART at S level at SVEC; SRESUME returns a slot that a
debugger stopped; HOLD holds a slot, UNHOLD lets it go, and the system level may free a held slot that holds no
obligation (log 65). After a machine check RESTART waits until the fault has been cleared or fenced; that a fault counts as
fenced when this core or its cluster is FENCED or SPARED is the model's choice (log 49). -/
def Obligations.CoreMessagesStopAndResume : Prop :=
  ∀ (s : State) (src : Agent) (slot : BitVec 4) (i : Fin 11), src = .osAgent → slot.toNat = i.val →
    (s.event = some (.preempt src) → (∀ j, (s.at j).xch.inph = false ∧ (s.at j).act.blocked = none ∧ (s.at j).llk = none) →
      (∀ s1, (writeFrames s slots).bind (fun t => writeHeader t true) = some s1 → Completes .preempt s fun t =>
        t.core.preempted = true ∧ t.outbox = s.outbox ++ [.preempted] ∧ t.mem = s1.mem
          ∧ (∀ j, (t.at j).regs = (s.at j).regs))
      ∧ (s.core.sys.saveb = 0 → Completes .preempt s fun t => t.core.machineCheck = true ∧ t.core.stopped = true
          ∧ t.core.preempted = s.core.preempted))
    ∧ (s.event = some (.resume src) → s.core.preempted = true → s.core.stopped = false → s.core.machineCheck = false →
        s.core.spill = [] → (∀ j, (s.at j).framed = false) → (saveRead s 0x5800 256).isSome = true →
        Completes .resume s fun t => t.core.preempted = false ∧ t.core.stopped = false ∧ t.core.ctxs = s.core.ctxs
          ∧ KeepsMemory s t)
    ∧ (s.event = some .restart → s.core.machineCheck = true → (fenceOf s (.core (myCore s))).state.toNat < 2 →
        (fenceOf s (.cluster (myCluster s))).state.toNat < 2 → Completes .restart s fun t => t = s)
    ∧ (s.event = some .restart → s.core.stopped = true → s.hw.control.recovery = false →
        (s.core.machineCheck = false ∨ 2 ≤ (fenceOf s (.core (myCore s))).state.toNat) →
        s.core.spill = [] → (∀ j, (s.at j).framed = false) →
        Completes .restart s fun t => t.core.stopped = false ∧ t.core.machineCheck = false ∧ (t.at 0).level = .s
          ∧ (t.at 0).queue = Queue.at s.core.sys.svec ∧ (t.at 0).trap.cause.toNat % 256 = 0
          ∧ (∀ j, (t.at j).regs = (s.at j).regs) ∧ KeepsMemory s t)
    ∧ (∀ bs, s.event = some (.sresume src slot) → (s.at i).debugged = true → (s.at i).slotState = .trapped → i ≠ 0 →
        readFrame s i = some bs → Completes .sresume s fun t => (t.at i).slotState = .ready ∧ (t.at i).debugged = false
          ∧ (t.at 0).upcall.pend = (s.at 0).upcall.pend &&& ~~~ BitVec.twoPow 10 (i.val - 1) ∧ KeepsMemory s t)
    ∧ (s.event = some (.hold src slot) → i ≠ 0 → (s.at i).heldFrom = none → (s.at i).act.blocked = none →
      ((s.at i).slotState = .trapped → Completes .hold s fun t => (t.at i).slotState = .held
        ∧ (t.at i).heldFrom = some .trapped ∧ KeepsMemory s t)
      ∧ (∀ s1, (s.at i).slotState = .ready → (s.at i).llk = none → (s.at i).xch.inph = false → (s.at i).framed = false →
        (s.at i).act.wait = none → writeFrame s i = some s1 → Completes .hold s fun t => (t.at i).slotState = .held
          ∧ (t.at i).heldFrom = some .ready ∧ t.mem = s1.mem ∧ (t.at i).regs = (s.at i).regs))
    ∧ (s.event = some (.unhold src slot) → (s.at i).slotState = .held → (s.at i).heldFrom = some .trapped →
        Completes .unhold s fun t => (t.at i).slotState = .trapped ∧ (t.at i).heldFrom = none ∧ KeepsMemory s t
          ∧ (t.at i).regs = (s.at i).regs)
    ∧ (s.event = some (.freeHeld src slot) → (s.at i).slotState = .held → oblsOf s i = [] → spillOwes s i = false →
        Completes .unhold s fun t => (t.at i).slotState = .free ∧ KeepsMemory s t ∧ ∀ j, j ≠ i → (t.at j).regs = (s.at j).regs)

/-- Fences (R392 to R397). UNIT_FENCE of a unit that is IN makes it FENCING with its deadline, a core's with a notice for the
runtime, and the last of a cluster's cores its cluster too; a drained core is FENCED; a core that still has helpers at its
deadline is pre-empted and its helpers are held, and once they are held their obligations are failed and they are freed; at
its deadline a channel is FENCED and absent; UNFENCE brings a unit back and clears its core's fault; a write that skips a
state is logged; a fenced cluster gets a spare, while there is one; leaving begins with the launch engine refusing. Repair
and scrubbing (R390, R395, R398): ROW_REPAIR leaves every byte of the row as it reads, without error; SCRUB of an
uncorrectable word logs it, of any other word changes nothing, and waits while a context holds its lock bit; a corrected
error is counted, and logged with CLASS 1 past a threshold, the model's own constant (log 86). -/
def Obligations.UnitsFenceAndRepair : Prop :=
  (∀ (s : State) (u : FenceUnit) (n c m : Nat),
      (s.event = some (.unitFence u) → (fenceOf s u).state = 0 → u = .core n → Completes .unitFence s fun t =>
        (fenceOf t u).state = 1 ∧ Msg.unitFence u ∈ t.agenda ∧ OutMsg.fenceNotice u ∈ t.outbox ∧ KeepsMemory s t
          ∧ (s.clock.ref + ((fenceOf s u).deadline.toNat * 625 + 3) / 4, Msg.fenceDeadline u) ∈ t.timers
          ∧ ((∀ k, k < 8 → 8 * (n / 8) + k ≠ n → (fenceOf s (.core (8 * (n / 8) + k))).state ≠ 0) →
            (fenceOf s (.cluster (n / 8))).state = 0 →
            (fenceOf t (.cluster (n / 8))).state = 1 ∧ Msg.unitFence (.cluster (n / 8)) ∈ t.agenda))
      ∧ (s.event = some (.unitFence u) → u = .core (myCore s) → (fenceOf s u).state = 1 →
        (coreDrained s = true → Completes .unitFence s fun t => (fenceOf t u).state = 2 ∧ KeepsMemory s t)
        ∧ (coreDrained s = false → Completes .unitFence s fun t => (fenceOf t u).state = 1
          ∧ t.agenda = s.agenda ++ [.unitFence u] ∧ KeepsMemory s t))
      ∧ (s.event = some (.unitFence u) → 2 ≤ (fenceOf s u).state.toNat → unitDie u = s.loc.die.toNat →
          s.hw.log.length < 4096 → Completes .unitFence s fun t => fenceOf t u = fenceOf s u
            ∧ ∃ r, t.hw.log = s.hw.log ++ [r] ∧ r.unit = unitField u ∧ r.time = s.clock.ref)
      ∧ (s.event = some (.fenceDeadline u) → u = .core (myCore s) → (fenceOf s u).state = 1 →
        (∀ i : Fin 11, i ≠ 0 → ((s.at i).slotState = .ready ∨ (s.at i).slotState = .trapped) → (s.at i).heldFrom = none →
          s.core.preempted = false → s.core.stopped = false → Completes .fenceDeadline s fun t =>
            Msg.preempt .osAgent ∈ t.agenda ∧ Msg.hold .osAgent (BitVec.ofNat 4 i.val) ∈ t.agenda
            ∧ Msg.fenceDeadline u ∈ t.agenda ∧ t.core = s.core ∧ (fenceOf t u).state = 1)
        ∧ (allHeld s = true → Completes .fenceDeadline s fun t => (fenceOf t u).state = 2
          ∧ (∀ i : Fin 11, i ≠ 0 → (t.at i).slotState = .free)
          ∧ (∀ (i : Fin 11) o, i ≠ 0 → o ∈ oblsOf s i → 0 < o.mult → (s.at i).slotState = .held →
            Msg.discharge o.h o.kind (.fail 0x2000001) .osAgent ∈ t.agenda)))
      ∧ (s.event = some (.fenceDeadline u) → u = .channel c → (fenceOf s u).state = 1 → Completes .fenceDeadline s fun t =>
          (fenceOf t u).state = 2 ∧ channelKey s c ∈ t.hw.absent ∧ KeepsMemory s t)
      ∧ (s.event = some (.unfence u) → (fenceOf s u).state = 2 → Completes .unfence s fun t => (fenceOf t u).state = 0
          ∧ (∀ k, u = .channel k → channelKey s k ∉ t.hw.absent) ∧ (u = .core (myCore s) → t.core.machineCheck = false)
          ∧ KeepsMemory s t)
      ∧ (s.event = some (.spareAssign m) → (fenceOf s (.cluster m)).state = 2 → m ≠ myCluster s →
          let used := (assoc (BitVec.ofNat 3 (m / 128)) s.hw.control.spares).getD 0
          (used < 8 → Completes .spareAssign s fun t =>
            (fenceOf t (.cluster m)).state = 3 ∧ KeepsMemory s t
            ∧ assoc (BitVec.ofNat 3 (m / 128)) t.hw.control.spares = some (used + 1))
          ∧ (8 ≤ used → s.grade = .fv8 → clustersLeft s (BitVec.ofNat 3 (m / 128)) < 128 → Completes .spareAssign s fun t =>
            t.hw.control.reduced = true ∧ (fenceOf t (.cluster m)).state = 2 ∧ KeepsMemory s t
            ∧ t.outbox = s.outbox ++ [.clusterCount (BitVec.ofNat 3 (m / 128)) (clustersLeft s (BitVec.ofNat 3 (m / 128)))]))
      ∧ (s.event = some .moduleLeave → s.hw.control.leaving = 0 → Completes .moduleLeave s fun t =>
          t.engine.refusing = true ∧ t.hw.control.leaving = 1 ∧ Msg.moduleLeave ∈ t.agenda ∧ KeepsMemory s t))
  ∧ (∀ (s : State) (pa : Word) (spare : Word),
      (s.event = some (.rowRepair pa spare) → pa.toNat % 64 = 0 → Completes .rowRepair s fun t =>
        t.mem = s.mem ∧ eccBad t pa.toNat 64 = false)
      ∧ (s.event = some (.scrub pa) → scrubRefused s pa.toNat = false →
        (eccBad s pa.toNat 8 = false → Completes .scrub s fun t => t.hw = s.hw ∧ t.mem = s.mem)
        ∧ (eccBad s pa.toNat 8 = true → pa.toNat / 2 ^ 52 = s.loc.dev.toNat → storeDie pa.toNat = s.loc.die.toNat →
          s.hw.log.length < 4096 → Completes .scrub s fun t => t.mem = s.mem
          ∧ ∃ r, t.hw.log = s.hw.log ++ [r] ∧ r.cls = 2 ∧ r.addr = pa ∧ r.time = s.clock.ref))
      ∧ (s.event = some (.scrub pa) → scrubRefused s pa.toNat = true → Completes .scrub s fun t =>
          t.agenda = s.agenda ++ [.scrub pa] ∧ t.mem = s.mem ∧ t.hw = s.hw)
      ∧ (∀ unit, s.event = some (.corrected unit pa) → s.hw.log.length < 4096 →
        let k := (assoc unit s.hw.corrected).getD 0 + 1
        Completes .scrub s fun t => t.mem = s.mem ∧ assoc unit t.hw.corrected = some k
          ∧ (Config.eccThreshold unit < k → ∃ r, t.hw.log = s.hw.log ++ [r] ∧ r.cls = 1 ∧ r.addr = pa ∧ r.unit = unit)
          ∧ (k ≤ Config.eccThreshold unit → t.hw.log = s.hw.log)))

/-- Firmware (R400 to R402). The image in flash runs where it passes the checks; one that does not leads to recovery, unless
the seed is gone. An update is staged and written over the old image, and then the fused minimum rises; a restart checks
flash again and runs what passes; recovery takes an image over a LOCKED port into flash. Power, alarms and heat (R16, R401
to R404). POWER_ON takes one step after the other once an image runs: the stacks are repaired, clusters that fail the
self-test get spares, the core is stopped, ports train, and the next step waits until they are up; RESTART follows, and
launches are accepted. POWER_FAIL resets the module and keeps its fuses and its flash; an alarm erases the keys and puts
every port into ERROR, and the second within a second stops the cores; a hot die, also at 125 °C, and a domain above its
budget lower the multiplier by one, a die's once in an epoch, through ANN for a member and at once above 105 °C; outside a
group the controller sets it. The model's own choices: memory stays through POWER_FAIL, and SAVEB and OWEDB lie in the
die's SRAM (log 52); each report lowers its domain's budget by one n from what is in force (log 73); board, rack and L5
port stand in each die's response slot at step 5 (log 47). -/
def Obligations.FirmwarePowerAndAlarms : Prop :=
  (∀ (s : State) (addr len : Word),
      let c := s.hw.control
      let bytes := Memory.bytes s.mem addr.toNat len.toNat
      let runs (t : State) (v svn : Nat) : Prop := t.hw.control.running = true ∧ t.hw.control.version = BitVec.ofNat 32 v
        ∧ t.hw.control.svn = BitVec.ofNat 32 svn ∧ t.core = s.core ∧ KeepsMemory s t
      (s.event = some .boot → c.recovery = false →
        (∀ v svn, imageOk c.flash c.minSvn.toNat = some (v, svn) → Completes .boot s fun t => runs t v svn)
        ∧ (imageOk c.flash c.minSvn.toNat = none → Completes .boot s fun t => t.hw.control.running = false
          ∧ t.hw.control.recovery = !c.seedErased ∧ t.core = s.core ∧ KeepsMemory s t))
      ∧ (s.event = some (.firmwareUpdate addr len) → c.running = true →
        (c.staged = none → imageOk bytes (max c.minSvn.toNat c.svn.toNat) = none → Completes .firmwareUpdate s fun t =>
          t.hw = s.hw ∧ t.outbox = s.outbox ++ [.report 401] ∧ KeepsMemory s t)
        ∧ (∀ im, c.staged = none → imageOk bytes (max c.minSvn.toNat c.svn.toNat) = some im →
          Completes .firmwareUpdate s fun t =>
            t.hw.control.writing = true ∧ t.hw.control.staged = some bytes ∧ t.hw.control.minSvn = c.minSvn
            ∧ t.hw.control.flash = c.flash ∧ Msg.firmwareUpdate addr len ∈ t.agenda ∧ KeepsMemory s t)
        ∧ (∀ im v svn least, c.staged = some im → imageOk im least = some (v, svn) → Completes .firmwareUpdate s fun t =>
          t.hw.control.writing = false ∧ t.hw.control.staged = none ∧ t.hw.control.flash = im
          ∧ t.hw.control.minSvn = BitVec.ofNat 32 svn ∧ t.hw.control.version = c.version ∧ KeepsMemory s t))
      ∧ (s.event = some .controllerRestart → c.writing = false → c.recovery = false →
        (∀ v svn, imageOk c.flash c.minSvn.toNat = some (v, svn) → Completes .controllerRestart s fun t =>
          runs t v svn ∧ t.bell = s.bell)
        ∧ (imageOk c.flash c.minSvn.toNat = none → Completes .controllerRestart s fun t => t.hw.control.running = false
          ∧ t.hw.control.recovery = !c.seedErased ∧ t.core = s.core))
      ∧ (∀ v svn (p : Fin 32), s.event = some (.recovery addr len) → c.recovery = true → c.seedErased = false →
          s.hw.ports[p].state = .locked → imageOk bytes c.minSvn.toNat = some (v, svn) → Completes .recovery s fun t =>
            runs t v svn ∧ t.hw.control.recovery = false ∧ t.hw.control.minSvn = BitVec.ofNat 32 svn
            ∧ t.hw.control.flash = bytes))
  ∧ (∀ (s : State) (die : BitVec 3) (temp watts : Nat) (d : PowerDomain) (n : BitVec 6),
      let c := s.hw.control
      let mailbox (k off : Nat) : Nat := s.loc.dev.toNat * 2 ^ 52 + 2 ^ 51 + k * 2 ^ 41 + off
      (s.event = some .powerOn → c.step < 7 →
        (c.step = 0 → c.running = false → Completes .powerOn s fun t => t.hw.control.step = 0 ∧ t.core = s.core
          ∧ t.agenda = s.agenda ∧ KeepsMemory s t)
        ∧ (c.step = 5 → portsUp s = false → Completes .powerOn s fun t => t.hw.control.step = 5 ∧ t.core = s.core
          ∧ t.agenda = s.agenda ++ [.powerOn] ∧ KeepsMemory s t)
        ∧ (c.step ≠ 0 ∨ c.running = true → c.step ≠ 5 ∨ portsUp s = true → Completes .powerOn s fun t =>
          t.hw.control.step = c.step + 1
          ∧ (c.step ≠ 4 → KeepsMemory s t)
          ∧ (c.step = 1 → ∀ a k, a / 2 ^ 52 = s.loc.dev.toNat → a % 2 ^ 52 + k ≤ 2 ^ 40 → eccBad t a k = false)
          ∧ (c.step = 2 → ∀ m ∈ Config.selfTestFails, (fenceOf t (.cluster m)).state = 2 ∧ Msg.spareAssign m ∈ t.agenda)
          ∧ (c.step = 4 → (∀ p, p < 32 → Msg.linkTraining (BitVec.ofNat 5 p) ∈ t.agenda) ∧ t.hw.leases = [])
          ∧ (c.step = 4 → Memory.wf s.mem = true → (∀ a, isSystemSpace a = false → Memory.get t.mem a = Memory.get s.mem a)
            ∧ ∀ k, k < 8 → readNat t (mailbox k 64) 8 = s.board % 2 ^ 64 ∧ readNat t (mailbox k 72) 8 = s.rack % 2 ^ 64
              ∧ readNat t (mailbox k 80) 8 = s.l5Port % 2 ^ 64)
          ∧ (c.step + 1 < 7 → Msg.powerOn ∈ t.agenda)
          ∧ (c.step = 3 → t.core.stopped = true ∧ t.core.sys.saveb.toNat / 2 ^ 56 = 3 ∧ t.core.sys.owedb.toNat / 2 ^ 56 = 3
            ∧ ∀ j, (t.at j).user.xroot.getLsbD 0 = false)
          ∧ (c.step = 5 → Msg.restart ∈ t.agenda)
          ∧ (c.step = 6 → t.engine.refusing = false)))
      ∧ (s.event = some .powerFail → Completes .powerFail s fun t => t.core = Core.reset ∧ t.loc = s.loc ∧ t.mem = s.mem
          ∧ t.hw.control.minSvn = c.minSvn ∧ t.hw.control.flash = c.flash ∧ t.hw.control.seedErased = c.seedErased
          ∧ t.hw.control.running = false ∧ t.engine.refusing = true
          ∧ t.hw.control.recovery = (c.recovery || c.writing) ∧ ∀ p : Fin 32, t.hw.ports[p].state = .unlocked)
      ∧ (∀ level : BitVec 2, s.event = some (.securityAlarm level) →
          Completes .securityAlarm s fun t => t.hw.control.keysErased = true
            ∧ (∀ p : Fin 32, t.hw.ports[p].state = .error ∧ t.hw.ports[p].spdm = 0)
            ∧ (level = 2 ∨ c.recovery = true ∨ (∃ a, c.lastAlarm = some a ∧ s.clock.ref < a + 156250000) →
              t.hw.control.seedErased = true ∧ t.core.stopped = true ∧ OutMsg.stopCores ∈ t.outbox)
            ∧ (level ≠ 2 → c.recovery = false → c.lastAlarm = none → s.cluster.jobs = [] → t.core = s.core
              ∧ t.hw.control.seedErased = c.seedErased ∧ KeepsMemory s t))
      ∧ (s.event = some (.thermalLimit die temp) →
        (temp ≤ 95 → Completes .thermalLimit s fun t => t.clock = s.clock ∧ t.bell = s.bell ∧ t.agenda = s.agenda
          ∧ assoc die t.hw.control.temps = some temp ∧ KeepsMemory s t)
        ∧ (95 < temp → Completes .thermalLimit s fun t =>
          t.agenda = s.agenda ++ (if 125 ≤ temp then [.securityAlarm 1] else []) ∧ KeepsMemory s t
          ∧ (c.budget = [] → 20 ≤ s.clock.n → s.clock.n ≤ 40 →
            (s.bell.state = 0 → t.clock.n = max 20 (s.clock.n - 1))
            ∧ (s.bell.state = 1 → t.clock.n = max 20 (s.clock.n - 1) ∧ t.bell.ann.toNat = t.clock.n))
          ∧ (c.budget = [] → isMember s = true → 20 ≤ s.bell.ann.toNat → s.bell.ann.toNat ≤ 40 →
            t.bell.ann.toNat = max 20 (s.bell.ann.toNat - 1)
            ∧ (temp ≤ 105 → t.clock = s.clock) ∧ (105 < temp → t.clock.n = min s.clock.n t.bell.ann.toNat))
          ∧ (∀ b, c.budget = [(.die die, b, s.clock.ref / 1250)] → s.bell.state = 0 → 20 ≤ s.clock.n → s.clock.n ≤ b →
            b ≤ 40 → t.clock = s.clock)))
      ∧ (s.event = some (.powerDraw d watts) →
        (watts ≤ powerBudget d → Completes .thermalLimit s fun t => t = s)
        ∧ (powerBudget d < watts → c.budget = [] → 20 ≤ s.clock.n → s.clock.n ≤ 40 → s.bell.state = 0 →
          Completes .thermalLimit s fun t => t.clock.n = max 20 (s.clock.n - 1) ∧ KeepsMemory s t))
      ∧ (s.event = some (.controllerClock n) → s.bell.state = 0 → Completes .thermalLimit s fun t =>
          t.clock.n = max 20 (min 40 n.toNat) ∧ KeepsMemory s t))
end

