-- ==== Sys2Proof/Laws/Memory.lean ====
section
/-!
SUPPORT. The laws of memory: a read after a write, and the canonical form, which every write keeps.
-/

namespace Sys2Proof.Machine

/-- The byte at the head of a list that `Memory.cons` builds, and every other byte. -/
theorem Memory.get_cons (a : Nat) (b : Byte) (m : List (Nat × BitVec 8)) (x : Nat)
    (h : ∀ y, y ≤ a → Memory.get m y = emptyByte) :
    Memory.get (Memory.cons a b m) x = if x = a then b else Memory.get m x := by
  unfold Memory.cons
  split
  · subst b
    split
    · next e => exact h x (by omega)
    · rfl
  · simp only [Memory.get]
    by_cases lt : x < a
    · rw [if_pos lt, if_neg (by omega), h x (by omega)]
    · rw [if_neg lt]

/-- An address below every listed one reads as an unlisted one. -/
theorem Memory.get_below {lo : Nat} {m : List (Nat × BitVec 8)} (h : Memory.wfFrom lo m = true) {x : Nat}
    (lt : x < lo) : Memory.get m x = emptyByte := by
  cases m with
  | nil => rfl
  | cons c rest =>
    obtain ⟨k, v⟩ := c
    simp only [Memory.wfFrom, Bool.and_eq_true, decide_eq_true_eq] at h
    simp only [Memory.get]
    rw [if_pos (by omega)]

/-- The canonical form above a bound holds above a lower one. -/
theorem Memory.wfFrom_mono {lo lo' : Nat} {m : List (Nat × BitVec 8)} (h : Memory.wfFrom lo m = true)
    (le : lo' ≤ lo) : Memory.wfFrom lo' m = true := by
  cases m with
  | nil => rfl
  | cons c rest =>
    obtain ⟨k, v⟩ := c
    simp only [Memory.wfFrom, Bool.and_eq_true, decide_eq_true_eq] at h ⊢
    exact ⟨⟨by omega, h.1.2⟩, h.2⟩

/-- A read after a write: the byte written, and every other byte as before. -/
theorem Memory.get_putFrom {lo : Nat} {m : List (Nat × BitVec 8)} (h : Memory.wfFrom lo m = true) (a : Nat) (b : Byte)
    (x : Nat) : Memory.get (Memory.put m a b) x = if x = a then b else Memory.get m x := by
  induction m generalizing lo with
  | nil => exact Memory.get_cons a b [] x fun _ _ => rfl
  | cons c rest ih =>
    obtain ⟨k, v⟩ := c
    have hr := h
    simp only [Memory.wfFrom, Bool.and_eq_true, decide_eq_true_eq] at hr
    simp only [Memory.put]
    by_cases lt : a < k
    · rw [if_pos lt, Memory.get_cons a b _ x]
      intro y le
      simp only [Memory.get]
      rw [if_pos (by omega)]
    · rw [if_neg lt]
      by_cases eq : a = k
      · subst eq
        rw [if_pos rfl, Memory.get_cons a b rest x fun y le => Memory.get_below hr.2 (by omega)]
        by_cases e : x = a
        · rw [if_pos e, if_pos e]
        · rw [if_neg e, if_neg e]
          simp only [Memory.get, if_neg e]
          by_cases l : x < a
          · rw [if_pos l, Memory.get_below hr.2 (by omega)]
          · rw [if_neg l]
      · rw [if_neg eq]
        simp only [Memory.get, ih hr.2]
        by_cases l : x < k
        · rw [if_pos l, if_pos l, if_neg (by omega)]
        · rw [if_neg l, if_neg l]
          by_cases e : x = k
          · rw [if_pos e, if_pos e, if_neg (by omega)]
          · rw [if_neg e, if_neg e]

/-- A read after a write in a canonical memory. -/
theorem Memory.get_put {m : List (Nat × BitVec 8)} (h : Memory.wf m = true) (a : Nat) (b : Byte) (x : Nat) :
    Memory.get (Memory.put m a b) x = if x = a then b else Memory.get m x := Memory.get_putFrom h a b x

/-- `Memory.cons` keeps the canonical form. -/
theorem Memory.cons_wfFrom {a lo : Nat} {m : List (Nat × BitVec 8)} (b : Byte) (le : lo ≤ a)
    (h : Memory.wfFrom (a + 1) m = true) : Memory.wfFrom lo (Memory.cons a b m) = true := by
  unfold Memory.cons
  split
  · exact Memory.wfFrom_mono h (by omega)
  · next ne => simp [Memory.wfFrom, le, ne, h]

/-- A write keeps the canonical form above a bound that its address meets. -/
theorem Memory.put_wfFrom {lo : Nat} {m : List (Nat × BitVec 8)} (h : Memory.wfFrom lo m = true) (a : Nat) (b : Byte)
    (le : lo ≤ a) : Memory.wfFrom lo (Memory.put m a b) = true := by
  induction m generalizing lo with
  | nil => exact Memory.cons_wfFrom b le rfl
  | cons c rest ih =>
    obtain ⟨k, v⟩ := c
    have hr := h
    simp only [Memory.wfFrom, Bool.and_eq_true, decide_eq_true_eq] at hr
    simp only [Memory.put]
    by_cases lt : a < k
    · rw [if_pos lt]
      refine Memory.cons_wfFrom b le ?_
      simp only [Memory.wfFrom, Bool.and_eq_true, decide_eq_true_eq]
      exact ⟨⟨by omega, hr.1.2⟩, hr.2⟩
    · rw [if_neg lt]
      by_cases eq : a = k
      · rw [if_pos eq]
        exact Memory.cons_wfFrom b le (eq ▸ hr.2)
      · rw [if_neg eq]
        simp only [Memory.wfFrom, Bool.and_eq_true, decide_eq_true_eq]
        exact ⟨hr.1, ih hr.2 (by omega)⟩

/-- A write keeps the canonical form. -/
@[simp] theorem Memory.put_wf {m : List (Nat × BitVec 8)} (h : Memory.wf m = true) (a : Nat) (b : Byte) :
    Memory.wf (Memory.put m a b) = true := Memory.put_wfFrom h a b (Nat.zero_le a)

/-- Writing bytes keeps the canonical form. -/
@[simp] theorem Memory.putBytes_wf {m : List (Nat × BitVec 8)} (h : Memory.wf m = true) (a : Nat) (bs : List Byte) :
    Memory.wf (Memory.putBytes m a bs) = true := by
  induction bs generalizing m a with
  | nil => exact h
  | cons b bs ih => exact ih (Memory.put_wf h a b) (a + 1)

/-- A read after consecutive bytes are written: the byte written there, and every byte outside them as before. -/
theorem Memory.get_putBytes {m : List (Nat × BitVec 8)} (h : Memory.wf m = true) (a : Nat) (bs : List Byte) (x : Nat) :
    Memory.get (Memory.putBytes m a bs) x
      = if a ≤ x ∧ x < a + bs.length then bs.getD (x - a) emptyByte else Memory.get m x := by
  induction bs generalizing m a with
  | nil => simp only [Memory.putBytes, List.length_nil, Nat.add_zero]; rw [if_neg (by omega)]
  | cons b bs ih =>
    simp only [Memory.putBytes, ih (Memory.put_wf h a b), Memory.get_put h, List.length_cons]
    by_cases e : x = a
    · subst e
      rw [if_neg (by omega), if_pos rfl, if_pos (by omega)]
      simp
    · by_cases r : a + 1 ≤ x ∧ x < a + 1 + bs.length
      · rw [if_pos r, if_pos (by omega), show x - a = (x - (a + 1)) + 1 by omega]
        simp
      · rw [if_neg r, if_neg e, if_neg (by omega)]

/-- Dropping listed cells keeps the canonical form above a bound. -/
theorem Memory.filter_wfFrom {lo : Nat} {m : List (Nat × BitVec 8)} (h : Memory.wfFrom lo m = true)
    (p : Nat × BitVec 8 → Bool) : Memory.wfFrom lo (m.filter p) = true := by
  induction m generalizing lo with
  | nil => rfl
  | cons c rest ih =>
    obtain ⟨k, v⟩ := c
    simp only [Memory.wfFrom, Bool.and_eq_true, decide_eq_true_eq] at h
    by_cases hp : p (k, v) = true
    · rw [List.filter_cons_of_pos hp]
      simp only [Memory.wfFrom, Bool.and_eq_true, decide_eq_true_eq]
      exact ⟨h.1, ih h.2⟩
    · rw [List.filter_cons_of_neg hp]
      exact Memory.wfFrom_mono (ih h.2) (by omega)

/-- Dropping listed cells keeps the canonical form. -/
@[simp] theorem Memory.filter_wf {m : List (Nat × BitVec 8)} (h : Memory.wf m = true) (p : Nat × BitVec 8 → Bool) :
    Memory.wf (m.filter p) = true := Memory.filter_wfFrom h p

/-- A fold of operations that keep the canonical form keeps it. -/
theorem foldl_memWf {α : Type} (f : State → α → State)
    (hf : ∀ t a, Memory.wf t.mem = true → Memory.wf (f t a).mem = true) (l : List α) {s : State}
    (h : Memory.wf s.mem = true) : Memory.wf (l.foldl f s).mem = true := by
  induction l generalizing s with
  | nil => exact h
  | cons a l ih => exact ih (hf s a h)

/-- A fold of operations that leave memory as it is leaves it so. -/
theorem foldl_mem {α : Type} (f : State → α → State) (hf : ∀ t a, (f t a).mem = t.mem) (l : List α) (s : State) :
    (l.foldl f s).mem = s.mem := by
  induction l generalizing s with
  | nil => rfl
  | cons a l ih => exact (ih (f s a)).trans (hf s a)

end Sys2Proof.Machine
end

