-- ==== Sys2Proof/Laws/KeepOps.lean ====
section
/-!
SUPPORT. Every operation of Machine/Ops.lean keeps the canonical form of memory.
-/

namespace Sys2Proof.Machine

@[simp] theorem writeNat_memWf {s : State} (h : Memory.wf s.mem = true) (pa : Nat) (n : Nat) (v : Nat) :
    Memory.wf (writeNat s pa n v).mem = true := by
  simp [writeNat, h]

@[simp] theorem writeBytes_memWf {s : State} (h : Memory.wf s.mem = true) (pa : Nat) (bs : List Byte) :
    Memory.wf (writeBytes s pa bs).mem = true := by
  simp [writeBytes, h]

@[simp] theorem State.setAt_mem (s : State) (i : Fin 11) (c : Ctx) : (State.setAt s i c).mem = s.mem := by
  simp [State.setAt]

@[simp] theorem State.mod_mem (s : State) (f : Ctx → Ctx) : (State.mod s f).mem = s.mem := by simp [State.mod]

@[simp] theorem State.modCore_mem (s : State) (f : Core → Core) : (State.modCore s f).mem = s.mem := by
  simp [State.modCore]

@[simp] theorem State.modCluster_mem (s : State) (f : Cluster → Cluster) :
    (State.modCluster s f).mem = s.mem := by
  simp [State.modCluster]

@[simp] theorem State.modAct_mem (s : State) (i : Fin 11) (f : Activity → Activity) :
    (State.modAct s i f).mem = s.mem := by
  simp [State.modAct]

@[simp] theorem wg_mem (s : State) (r : BitVec 5) (x : Word) : (wg s r x).mem = s.mem := by simp [wg]

@[simp] theorem send_mem (s : State) (i : Msg) : (send s i).mem = s.mem := by simp [send]

@[simp] theorem after_mem (s : State) (due : Nat) (i : Msg) : (after s due i).mem = s.mem := by simp [after]

@[simp] theorem out_mem (s : State) (m : OutMsg) : (out s m).mem = s.mem := by simp [out]

@[simp] theorem takeFree_mem (s : State) : (takeFree s).2.mem = s.mem := by simp [takeFree]

@[simp] theorem retire_mem (s : State) : (retire s).mem = s.mem := by simp [retire]

@[simp] theorem tlbFill_mem (s : State) (domain : BitVec 8) (va : Nat) (e : Word) (large : Bool) :
    (tlbFill s domain va e large).mem = s.mem := by
  simp [tlbFill]

@[simp] theorem findLeaf_mem (s : State) (xroot : Word) (va : Nat) : (findLeaf s xroot va).1.mem = s.mem := by
  unfold findLeaf
  grind [tlbFill_mem]

@[simp] theorem translate_mem (s : State) (xroot : Word) (level : Level) (ea : Word) (acc : AccType) :
    (translate s xroot level ea acc).1.mem = s.mem := by
  unfold translate
  grind [findLeaf_mem]

@[simp] theorem logError_mem (s : State) (r : ErrRecord) : (logError s r).mem = s.mem := by simp [logError]

@[simp] theorem logEcc_mem (s : State) (pa : Nat) (lay : optParam (BitVec 2) 0) : (logEcc s pa lay).mem = s.mem := by
  simp only [logEcc]
  (repeat' split) <;> simp

theorem saveWrite_memWf {s : State} (h : Memory.wf s.mem = true) (off : Nat) (bs : List Byte) {post : State}
    (e : saveWrite s off bs = some post) : Memory.wf post.mem = true := by
  unfold saveWrite at e
  (repeat' split at e) <;> cases e <;> simp_all

theorem writeFrame_memWf {s : State} (h : Memory.wf s.mem = true) (i : Fin 11) {post : State}
    (e : writeFrame s i = some post) : Memory.wf post.mem = true := by
  unfold writeFrame at e
  grind [State.setAt_mem, → saveWrite_memWf, Memory.putBytes_wf]

theorem writeHeader_memWf {s : State} (h : Memory.wf s.mem = true) (preempted : Bool) {t : State}
    (e : writeHeader s preempted = some t) : Memory.wf t.mem = true := by
  simp only [writeHeader, Option.bind_eq_bind, Option.bind_eq_some_iff] at e
  obtain ⟨a, ha, b, hb, ht⟩ := e
  exact saveWrite_memWf (saveWrite_memWf (saveWrite_memWf h _ _ ha) _ _ hb) _ _ ht

theorem writeFrames_memWf {s : State} (h : Memory.wf s.mem = true) (x : List (Fin 11)) {post : State}
    (e : writeFrames s x = some post) : Memory.wf post.mem = true := by
  fun_induction writeFrames <;> grind [→ writeFrame_memWf, Memory.putBytes_wf]

@[simp] theorem endLlk_mem (s : State) (i : Fin 11) : (endLlk s i).mem = s.mem := by
  unfold endLlk
  (repeat' split) <;> simp

@[simp] theorem logCheck_mem (s : State) (code : Cause) (addr : Word) : (logCheck s code addr).mem = s.mem := by
  simp [logCheck]

@[simp] theorem stopIssue_mem (s : State) (check : Bool) : (stopIssue s check).mem = s.mem := by simp [stopIssue]

@[simp] theorem stopCore_memWf {s : State} (h : Memory.wf s.mem = true) (check : Bool) :
    Memory.wf (stopCore s check).mem = true := by
  have h0 : Memory.wf (slots.foldl endLlk s).mem = true := by rw [foldl_mem _ (fun t i => endLlk_mem t i)]; exact h
  unfold stopCore
  dsimp only
  split
  · next t e =>
    obtain ⟨a, ha, ht⟩ := Option.bind_eq_some_iff.mp e
    rw [stopIssue_mem]
    exact writeHeader_memWf (writeFrames_memWf h0 _ ha) _ ht
  · rw [stopIssue_mem, logCheck_mem]
    exact h0

@[simp] theorem machineCheck_memWf {s : State} (h : Memory.wf s.mem = true) (code : Cause) (addr : Word)
    (frames : Bool) : Memory.wf (machineCheck s code addr frames).mem = true := by
  unfold machineCheck
  dsimp only
  split <;> simp [h]

@[simp] theorem saveSync_memWf {s : State} (h : Memory.wf s.mem = true) (off : Nat) (bs : List Byte) :
    Memory.wf (saveSync s off bs).mem = true := by
  unfold saveSync
  split
  · exact h
  · split
    · next t e => exact saveWrite_memWf h off bs e
    · exact machineCheck_memWf h _ _ _

@[simp] theorem frameOrCheck_memWf {s : State} (h : Memory.wf s.mem = true) (i : Fin 11) (code : Cause) :
    Memory.wf (frameOrCheck s i code).mem = true := by
  unfold frameOrCheck
  grind [→ writeFrame_memWf, machineCheck_memWf, Memory.putBytes_wf]

@[simp] theorem undoIssue_mem (s : State) : (undoIssue s).mem = s.mem := by
  unfold undoIssue
  (repeat' split) <;> simp

@[simp] theorem failRun_mem (s : State) (gid : BitVec 12) (detail : BitVec 28) :
    (failRun s gid detail).mem = s.mem := by
  unfold failRun
  (repeat' split) <;> simp

@[simp] theorem failPhase_mem (s : State) (i : Fin 11) : (failPhase s i).mem = s.mem := by
  unfold failPhase
  (repeat' split) <;> simp

@[simp] theorem enterSystem_memWf {s : State} (h : Memory.wf s.mem = true) (t : Trap) :
    Memory.wf (enterSystem s t).mem = true := by
  simp [enterSystem, h]

@[simp] theorem debugStop_memWf {s : State} (h : Memory.wf s.mem = true) (i : Fin 11) (t : Trap) :
    Memory.wf (debugStop s i t).mem = true := by
  simp [debugStop, h]

@[simp] theorem helperTrap_memWf {s : State} (h : Memory.wf s.mem = true) (i : Fin 11) (t : Trap)
    (st : SlotState) : Memory.wf (helperTrap s i t st).mem = true := by
  simp [helperTrap, h]

@[simp] theorem trapIn_memWf {s : State} (h : Memory.wf s.mem = true) (i : Fin 11) (t : Trap)
    (st : optParam SlotState SlotState.trapped) : Memory.wf (trapIn s i t st).mem = true := by
  unfold trapIn
  (repeat' split) <;> simp [h]

@[simp] theorem takeTrap_memWf {s : State} (h : Memory.wf s.mem = true) (t : Trap) :
    Memory.wf (takeTrap s t).mem = true := by
  simp [takeTrap, h]

@[simp] theorem trap_memWf {s : State} (h : Memory.wf s.mem = true) (code : Cause) (tval : Word) :
    Memory.wf (trap s code tval).mem = true := by
  simp [trap, h]

@[simp] theorem trapPriv_memWf {s : State} (h : Memory.wf s.mem = true) :
    Memory.wf (trapPriv s).mem = true := by
  simp [trapPriv, h]

@[simp] theorem stall_mem (s : State) : (stall s).mem = s.mem := by simp [stall]

@[simp] theorem refillStreams_mem (s : State) (i : Fin 11) (x : List Stream) :
    (refillStreams i x s).mem = s.mem := by
  fun_induction refillStreams <;> simp_all

@[simp] theorem recaptureAt_mem (s : State) (i : Fin 11) : (recaptureAt s i).mem = s.mem := by
  simp only [recaptureAt]
  (repeat' split) <;> simp

@[simp] theorem reloadFrame_memWf {s : State} (h : Memory.wf s.mem = true) (i : Fin 11) (fromTrap : Bool) :
    Memory.wf (reloadFrame s i fromTrap).mem = true := by
  unfold reloadFrame
  (repeat' split) <;> simp [h]

@[simp] theorem releaseItem_mem (s : State) (key : ItemKey) : (releaseItem s key).mem = s.mem := by
  unfold releaseItem
  dsimp only
  rw [foldl_mem _ (fun t j => by split <;> simp)]
  simp

@[simp] theorem countHelper_mem (s : State) (key : ItemKey) (starts : Bool) :
    (countHelper s key starts).mem = s.mem := by
  simp only [countHelper]
  (repeat' split) <;> simp

@[simp] theorem disown_mem (s : State) (i : Fin 11) : (disown s i).mem = s.mem := by simp [disown]

@[simp] theorem freeSlot_mem (s : State) (i : Fin 11) (exits : optParam Bool true) :
    (freeSlot s i exits).mem = s.mem := by
  simp only [freeSlot]
  (repeat' split) <;> simp

@[simp] theorem owedLoad_mem {s : State} (i : Fin 11) {t : State} (e : owedLoad s i = some t) :
    t.mem = s.mem := by
  unfold owedLoad at e
  obtain ⟨os, -, rfl⟩ := Option.map_eq_some_iff.mp e
  simp

theorem owedPut_memWf (i : Fin 11) (j : Nat) (os : List Obl) {s : State} (h : Memory.wf s.mem = true)
    {t : State}
    (e : owedPut i j os s = some t) : Memory.wf t.mem = true := by
  induction os generalizing j s with
  | nil =>
    unfold owedPut at e
    split at e
    · cases e; exact h
    · obtain ⟨pa, -, rfl⟩ := Option.map_eq_some_iff.mp e
      simp [h]
  | cons o rest ih =>
    unfold owedPut at e
    split at e
    · cases e
    · exact ih _ (by simp [h]) e

theorem owedWrite_memWf {s : State} (h : Memory.wf s.mem = true) (i : Fin 11) {t : State}
    (e : owedWrite s i = some t) : Memory.wf t.mem = true := owedPut_memWf i 0 _ h e

theorem owedUpdate_memWf {s : State} (h : Memory.wf s.mem = true) (i : Fin 11) (f : List Obl → List Obl)
    {t : State}
    (e : owedUpdate s i f = some t) : Memory.wf t.mem = true := by
  obtain ⟨u, hu, e⟩ := Option.bind_eq_some_iff.mp e
  exact owedWrite_memWf (by simp [owedLoad_mem i hu, h]) i e

theorem removeObl_memWf {s : State} (h : Memory.wf s.mem = true) (i : Fin 11) (o : Word) (k : OblKind)
    {t : State}
    (e : removeObl s i o k = some t) : Memory.wf t.mem = true := by
  unfold removeObl at e
  split at e
  · dsimp only at e
    split at e <;> cases e <;> simp [h]
  · obtain ⟨r, -, rfl⟩ := Option.map_eq_some_iff.mp e
    cases hw : owedUpdate s i fun os => (unbump i o k os).getD r with
    | none => simp [hw, h]
    | some u => simpa [hw] using owedUpdate_memWf h i _ hw

/-- Removing an obligation that may not be there keeps memory canonical. -/
@[simp] theorem removeObl_getD_memWf {s : State} (h : Memory.wf s.mem = true) (i : Fin 11) (o : Word)
    (k : OblKind) :
    Memory.wf ((removeObl s i o k).getD s).mem = true := by
  cases hw : removeObl s i o k with
  | none => exact h
  | some t => exact removeObl_memWf h i o k hw

/-- A property of the state that an installation leaves. -/
def Install.after (p : State → Prop) : Install → Prop
  | .ok s => p s
  | .full => True
  | .check => True

/-- Putting an entry into an owed area keeps memory canonical. -/
theorem toOwed_memWf {s : State} (h : Memory.wf s.mem = true) (i : Fin 11) (o : Obl) :
    (toOwed s i o).after fun t => Memory.wf t.mem = true := by
  simp only [toOwed]
  split
  · trivial
  · split
    · next t e => exact owedUpdate_memWf h i _ e
    · trivial

/-- An installation keeps memory canonical. -/
theorem install_memWf {s : State} (h : Memory.wf s.mem = true) (i : Fin 11) (o : Word) (k : OblKind) :
    (install s i o k).after fun t => Memory.wf t.mem = true := by
  simp only [install]
  (repeat' split) <;> first
    | exact trivial
    | exact toOwed_memWf (by simpa using h) _ _
    | (simp only [Install.after]; next t e => exact owedUpdate_memWf h i _ e)
    | simpa [Install.after] using h

@[simp] theorem unreserve_mem (s : State) (i : Fin 11) : (unreserve s i).mem = s.mem := by simp [unreserve]

@[simp] theorem eretSystem_memWf {s : State} (h : Memory.wf s.mem = true) :
    Memory.wf (eretSystem s).mem = true := by
  simp [eretSystem, h]

@[simp] theorem resumeMask_memWf {s : State} (h : Memory.wf s.mem = true) (m : BitVec 10) (x : List (Fin 11)) :
    Memory.wf (resumeMask m x s).mem = true := by
  fun_induction resumeMask <;> grind [reloadFrame_memWf, Memory.putBytes_wf]

@[simp] theorem freeMask_mem (s : State) (m : BitVec 10) (x : List (Fin 11)) :
    (freeMask m x s).mem = s.mem := by
  fun_induction freeMask <;> grind [freeSlot_mem]

@[simp] theorem eretControl_memWf {s : State} (h : Memory.wf s.mem = true) :
    Memory.wf (eretControl s).mem = true := by
  simp [eretControl, h]

end Sys2Proof.Machine
end

