-- ==== Sys2Proof/Laws/State.lean ====
section
/-!
SUPPORT. What each update of the state leaves alone: one lemma per field and update, true by rfl or by
cases on the register number, so that no later proof unfolds a record update.
-/

namespace Sys2Proof.Machine

/-! Replacing the context of a slot. -/

@[simp] theorem State.setAt_at (s : State) (i j : Fin 11) (c : Ctx) :
    (s.setAt i c).at j = if j = i then c else s.at j := by
  simp only [State.at, State.setAt, Vector.getElem_set, Fin.ext_iff]
  by_cases h : i.val = j.val
  · rw [if_pos h, if_pos h.symm]
  · rw [if_neg h, if_neg fun e => h e.symm]

@[simp] theorem State.setAt_loc (s : State) (i : Fin 11) (c : Ctx) : (s.setAt i c).loc = s.loc := rfl
@[simp] theorem State.setAt_grade (s : State) (i : Fin 11) (c : Ctx) : (s.setAt i c).grade = s.grade := rfl
@[simp] theorem State.setAt_board (s : State) (i : Fin 11) (c : Ctx) : (s.setAt i c).board = s.board := rfl
@[simp] theorem State.setAt_rack (s : State) (i : Fin 11) (c : Ctx) : (s.setAt i c).rack = s.rack := rfl
@[simp] theorem State.setAt_l5Port (s : State) (i : Fin 11) (c : Ctx) : (s.setAt i c).l5Port = s.l5Port := rfl
@[simp] theorem State.setAt_clock (s : State) (i : Fin 11) (c : Ctx) : (s.setAt i c).clock = s.clock := rfl
@[simp] theorem State.setAt_cluster (s : State) (i : Fin 11) (c : Ctx) :
    (s.setAt i c).cluster = s.cluster := rfl
@[simp] theorem State.setAt_signals (s : State) (i : Fin 11) (c : Ctx) :
    (s.setAt i c).signals = s.signals := rfl
@[simp] theorem State.setAt_engine (s : State) (i : Fin 11) (c : Ctx) : (s.setAt i c).engine = s.engine := rfl
@[simp] theorem State.setAt_mill (s : State) (i : Fin 11) (c : Ctx) : (s.setAt i c).mill = s.mill := rfl
@[simp] theorem State.setAt_banks (s : State) (i : Fin 11) (c : Ctx) : (s.setAt i c).banks = s.banks := rfl
@[simp] theorem State.setAt_exchange (s : State) (i : Fin 11) (c : Ctx) :
    (s.setAt i c).exchange = s.exchange := rfl
@[simp] theorem State.setAt_bell (s : State) (i : Fin 11) (c : Ctx) : (s.setAt i c).bell = s.bell := rfl
@[simp] theorem State.setAt_hw (s : State) (i : Fin 11) (c : Ctx) : (s.setAt i c).hw = s.hw := rfl
@[simp] theorem State.setAt_badEcc (s : State) (i : Fin 11) (c : Ctx) : (s.setAt i c).badEcc = s.badEcc := rfl
@[simp] theorem State.setAt_agenda (s : State) (i : Fin 11) (c : Ctx) : (s.setAt i c).agenda = s.agenda := rfl
@[simp] theorem State.setAt_timers (s : State) (i : Fin 11) (c : Ctx) : (s.setAt i c).timers = s.timers := rfl
@[simp] theorem State.setAt_event (s : State) (i : Fin 11) (c : Ctx) : (s.setAt i c).event = s.event := rfl
@[simp] theorem State.setAt_outbox (s : State) (i : Fin 11) (c : Ctx) : (s.setAt i c).outbox = s.outbox := rfl
@[simp] theorem State.setAt_tick (s : State) (i : Fin 11) (c : Ctx) : (s.setAt i c).tick = s.tick := rfl
@[simp] theorem State.setAt_fresh (s : State) (i : Fin 11) (c : Ctx) : (s.setAt i c).fresh = s.fresh := rfl
@[simp] theorem State.setAt_core_cur (s : State) (i : Fin 11) (c : Ctx) :
    (s.setAt i c).core.cur = s.core.cur := rfl
@[simp] theorem State.setAt_core_undo (s : State) (i : Fin 11) (c : Ctx) :
    (s.setAt i c).core.undo = s.core.undo := rfl
@[simp] theorem State.setAt_core_ptr (s : State) (i : Fin 11) (c : Ctx) :
    (s.setAt i c).core.ptr = s.core.ptr := rfl
@[simp] theorem State.setAt_core_credit (s : State) (i : Fin 11) (c : Ctx) :
    (s.setAt i c).core.credit = s.core.credit := rfl
@[simp] theorem State.setAt_core_sys (s : State) (i : Fin 11) (c : Ctx) :
    (s.setAt i c).core.sys = s.core.sys := rfl
@[simp] theorem State.setAt_core_reeve (s : State) (i : Fin 11) (c : Ctx) :
    (s.setAt i c).core.reeve = s.core.reeve := rfl
@[simp] theorem State.setAt_core_spilled (s : State) (i : Fin 11) (c : Ctx) :
    (s.setAt i c).core.spilled = s.core.spilled := rfl
@[simp] theorem State.setAt_core_sysOwed (s : State) (i : Fin 11) (c : Ctx) :
    (s.setAt i c).core.sysOwed = s.core.sysOwed := rfl
@[simp] theorem State.setAt_core_installs (s : State) (i : Fin 11) (c : Ctx) :
    (s.setAt i c).core.installs = s.core.installs := rfl
@[simp] theorem State.setAt_core_itemQ (s : State) (i : Fin 11) (c : Ctx) :
    (s.setAt i c).core.itemQ = s.core.itemQ := rfl
@[simp] theorem State.setAt_core_contQ (s : State) (i : Fin 11) (c : Ctx) :
    (s.setAt i c).core.contQ = s.core.contQ := rfl
@[simp] theorem State.setAt_core_live (s : State) (i : Fin 11) (c : Ctx) :
    (s.setAt i c).core.live = s.core.live := rfl
@[simp] theorem State.setAt_core_spill (s : State) (i : Fin 11) (c : Ctx) :
    (s.setAt i c).core.spill = s.core.spill := rfl
@[simp] theorem State.setAt_core_spillHead (s : State) (i : Fin 11) (c : Ctx) :
    (s.setAt i c).core.spillHead = s.core.spillHead := rfl
@[simp] theorem State.setAt_core_spillTail (s : State) (i : Fin 11) (c : Ctx) :
    (s.setAt i c).core.spillTail = s.core.spillTail := rfl
@[simp] theorem State.setAt_core_events (s : State) (i : Fin 11) (c : Ctx) :
    (s.setAt i c).core.events = s.core.events := rfl
@[simp] theorem State.setAt_core_lvu (s : State) (i : Fin 11) (c : Ctx) :
    (s.setAt i c).core.lvu = s.core.lvu := rfl
@[simp] theorem State.setAt_core_recv (s : State) (i : Fin 11) (c : Ctx) :
    (s.setAt i c).core.recv = s.core.recv := rfl
@[simp] theorem State.setAt_core_tlb1 (s : State) (i : Fin 11) (c : Ctx) :
    (s.setAt i c).core.tlb1 = s.core.tlb1 := rfl
@[simp] theorem State.setAt_core_resident (s : State) (i : Fin 11) (c : Ctx) :
    (s.setAt i c).core.resident = s.core.resident := rfl
@[simp] theorem State.setAt_core_stopped (s : State) (i : Fin 11) (c : Ctx) :
    (s.setAt i c).core.stopped = s.core.stopped := rfl
@[simp] theorem State.setAt_core_preempted (s : State) (i : Fin 11) (c : Ctx) :
    (s.setAt i c).core.preempted = s.core.preempted := rfl
@[simp] theorem State.setAt_core_machineCheck (s : State) (i : Fin 11) (c : Ctx) :
    (s.setAt i c).core.machineCheck = s.core.machineCheck := rfl
@[simp] theorem State.setAt_core_settle (s : State) (i : Fin 11) (c : Ctx) :
    (s.setAt i c).core.settle = s.core.settle := rfl
@[simp] theorem State.setAt_core_sysMsg (s : State) (i : Fin 11) (c : Ctx) :
    (s.setAt i c).core.sysMsg = s.core.sysMsg := rfl
@[simp] theorem State.setAt_core_upcallNow (s : State) (i : Fin 11) (c : Ctx) :
    (s.setAt i c).core.upcallNow = s.core.upcallNow := rfl
@[simp] theorem State.setAt_core_stalled (s : State) (i : Fin 11) (c : Ctx) :
    (s.setAt i c).core.stalled = s.core.stalled := rfl
@[simp] theorem State.setAt_core_ids (s : State) (i : Fin 11) (c : Ctx) :
    (s.setAt i c).core.ids = s.core.ids := rfl

/-! Changing the issuing context. -/

@[simp] theorem State.mod_at (s : State) (f : Ctx → Ctx) (j : Fin 11) :
    (s.mod f).at j = if j = s.core.cur then f s.ctx else s.at j := State.setAt_at s s.core.cur j (f s.ctx)

@[simp] theorem State.mod_ctx (s : State) (f : Ctx → Ctx) : (s.mod f).ctx = f s.ctx :=
  (State.mod_at s f s.core.cur).trans (if_pos rfl)

@[simp] theorem State.mod_loc (s : State) (f : Ctx → Ctx) : (s.mod f).loc = s.loc := rfl
@[simp] theorem State.mod_grade (s : State) (f : Ctx → Ctx) : (s.mod f).grade = s.grade := rfl
@[simp] theorem State.mod_board (s : State) (f : Ctx → Ctx) : (s.mod f).board = s.board := rfl
@[simp] theorem State.mod_rack (s : State) (f : Ctx → Ctx) : (s.mod f).rack = s.rack := rfl
@[simp] theorem State.mod_l5Port (s : State) (f : Ctx → Ctx) : (s.mod f).l5Port = s.l5Port := rfl
@[simp] theorem State.mod_clock (s : State) (f : Ctx → Ctx) : (s.mod f).clock = s.clock := rfl
@[simp] theorem State.mod_cluster (s : State) (f : Ctx → Ctx) : (s.mod f).cluster = s.cluster := rfl
@[simp] theorem State.mod_signals (s : State) (f : Ctx → Ctx) : (s.mod f).signals = s.signals := rfl
@[simp] theorem State.mod_engine (s : State) (f : Ctx → Ctx) : (s.mod f).engine = s.engine := rfl
@[simp] theorem State.mod_mill (s : State) (f : Ctx → Ctx) : (s.mod f).mill = s.mill := rfl
@[simp] theorem State.mod_banks (s : State) (f : Ctx → Ctx) : (s.mod f).banks = s.banks := rfl
@[simp] theorem State.mod_exchange (s : State) (f : Ctx → Ctx) : (s.mod f).exchange = s.exchange := rfl
@[simp] theorem State.mod_bell (s : State) (f : Ctx → Ctx) : (s.mod f).bell = s.bell := rfl
@[simp] theorem State.mod_hw (s : State) (f : Ctx → Ctx) : (s.mod f).hw = s.hw := rfl
@[simp] theorem State.mod_badEcc (s : State) (f : Ctx → Ctx) : (s.mod f).badEcc = s.badEcc := rfl
@[simp] theorem State.mod_agenda (s : State) (f : Ctx → Ctx) : (s.mod f).agenda = s.agenda := rfl
@[simp] theorem State.mod_timers (s : State) (f : Ctx → Ctx) : (s.mod f).timers = s.timers := rfl
@[simp] theorem State.mod_event (s : State) (f : Ctx → Ctx) : (s.mod f).event = s.event := rfl
@[simp] theorem State.mod_outbox (s : State) (f : Ctx → Ctx) : (s.mod f).outbox = s.outbox := rfl
@[simp] theorem State.mod_tick (s : State) (f : Ctx → Ctx) : (s.mod f).tick = s.tick := rfl
@[simp] theorem State.mod_fresh (s : State) (f : Ctx → Ctx) : (s.mod f).fresh = s.fresh := rfl
@[simp] theorem State.mod_core_cur (s : State) (f : Ctx → Ctx) : (s.mod f).core.cur = s.core.cur := rfl
@[simp] theorem State.mod_core_undo (s : State) (f : Ctx → Ctx) : (s.mod f).core.undo = s.core.undo := rfl
@[simp] theorem State.mod_core_ptr (s : State) (f : Ctx → Ctx) : (s.mod f).core.ptr = s.core.ptr := rfl
@[simp] theorem State.mod_core_credit (s : State) (f : Ctx → Ctx) : (s.mod f).core.credit = s.core.credit := rfl
@[simp] theorem State.mod_core_sys (s : State) (f : Ctx → Ctx) : (s.mod f).core.sys = s.core.sys := rfl
@[simp] theorem State.mod_core_reeve (s : State) (f : Ctx → Ctx) : (s.mod f).core.reeve = s.core.reeve := rfl
@[simp] theorem State.mod_core_spilled (s : State) (f : Ctx → Ctx) :
    (s.mod f).core.spilled = s.core.spilled := rfl
@[simp] theorem State.mod_core_sysOwed (s : State) (f : Ctx → Ctx) :
    (s.mod f).core.sysOwed = s.core.sysOwed := rfl
@[simp] theorem State.mod_core_installs (s : State) (f : Ctx → Ctx) :
    (s.mod f).core.installs = s.core.installs := rfl
@[simp] theorem State.mod_core_itemQ (s : State) (f : Ctx → Ctx) : (s.mod f).core.itemQ = s.core.itemQ := rfl
@[simp] theorem State.mod_core_contQ (s : State) (f : Ctx → Ctx) : (s.mod f).core.contQ = s.core.contQ := rfl
@[simp] theorem State.mod_core_live (s : State) (f : Ctx → Ctx) : (s.mod f).core.live = s.core.live := rfl
@[simp] theorem State.mod_core_spill (s : State) (f : Ctx → Ctx) : (s.mod f).core.spill = s.core.spill := rfl
@[simp] theorem State.mod_core_spillHead (s : State) (f : Ctx → Ctx) :
    (s.mod f).core.spillHead = s.core.spillHead := rfl
@[simp] theorem State.mod_core_spillTail (s : State) (f : Ctx → Ctx) :
    (s.mod f).core.spillTail = s.core.spillTail := rfl
@[simp] theorem State.mod_core_events (s : State) (f : Ctx → Ctx) : (s.mod f).core.events = s.core.events := rfl
@[simp] theorem State.mod_core_lvu (s : State) (f : Ctx → Ctx) : (s.mod f).core.lvu = s.core.lvu := rfl
@[simp] theorem State.mod_core_recv (s : State) (f : Ctx → Ctx) : (s.mod f).core.recv = s.core.recv := rfl
@[simp] theorem State.mod_core_tlb1 (s : State) (f : Ctx → Ctx) : (s.mod f).core.tlb1 = s.core.tlb1 := rfl
@[simp] theorem State.mod_core_resident (s : State) (f : Ctx → Ctx) :
    (s.mod f).core.resident = s.core.resident := rfl
@[simp] theorem State.mod_core_stopped (s : State) (f : Ctx → Ctx) :
    (s.mod f).core.stopped = s.core.stopped := rfl
@[simp] theorem State.mod_core_preempted (s : State) (f : Ctx → Ctx) :
    (s.mod f).core.preempted = s.core.preempted := rfl
@[simp] theorem State.mod_core_machineCheck (s : State) (f : Ctx → Ctx) :
    (s.mod f).core.machineCheck = s.core.machineCheck := rfl
@[simp] theorem State.mod_core_settle (s : State) (f : Ctx → Ctx) : (s.mod f).core.settle = s.core.settle := rfl
@[simp] theorem State.mod_core_sysMsg (s : State) (f : Ctx → Ctx) : (s.mod f).core.sysMsg = s.core.sysMsg := rfl
@[simp] theorem State.mod_core_upcallNow (s : State) (f : Ctx → Ctx) :
    (s.mod f).core.upcallNow = s.core.upcallNow := rfl
@[simp] theorem State.mod_core_stalled (s : State) (f : Ctx → Ctx) :
    (s.mod f).core.stalled = s.core.stalled := rfl
@[simp] theorem State.mod_core_ids (s : State) (f : Ctx → Ctx) : (s.mod f).core.ids = s.core.ids := rfl

/-! Changing the core or the cluster, sending, and the clock of events. -/

@[simp] theorem State.modCore_loc (s : State) (f : Core → Core) : (s.modCore f).loc = s.loc := rfl
@[simp] theorem State.modCore_grade (s : State) (f : Core → Core) : (s.modCore f).grade = s.grade := rfl
@[simp] theorem State.modCore_board (s : State) (f : Core → Core) : (s.modCore f).board = s.board := rfl
@[simp] theorem State.modCore_rack (s : State) (f : Core → Core) : (s.modCore f).rack = s.rack := rfl
@[simp] theorem State.modCore_l5Port (s : State) (f : Core → Core) : (s.modCore f).l5Port = s.l5Port := rfl
@[simp] theorem State.modCore_clock (s : State) (f : Core → Core) : (s.modCore f).clock = s.clock := rfl
@[simp] theorem State.modCore_cluster (s : State) (f : Core → Core) : (s.modCore f).cluster = s.cluster := rfl
@[simp] theorem State.modCore_signals (s : State) (f : Core → Core) : (s.modCore f).signals = s.signals := rfl
@[simp] theorem State.modCore_engine (s : State) (f : Core → Core) : (s.modCore f).engine = s.engine := rfl
@[simp] theorem State.modCore_mill (s : State) (f : Core → Core) : (s.modCore f).mill = s.mill := rfl
@[simp] theorem State.modCore_banks (s : State) (f : Core → Core) : (s.modCore f).banks = s.banks := rfl
@[simp] theorem State.modCore_exchange (s : State) (f : Core → Core) :
    (s.modCore f).exchange = s.exchange := rfl
@[simp] theorem State.modCore_bell (s : State) (f : Core → Core) : (s.modCore f).bell = s.bell := rfl
@[simp] theorem State.modCore_hw (s : State) (f : Core → Core) : (s.modCore f).hw = s.hw := rfl
@[simp] theorem State.modCore_badEcc (s : State) (f : Core → Core) : (s.modCore f).badEcc = s.badEcc := rfl
@[simp] theorem State.modCore_agenda (s : State) (f : Core → Core) : (s.modCore f).agenda = s.agenda := rfl
@[simp] theorem State.modCore_timers (s : State) (f : Core → Core) : (s.modCore f).timers = s.timers := rfl
@[simp] theorem State.modCore_event (s : State) (f : Core → Core) : (s.modCore f).event = s.event := rfl
@[simp] theorem State.modCore_outbox (s : State) (f : Core → Core) : (s.modCore f).outbox = s.outbox := rfl
@[simp] theorem State.modCore_tick (s : State) (f : Core → Core) : (s.modCore f).tick = s.tick := rfl
@[simp] theorem State.modCore_fresh (s : State) (f : Core → Core) : (s.modCore f).fresh = s.fresh := rfl
@[simp] theorem State.modCore_core (s : State) (f : Core → Core) : (s.modCore f).core = f s.core := rfl
@[simp] theorem State.modCluster_loc (s : State) (f : Cluster → Cluster) : (s.modCluster f).loc = s.loc := rfl
@[simp] theorem State.modCluster_grade (s : State) (f : Cluster → Cluster) :
    (s.modCluster f).grade = s.grade := rfl
@[simp] theorem State.modCluster_board (s : State) (f : Cluster → Cluster) :
    (s.modCluster f).board = s.board := rfl
@[simp] theorem State.modCluster_rack (s : State) (f : Cluster → Cluster) :
    (s.modCluster f).rack = s.rack := rfl
@[simp] theorem State.modCluster_l5Port (s : State) (f : Cluster → Cluster) :
    (s.modCluster f).l5Port = s.l5Port := rfl
@[simp] theorem State.modCluster_clock (s : State) (f : Cluster → Cluster) :
    (s.modCluster f).clock = s.clock := rfl
@[simp] theorem State.modCluster_core (s : State) (f : Cluster → Cluster) :
    (s.modCluster f).core = s.core := rfl
@[simp] theorem State.modCluster_signals (s : State) (f : Cluster → Cluster) :
    (s.modCluster f).signals = s.signals := rfl
@[simp] theorem State.modCluster_engine (s : State) (f : Cluster → Cluster) :
    (s.modCluster f).engine = s.engine := rfl
@[simp] theorem State.modCluster_mill (s : State) (f : Cluster → Cluster) :
    (s.modCluster f).mill = s.mill := rfl
@[simp] theorem State.modCluster_banks (s : State) (f : Cluster → Cluster) :
    (s.modCluster f).banks = s.banks := rfl
@[simp] theorem State.modCluster_exchange (s : State) (f : Cluster → Cluster) :
    (s.modCluster f).exchange = s.exchange := rfl
@[simp] theorem State.modCluster_bell (s : State) (f : Cluster → Cluster) :
    (s.modCluster f).bell = s.bell := rfl
@[simp] theorem State.modCluster_hw (s : State) (f : Cluster → Cluster) : (s.modCluster f).hw = s.hw := rfl
@[simp] theorem State.modCluster_badEcc (s : State) (f : Cluster → Cluster) :
    (s.modCluster f).badEcc = s.badEcc := rfl
@[simp] theorem State.modCluster_agenda (s : State) (f : Cluster → Cluster) :
    (s.modCluster f).agenda = s.agenda := rfl
@[simp] theorem State.modCluster_timers (s : State) (f : Cluster → Cluster) :
    (s.modCluster f).timers = s.timers := rfl
@[simp] theorem State.modCluster_event (s : State) (f : Cluster → Cluster) :
    (s.modCluster f).event = s.event := rfl
@[simp] theorem State.modCluster_outbox (s : State) (f : Cluster → Cluster) :
    (s.modCluster f).outbox = s.outbox := rfl
@[simp] theorem State.modCluster_tick (s : State) (f : Cluster → Cluster) :
    (s.modCluster f).tick = s.tick := rfl
@[simp] theorem State.modCluster_fresh (s : State) (f : Cluster → Cluster) :
    (s.modCluster f).fresh = s.fresh := rfl
@[simp] theorem State.modCluster_cluster (s : State) (f : Cluster → Cluster) :
    (s.modCluster f).cluster = f s.cluster := rfl
@[simp] theorem send_loc (s : State) (m : Msg) : (send s m).loc = s.loc := rfl
@[simp] theorem send_grade (s : State) (m : Msg) : (send s m).grade = s.grade := rfl
@[simp] theorem send_board (s : State) (m : Msg) : (send s m).board = s.board := rfl
@[simp] theorem send_rack (s : State) (m : Msg) : (send s m).rack = s.rack := rfl
@[simp] theorem send_l5Port (s : State) (m : Msg) : (send s m).l5Port = s.l5Port := rfl
@[simp] theorem send_clock (s : State) (m : Msg) : (send s m).clock = s.clock := rfl
@[simp] theorem send_core (s : State) (m : Msg) : (send s m).core = s.core := rfl
@[simp] theorem send_cluster (s : State) (m : Msg) : (send s m).cluster = s.cluster := rfl
@[simp] theorem send_signals (s : State) (m : Msg) : (send s m).signals = s.signals := rfl
@[simp] theorem send_engine (s : State) (m : Msg) : (send s m).engine = s.engine := rfl
@[simp] theorem send_mill (s : State) (m : Msg) : (send s m).mill = s.mill := rfl
@[simp] theorem send_banks (s : State) (m : Msg) : (send s m).banks = s.banks := rfl
@[simp] theorem send_exchange (s : State) (m : Msg) : (send s m).exchange = s.exchange := rfl
@[simp] theorem send_bell (s : State) (m : Msg) : (send s m).bell = s.bell := rfl
@[simp] theorem send_hw (s : State) (m : Msg) : (send s m).hw = s.hw := rfl
@[simp] theorem send_badEcc (s : State) (m : Msg) : (send s m).badEcc = s.badEcc := rfl
@[simp] theorem send_agenda (s : State) (m : Msg) : (send s m).agenda = s.agenda ++ [m] := rfl
@[simp] theorem send_timers (s : State) (m : Msg) : (send s m).timers = s.timers := rfl
@[simp] theorem send_event (s : State) (m : Msg) : (send s m).event = s.event := rfl
@[simp] theorem send_outbox (s : State) (m : Msg) : (send s m).outbox = s.outbox := rfl
@[simp] theorem send_tick (s : State) (m : Msg) : (send s m).tick = s.tick := rfl
@[simp] theorem send_fresh (s : State) (m : Msg) : (send s m).fresh = s.fresh := rfl
@[simp] theorem out_loc (s : State) (m : OutMsg) : (out s m).loc = s.loc := rfl
@[simp] theorem out_grade (s : State) (m : OutMsg) : (out s m).grade = s.grade := rfl
@[simp] theorem out_board (s : State) (m : OutMsg) : (out s m).board = s.board := rfl
@[simp] theorem out_rack (s : State) (m : OutMsg) : (out s m).rack = s.rack := rfl
@[simp] theorem out_l5Port (s : State) (m : OutMsg) : (out s m).l5Port = s.l5Port := rfl
@[simp] theorem out_clock (s : State) (m : OutMsg) : (out s m).clock = s.clock := rfl
@[simp] theorem out_core (s : State) (m : OutMsg) : (out s m).core = s.core := rfl
@[simp] theorem out_cluster (s : State) (m : OutMsg) : (out s m).cluster = s.cluster := rfl
@[simp] theorem out_signals (s : State) (m : OutMsg) : (out s m).signals = s.signals := rfl
@[simp] theorem out_engine (s : State) (m : OutMsg) : (out s m).engine = s.engine := rfl
@[simp] theorem out_mill (s : State) (m : OutMsg) : (out s m).mill = s.mill := rfl
@[simp] theorem out_banks (s : State) (m : OutMsg) : (out s m).banks = s.banks := rfl
@[simp] theorem out_exchange (s : State) (m : OutMsg) : (out s m).exchange = s.exchange := rfl
@[simp] theorem out_bell (s : State) (m : OutMsg) : (out s m).bell = s.bell := rfl
@[simp] theorem out_hw (s : State) (m : OutMsg) : (out s m).hw = s.hw := rfl
@[simp] theorem out_badEcc (s : State) (m : OutMsg) : (out s m).badEcc = s.badEcc := rfl
@[simp] theorem out_agenda (s : State) (m : OutMsg) : (out s m).agenda = s.agenda := rfl
@[simp] theorem out_timers (s : State) (m : OutMsg) : (out s m).timers = s.timers := rfl
@[simp] theorem out_event (s : State) (m : OutMsg) : (out s m).event = s.event := rfl
@[simp] theorem out_outbox (s : State) (m : OutMsg) : (out s m).outbox = s.outbox ++ [m] := rfl
@[simp] theorem out_tick (s : State) (m : OutMsg) : (out s m).tick = s.tick := rfl
@[simp] theorem out_fresh (s : State) (m : OutMsg) : (out s m).fresh = s.fresh := rfl
@[simp] theorem after_loc (s : State) (n : Nat) (m : Msg) : (after s n m).loc = s.loc := rfl
@[simp] theorem after_grade (s : State) (n : Nat) (m : Msg) : (after s n m).grade = s.grade := rfl
@[simp] theorem after_board (s : State) (n : Nat) (m : Msg) : (after s n m).board = s.board := rfl
@[simp] theorem after_rack (s : State) (n : Nat) (m : Msg) : (after s n m).rack = s.rack := rfl
@[simp] theorem after_l5Port (s : State) (n : Nat) (m : Msg) : (after s n m).l5Port = s.l5Port := rfl
@[simp] theorem after_clock (s : State) (n : Nat) (m : Msg) : (after s n m).clock = s.clock := rfl
@[simp] theorem after_core (s : State) (n : Nat) (m : Msg) : (after s n m).core = s.core := rfl
@[simp] theorem after_cluster (s : State) (n : Nat) (m : Msg) : (after s n m).cluster = s.cluster := rfl
@[simp] theorem after_signals (s : State) (n : Nat) (m : Msg) : (after s n m).signals = s.signals := rfl
@[simp] theorem after_engine (s : State) (n : Nat) (m : Msg) : (after s n m).engine = s.engine := rfl
@[simp] theorem after_mill (s : State) (n : Nat) (m : Msg) : (after s n m).mill = s.mill := rfl
@[simp] theorem after_banks (s : State) (n : Nat) (m : Msg) : (after s n m).banks = s.banks := rfl
@[simp] theorem after_exchange (s : State) (n : Nat) (m : Msg) : (after s n m).exchange = s.exchange := rfl
@[simp] theorem after_bell (s : State) (n : Nat) (m : Msg) : (after s n m).bell = s.bell := rfl
@[simp] theorem after_hw (s : State) (n : Nat) (m : Msg) : (after s n m).hw = s.hw := rfl
@[simp] theorem after_badEcc (s : State) (n : Nat) (m : Msg) : (after s n m).badEcc = s.badEcc := rfl
@[simp] theorem after_agenda (s : State) (n : Nat) (m : Msg) : (after s n m).agenda = s.agenda := rfl
@[simp] theorem after_timers (s : State) (n : Nat) (m : Msg) :
    (after s n m).timers = s.timers ++ [(n, m)] := rfl
@[simp] theorem after_event (s : State) (n : Nat) (m : Msg) : (after s n m).event = s.event := rfl
@[simp] theorem after_outbox (s : State) (n : Nat) (m : Msg) : (after s n m).outbox = s.outbox := rfl
@[simp] theorem after_tick (s : State) (n : Nat) (m : Msg) : (after s n m).tick = s.tick := rfl
@[simp] theorem after_fresh (s : State) (n : Nat) (m : Msg) : (after s n m).fresh = s.fresh := rfl
@[simp] theorem send_at (s : State) (m : Msg) (i : Fin 11) : (send s m).at i = s.at i := rfl
@[simp] theorem send_ctx (s : State) (m : Msg) : (send s m).ctx = s.ctx := rfl
@[simp] theorem out_at (s : State) (m : OutMsg) (i : Fin 11) : (out s m).at i = s.at i := rfl
@[simp] theorem out_ctx (s : State) (m : OutMsg) : (out s m).ctx = s.ctx := rfl
@[simp] theorem State.modCluster_at (s : State) (f : Cluster → Cluster) (i : Fin 11) :
    (s.modCluster f).at i = s.at i := rfl
@[simp] theorem State.modCluster_ctx (s : State) (f : Cluster → Cluster) : (s.modCluster f).ctx = s.ctx := rfl

/-! Writing memory. -/

@[simp] theorem writeNat_loc (s : State) (pa n v : Nat) : (writeNat s pa n v).loc = s.loc := rfl
@[simp] theorem writeNat_grade (s : State) (pa n v : Nat) : (writeNat s pa n v).grade = s.grade := rfl
@[simp] theorem writeNat_board (s : State) (pa n v : Nat) : (writeNat s pa n v).board = s.board := rfl
@[simp] theorem writeNat_rack (s : State) (pa n v : Nat) : (writeNat s pa n v).rack = s.rack := rfl
@[simp] theorem writeNat_l5Port (s : State) (pa n v : Nat) : (writeNat s pa n v).l5Port = s.l5Port := rfl
@[simp] theorem writeNat_clock (s : State) (pa n v : Nat) : (writeNat s pa n v).clock = s.clock := rfl
@[simp] theorem writeNat_core (s : State) (pa n v : Nat) : (writeNat s pa n v).core = s.core := rfl
@[simp] theorem writeNat_cluster (s : State) (pa n v : Nat) : (writeNat s pa n v).cluster = s.cluster := rfl
@[simp] theorem writeNat_signals (s : State) (pa n v : Nat) : (writeNat s pa n v).signals = s.signals := rfl
@[simp] theorem writeNat_engine (s : State) (pa n v : Nat) : (writeNat s pa n v).engine = s.engine := rfl
@[simp] theorem writeNat_mill (s : State) (pa n v : Nat) : (writeNat s pa n v).mill = s.mill := rfl
@[simp] theorem writeNat_banks (s : State) (pa n v : Nat) : (writeNat s pa n v).banks = s.banks := rfl
@[simp] theorem writeNat_exchange (s : State) (pa n v : Nat) : (writeNat s pa n v).exchange = s.exchange := rfl
@[simp] theorem writeNat_bell (s : State) (pa n v : Nat) : (writeNat s pa n v).bell = s.bell := rfl
@[simp] theorem writeNat_hw (s : State) (pa n v : Nat) : (writeNat s pa n v).hw = s.hw := rfl
@[simp] theorem writeNat_badEcc (s : State) (pa n v : Nat) : (writeNat s pa n v).badEcc = s.badEcc := rfl
@[simp] theorem writeNat_agenda (s : State) (pa n v : Nat) : (writeNat s pa n v).agenda = s.agenda := rfl
@[simp] theorem writeNat_timers (s : State) (pa n v : Nat) : (writeNat s pa n v).timers = s.timers := rfl
@[simp] theorem writeNat_event (s : State) (pa n v : Nat) : (writeNat s pa n v).event = s.event := rfl
@[simp] theorem writeNat_outbox (s : State) (pa n v : Nat) : (writeNat s pa n v).outbox = s.outbox := rfl
@[simp] theorem writeNat_tick (s : State) (pa n v : Nat) : (writeNat s pa n v).tick = s.tick := rfl
@[simp] theorem writeNat_fresh (s : State) (pa n v : Nat) : (writeNat s pa n v).fresh = s.fresh := rfl
@[simp] theorem writeBytes_loc (s : State) (pa : Nat) (bs : List Byte) : (writeBytes s pa bs).loc = s.loc := rfl
@[simp] theorem writeBytes_grade (s : State) (pa : Nat) (bs : List Byte) :
    (writeBytes s pa bs).grade = s.grade := rfl
@[simp] theorem writeBytes_board (s : State) (pa : Nat) (bs : List Byte) :
    (writeBytes s pa bs).board = s.board := rfl
@[simp] theorem writeBytes_rack (s : State) (pa : Nat) (bs : List Byte) :
    (writeBytes s pa bs).rack = s.rack := rfl
@[simp] theorem writeBytes_l5Port (s : State) (pa : Nat) (bs : List Byte) :
    (writeBytes s pa bs).l5Port = s.l5Port := rfl
@[simp] theorem writeBytes_clock (s : State) (pa : Nat) (bs : List Byte) :
    (writeBytes s pa bs).clock = s.clock := rfl
@[simp] theorem writeBytes_core (s : State) (pa : Nat) (bs : List Byte) :
    (writeBytes s pa bs).core = s.core := rfl
@[simp] theorem writeBytes_cluster (s : State) (pa : Nat) (bs : List Byte) :
    (writeBytes s pa bs).cluster = s.cluster := rfl
@[simp] theorem writeBytes_signals (s : State) (pa : Nat) (bs : List Byte) :
    (writeBytes s pa bs).signals = s.signals := rfl
@[simp] theorem writeBytes_engine (s : State) (pa : Nat) (bs : List Byte) :
    (writeBytes s pa bs).engine = s.engine := rfl
@[simp] theorem writeBytes_mill (s : State) (pa : Nat) (bs : List Byte) :
    (writeBytes s pa bs).mill = s.mill := rfl
@[simp] theorem writeBytes_banks (s : State) (pa : Nat) (bs : List Byte) :
    (writeBytes s pa bs).banks = s.banks := rfl
@[simp] theorem writeBytes_exchange (s : State) (pa : Nat) (bs : List Byte) :
    (writeBytes s pa bs).exchange = s.exchange := rfl
@[simp] theorem writeBytes_bell (s : State) (pa : Nat) (bs : List Byte) :
    (writeBytes s pa bs).bell = s.bell := rfl
@[simp] theorem writeBytes_hw (s : State) (pa : Nat) (bs : List Byte) : (writeBytes s pa bs).hw = s.hw := rfl
@[simp] theorem writeBytes_badEcc (s : State) (pa : Nat) (bs : List Byte) :
    (writeBytes s pa bs).badEcc = s.badEcc := rfl
@[simp] theorem writeBytes_agenda (s : State) (pa : Nat) (bs : List Byte) :
    (writeBytes s pa bs).agenda = s.agenda := rfl
@[simp] theorem writeBytes_timers (s : State) (pa : Nat) (bs : List Byte) :
    (writeBytes s pa bs).timers = s.timers := rfl
@[simp] theorem writeBytes_event (s : State) (pa : Nat) (bs : List Byte) :
    (writeBytes s pa bs).event = s.event := rfl
@[simp] theorem writeBytes_outbox (s : State) (pa : Nat) (bs : List Byte) :
    (writeBytes s pa bs).outbox = s.outbox := rfl
@[simp] theorem writeBytes_tick (s : State) (pa : Nat) (bs : List Byte) :
    (writeBytes s pa bs).tick = s.tick := rfl
@[simp] theorem writeBytes_fresh (s : State) (pa : Nat) (bs : List Byte) :
    (writeBytes s pa bs).fresh = s.fresh := rfl

/-! Retirement. -/

@[simp] theorem retire_at (s : State) (j : Fin 11) :
    (retire s).at j = if j = s.core.cur then s.ctx.advance else s.at j :=
  State.mod_at s Ctx.advance j

@[simp] theorem retire_ctx (s : State) : (retire s).ctx = s.ctx.advance := State.mod_ctx s Ctx.advance

@[simp] theorem retire_loc (s : State) : (retire s).loc = s.loc := rfl
@[simp] theorem retire_grade (s : State) : (retire s).grade = s.grade := rfl
@[simp] theorem retire_board (s : State) : (retire s).board = s.board := rfl
@[simp] theorem retire_rack (s : State) : (retire s).rack = s.rack := rfl
@[simp] theorem retire_l5Port (s : State) : (retire s).l5Port = s.l5Port := rfl
@[simp] theorem retire_clock (s : State) : (retire s).clock = s.clock := rfl
@[simp] theorem retire_cluster (s : State) : (retire s).cluster = s.cluster := rfl
@[simp] theorem retire_signals (s : State) : (retire s).signals = s.signals := rfl
@[simp] theorem retire_engine (s : State) : (retire s).engine = s.engine := rfl
@[simp] theorem retire_mill (s : State) : (retire s).mill = s.mill := rfl
@[simp] theorem retire_banks (s : State) : (retire s).banks = s.banks := rfl
@[simp] theorem retire_exchange (s : State) : (retire s).exchange = s.exchange := rfl
@[simp] theorem retire_bell (s : State) : (retire s).bell = s.bell := rfl
@[simp] theorem retire_hw (s : State) : (retire s).hw = s.hw := rfl
@[simp] theorem retire_badEcc (s : State) : (retire s).badEcc = s.badEcc := rfl
@[simp] theorem retire_agenda (s : State) : (retire s).agenda = s.agenda := rfl
@[simp] theorem retire_timers (s : State) : (retire s).timers = s.timers := rfl
@[simp] theorem retire_event (s : State) : (retire s).event = s.event := rfl
@[simp] theorem retire_outbox (s : State) : (retire s).outbox = s.outbox := rfl
@[simp] theorem retire_tick (s : State) : (retire s).tick = s.tick := rfl
@[simp] theorem retire_fresh (s : State) : (retire s).fresh = s.fresh := rfl
@[simp] theorem retire_core_cur (s : State) : (retire s).core.cur = s.core.cur := rfl
@[simp] theorem retire_core_ptr (s : State) : (retire s).core.ptr = s.core.ptr := rfl
@[simp] theorem retire_core_credit (s : State) : (retire s).core.credit = s.core.credit := rfl
@[simp] theorem retire_core_sys (s : State) : (retire s).core.sys = s.core.sys := rfl
@[simp] theorem retire_core_reeve (s : State) : (retire s).core.reeve = s.core.reeve := rfl
@[simp] theorem retire_core_spilled (s : State) : (retire s).core.spilled = s.core.spilled := rfl
@[simp] theorem retire_core_sysOwed (s : State) : (retire s).core.sysOwed = s.core.sysOwed := rfl
@[simp] theorem retire_core_installs (s : State) : (retire s).core.installs = s.core.installs := rfl
@[simp] theorem retire_core_itemQ (s : State) : (retire s).core.itemQ = s.core.itemQ := rfl
@[simp] theorem retire_core_contQ (s : State) : (retire s).core.contQ = s.core.contQ := rfl
@[simp] theorem retire_core_spill (s : State) : (retire s).core.spill = s.core.spill := rfl
@[simp] theorem retire_core_spillHead (s : State) : (retire s).core.spillHead = s.core.spillHead := rfl
@[simp] theorem retire_core_spillTail (s : State) : (retire s).core.spillTail = s.core.spillTail := rfl
@[simp] theorem retire_core_events (s : State) : (retire s).core.events = s.core.events := rfl
@[simp] theorem retire_core_lvu (s : State) : (retire s).core.lvu = s.core.lvu := rfl
@[simp] theorem retire_core_recv (s : State) : (retire s).core.recv = s.core.recv := rfl
@[simp] theorem retire_core_tlb1 (s : State) : (retire s).core.tlb1 = s.core.tlb1 := rfl
@[simp] theorem retire_core_resident (s : State) : (retire s).core.resident = s.core.resident := rfl
@[simp] theorem retire_core_stopped (s : State) : (retire s).core.stopped = s.core.stopped := rfl
@[simp] theorem retire_core_preempted (s : State) : (retire s).core.preempted = s.core.preempted := rfl
@[simp] theorem retire_core_machineCheck (s : State) : (retire s).core.machineCheck = s.core.machineCheck := rfl
@[simp] theorem retire_core_settle (s : State) : (retire s).core.settle = s.core.settle := rfl
@[simp] theorem retire_core_sysMsg (s : State) : (retire s).core.sysMsg = s.core.sysMsg := rfl
@[simp] theorem retire_core_upcallNow (s : State) : (retire s).core.upcallNow = s.core.upcallNow := rfl
@[simp] theorem retire_core_stalled (s : State) : (retire s).core.stalled = s.core.stalled := rfl
@[simp] theorem retire_core_ids (s : State) : (retire s).core.ids = s.core.ids := rfl
@[simp] theorem retire_core_undo (s : State) : (retire s).core.undo = none := rfl
@[simp] theorem Ctx.advance_regs (c : Ctx) :
    (c.advance).regs = c.regs := by
  simp only [Ctx.advance, Ctx.frameNext]; (repeat' split) <;> rfl
@[simp] theorem Ctx.advance_pend (c : Ctx) :
    (c.advance).pend = c.pend := by
  simp only [Ctx.advance, Ctx.frameNext]; (repeat' split) <;> rfl
@[simp] theorem Ctx.advance_user (c : Ctx) :
    (c.advance).user = c.user := by
  simp only [Ctx.advance, Ctx.frameNext]; (repeat' split) <;> rfl
@[simp] theorem Ctx.advance_trap (c : Ctx) :
    (c.advance).trap = c.trap := by
  simp only [Ctx.advance, Ctx.frameNext]; (repeat' split) <;> rfl
@[simp] theorem Ctx.advance_upcall (c : Ctx) :
    (c.advance).upcall = c.upcall := by
  simp only [Ctx.advance, Ctx.frameNext]; (repeat' split) <;> rfl
@[simp] theorem Ctx.advance_xch (c : Ctx) :
    (c.advance).xch = c.xch := by
  simp only [Ctx.advance, Ctx.frameNext]; (repeat' split) <;> rfl
@[simp] theorem Ctx.advance_streams (c : Ctx) :
    (c.advance).streams = c.streams := by
  simp only [Ctx.advance, Ctx.frameNext]; (repeat' split) <;> rfl
@[simp] theorem Ctx.advance_llk (c : Ctx) :
    (c.advance).llk = c.llk := by
  simp only [Ctx.advance, Ctx.frameNext]; (repeat' split) <;> rfl
@[simp] theorem Ctx.advance_act (c : Ctx) :
    (c.advance).act = c.act := by
  simp only [Ctx.advance, Ctx.frameNext]; (repeat' split) <;> rfl
@[simp] theorem Ctx.advance_level (c : Ctx) :
    (c.advance).level = c.level := by
  simp only [Ctx.advance, Ctx.frameNext]; (repeat' split) <;> rfl
@[simp] theorem Ctx.advance_slotState (c : Ctx) :
    (c.advance).slotState = c.slotState := by
  simp only [Ctx.advance, Ctx.frameNext]; (repeat' split) <;> rfl
@[simp] theorem Ctx.advance_heldFrom (c : Ctx) :
    (c.advance).heldFrom = c.heldFrom := by
  simp only [Ctx.advance, Ctx.frameNext]; (repeat' split) <;> rfl
@[simp] theorem Ctx.advance_longMode (c : Ctx) :
    (c.advance).longMode = c.longMode := by
  simp only [Ctx.advance, Ctx.frameNext]; (repeat' split) <;> rfl
@[simp] theorem Ctx.advance_skip (c : Ctx) :
    (c.advance).skip = c.skip := by
  simp only [Ctx.advance, Ctx.frameNext]; (repeat' split) <;> rfl
@[simp] theorem Ctx.advance_idle (c : Ctx) :
    (c.advance).idle = c.idle := by
  simp only [Ctx.advance, Ctx.frameNext]; (repeat' split) <;> rfl
@[simp] theorem Ctx.advance_yielded (c : Ctx) :
    (c.advance).yielded = c.yielded := by
  simp only [Ctx.advance, Ctx.frameNext]; (repeat' split) <;> rfl
@[simp] theorem Ctx.advance_framed (c : Ctx) :
    (c.advance).framed = c.framed := by
  simp only [Ctx.advance, Ctx.frameNext]; (repeat' split) <;> rfl
@[simp] theorem Ctx.advance_debugged (c : Ctx) :
    (c.advance).debugged = c.debugged := by
  simp only [Ctx.advance, Ctx.frameNext]; (repeat' split) <;> rfl

/-! Registers: a write of one class leaves the others, and a written register reads as written. -/

@[simp] theorem Ctx.setG_pend (c : Ctx) (r : BitVec 5) (x : Word) :
    (c.setG r x).pend = c.pend := by
  unfold Ctx.setG; split <;> rfl
@[simp] theorem Ctx.setG_queue (c : Ctx) (r : BitVec 5) (x : Word) :
    (c.setG r x).queue = c.queue := by
  unfold Ctx.setG; split <;> rfl
@[simp] theorem Ctx.setG_frame (c : Ctx) (r : BitVec 5) (x : Word) :
    (c.setG r x).frame = c.frame := by
  unfold Ctx.setG; split <;> rfl
@[simp] theorem Ctx.setG_user (c : Ctx) (r : BitVec 5) (x : Word) :
    (c.setG r x).user = c.user := by
  unfold Ctx.setG; split <;> rfl
@[simp] theorem Ctx.setG_trap (c : Ctx) (r : BitVec 5) (x : Word) :
    (c.setG r x).trap = c.trap := by
  unfold Ctx.setG; split <;> rfl
@[simp] theorem Ctx.setG_upcall (c : Ctx) (r : BitVec 5) (x : Word) :
    (c.setG r x).upcall = c.upcall := by
  unfold Ctx.setG; split <;> rfl
@[simp] theorem Ctx.setG_xch (c : Ctx) (r : BitVec 5) (x : Word) :
    (c.setG r x).xch = c.xch := by
  unfold Ctx.setG; split <;> rfl
@[simp] theorem Ctx.setG_streams (c : Ctx) (r : BitVec 5) (x : Word) :
    (c.setG r x).streams = c.streams := by
  unfold Ctx.setG; split <;> rfl
@[simp] theorem Ctx.setG_llk (c : Ctx) (r : BitVec 5) (x : Word) :
    (c.setG r x).llk = c.llk := by
  unfold Ctx.setG; split <;> rfl
@[simp] theorem Ctx.setG_act (c : Ctx) (r : BitVec 5) (x : Word) :
    (c.setG r x).act = c.act := by
  unfold Ctx.setG; split <;> rfl
@[simp] theorem Ctx.setG_level (c : Ctx) (r : BitVec 5) (x : Word) :
    (c.setG r x).level = c.level := by
  unfold Ctx.setG; split <;> rfl
@[simp] theorem Ctx.setG_slotState (c : Ctx) (r : BitVec 5) (x : Word) :
    (c.setG r x).slotState = c.slotState := by
  unfold Ctx.setG; split <;> rfl
@[simp] theorem Ctx.setG_heldFrom (c : Ctx) (r : BitVec 5) (x : Word) :
    (c.setG r x).heldFrom = c.heldFrom := by
  unfold Ctx.setG; split <;> rfl
@[simp] theorem Ctx.setG_longMode (c : Ctx) (r : BitVec 5) (x : Word) :
    (c.setG r x).longMode = c.longMode := by
  unfold Ctx.setG; split <;> rfl
@[simp] theorem Ctx.setG_skip (c : Ctx) (r : BitVec 5) (x : Word) :
    (c.setG r x).skip = c.skip := by
  unfold Ctx.setG; split <;> rfl
@[simp] theorem Ctx.setG_idle (c : Ctx) (r : BitVec 5) (x : Word) :
    (c.setG r x).idle = c.idle := by
  unfold Ctx.setG; split <;> rfl
@[simp] theorem Ctx.setG_yielded (c : Ctx) (r : BitVec 5) (x : Word) :
    (c.setG r x).yielded = c.yielded := by
  unfold Ctx.setG; split <;> rfl
@[simp] theorem Ctx.setG_framed (c : Ctx) (r : BitVec 5) (x : Word) :
    (c.setG r x).framed = c.framed := by
  unfold Ctx.setG; split <;> rfl
@[simp] theorem Ctx.setG_debugged (c : Ctx) (r : BitVec 5) (x : Word) :
    (c.setG r x).debugged = c.debugged := by
  unfold Ctx.setG; split <;> rfl
@[simp] theorem Ctx.setG_regs_f (c : Ctx) (r : BitVec 5) (x : Word) :
    (c.setG r x).regs.f = c.regs.f := by
  unfold Ctx.setG; split <;> rfl
@[simp] theorem Ctx.setG_regs_v (c : Ctx) (r : BitVec 5) (x : Word) :
    (c.setG r x).regs.v = c.regs.v := by
  unfold Ctx.setG; split <;> rfl
@[simp] theorem Ctx.setG_regs_k (c : Ctx) (r : BitVec 5) (x : Word) :
    (c.setG r x).regs.k = c.regs.k := by
  unfold Ctx.setG; split <;> rfl
@[simp] theorem Ctx.setG_regs_q (c : Ctx) (r : BitVec 5) (x : Word) :
    (c.setG r x).regs.q = c.regs.q := by
  unfold Ctx.setG; split <;> rfl
@[simp] theorem Ctx.setF_pend (c : Ctx) (r : BitVec 5) (x : Word) : (c.setF r x).pend = c.pend := rfl
@[simp] theorem Ctx.setF_queue (c : Ctx) (r : BitVec 5) (x : Word) : (c.setF r x).queue = c.queue := rfl
@[simp] theorem Ctx.setF_frame (c : Ctx) (r : BitVec 5) (x : Word) : (c.setF r x).frame = c.frame := rfl
@[simp] theorem Ctx.setF_user (c : Ctx) (r : BitVec 5) (x : Word) : (c.setF r x).user = c.user := rfl
@[simp] theorem Ctx.setF_trap (c : Ctx) (r : BitVec 5) (x : Word) : (c.setF r x).trap = c.trap := rfl
@[simp] theorem Ctx.setF_upcall (c : Ctx) (r : BitVec 5) (x : Word) : (c.setF r x).upcall = c.upcall := rfl
@[simp] theorem Ctx.setF_xch (c : Ctx) (r : BitVec 5) (x : Word) : (c.setF r x).xch = c.xch := rfl
@[simp] theorem Ctx.setF_streams (c : Ctx) (r : BitVec 5) (x : Word) : (c.setF r x).streams = c.streams := rfl
@[simp] theorem Ctx.setF_llk (c : Ctx) (r : BitVec 5) (x : Word) : (c.setF r x).llk = c.llk := rfl
@[simp] theorem Ctx.setF_act (c : Ctx) (r : BitVec 5) (x : Word) : (c.setF r x).act = c.act := rfl
@[simp] theorem Ctx.setF_level (c : Ctx) (r : BitVec 5) (x : Word) : (c.setF r x).level = c.level := rfl
@[simp] theorem Ctx.setF_slotState (c : Ctx) (r : BitVec 5) (x : Word) :
    (c.setF r x).slotState = c.slotState := rfl
@[simp] theorem Ctx.setF_heldFrom (c : Ctx) (r : BitVec 5) (x : Word) :
    (c.setF r x).heldFrom = c.heldFrom := rfl
@[simp] theorem Ctx.setF_longMode (c : Ctx) (r : BitVec 5) (x : Word) :
    (c.setF r x).longMode = c.longMode := rfl
@[simp] theorem Ctx.setF_skip (c : Ctx) (r : BitVec 5) (x : Word) : (c.setF r x).skip = c.skip := rfl
@[simp] theorem Ctx.setF_idle (c : Ctx) (r : BitVec 5) (x : Word) : (c.setF r x).idle = c.idle := rfl
@[simp] theorem Ctx.setF_yielded (c : Ctx) (r : BitVec 5) (x : Word) : (c.setF r x).yielded = c.yielded := rfl
@[simp] theorem Ctx.setF_framed (c : Ctx) (r : BitVec 5) (x : Word) : (c.setF r x).framed = c.framed := rfl
@[simp] theorem Ctx.setF_debugged (c : Ctx) (r : BitVec 5) (x : Word) :
    (c.setF r x).debugged = c.debugged := rfl
@[simp] theorem Ctx.setF_regs_g (c : Ctx) (r : BitVec 5) (x : Word) : (c.setF r x).regs.g = c.regs.g := rfl
@[simp] theorem Ctx.setF_regs_v (c : Ctx) (r : BitVec 5) (x : Word) : (c.setF r x).regs.v = c.regs.v := rfl
@[simp] theorem Ctx.setF_regs_k (c : Ctx) (r : BitVec 5) (x : Word) : (c.setF r x).regs.k = c.regs.k := rfl
@[simp] theorem Ctx.setF_regs_q (c : Ctx) (r : BitVec 5) (x : Word) : (c.setF r x).regs.q = c.regs.q := rfl
@[simp] theorem Ctx.setV_pend (c : Ctx) (r : BitVec 5) (x : VReg) : (c.setV r x).pend = c.pend := rfl
@[simp] theorem Ctx.setV_queue (c : Ctx) (r : BitVec 5) (x : VReg) : (c.setV r x).queue = c.queue := rfl
@[simp] theorem Ctx.setV_frame (c : Ctx) (r : BitVec 5) (x : VReg) : (c.setV r x).frame = c.frame := rfl
@[simp] theorem Ctx.setV_user (c : Ctx) (r : BitVec 5) (x : VReg) : (c.setV r x).user = c.user := rfl
@[simp] theorem Ctx.setV_trap (c : Ctx) (r : BitVec 5) (x : VReg) : (c.setV r x).trap = c.trap := rfl
@[simp] theorem Ctx.setV_upcall (c : Ctx) (r : BitVec 5) (x : VReg) : (c.setV r x).upcall = c.upcall := rfl
@[simp] theorem Ctx.setV_xch (c : Ctx) (r : BitVec 5) (x : VReg) : (c.setV r x).xch = c.xch := rfl
@[simp] theorem Ctx.setV_streams (c : Ctx) (r : BitVec 5) (x : VReg) : (c.setV r x).streams = c.streams := rfl
@[simp] theorem Ctx.setV_llk (c : Ctx) (r : BitVec 5) (x : VReg) : (c.setV r x).llk = c.llk := rfl
@[simp] theorem Ctx.setV_act (c : Ctx) (r : BitVec 5) (x : VReg) : (c.setV r x).act = c.act := rfl
@[simp] theorem Ctx.setV_level (c : Ctx) (r : BitVec 5) (x : VReg) : (c.setV r x).level = c.level := rfl
@[simp] theorem Ctx.setV_slotState (c : Ctx) (r : BitVec 5) (x : VReg) :
    (c.setV r x).slotState = c.slotState := rfl
@[simp] theorem Ctx.setV_heldFrom (c : Ctx) (r : BitVec 5) (x : VReg) :
    (c.setV r x).heldFrom = c.heldFrom := rfl
@[simp] theorem Ctx.setV_longMode (c : Ctx) (r : BitVec 5) (x : VReg) :
    (c.setV r x).longMode = c.longMode := rfl
@[simp] theorem Ctx.setV_skip (c : Ctx) (r : BitVec 5) (x : VReg) : (c.setV r x).skip = c.skip := rfl
@[simp] theorem Ctx.setV_idle (c : Ctx) (r : BitVec 5) (x : VReg) : (c.setV r x).idle = c.idle := rfl
@[simp] theorem Ctx.setV_yielded (c : Ctx) (r : BitVec 5) (x : VReg) : (c.setV r x).yielded = c.yielded := rfl
@[simp] theorem Ctx.setV_framed (c : Ctx) (r : BitVec 5) (x : VReg) : (c.setV r x).framed = c.framed := rfl
@[simp] theorem Ctx.setV_debugged (c : Ctx) (r : BitVec 5) (x : VReg) :
    (c.setV r x).debugged = c.debugged := rfl
@[simp] theorem Ctx.setV_regs_g (c : Ctx) (r : BitVec 5) (x : VReg) : (c.setV r x).regs.g = c.regs.g := rfl
@[simp] theorem Ctx.setV_regs_f (c : Ctx) (r : BitVec 5) (x : VReg) : (c.setV r x).regs.f = c.regs.f := rfl
@[simp] theorem Ctx.setV_regs_k (c : Ctx) (r : BitVec 5) (x : VReg) : (c.setV r x).regs.k = c.regs.k := rfl
@[simp] theorem Ctx.setV_regs_q (c : Ctx) (r : BitVec 5) (x : VReg) : (c.setV r x).regs.q = c.regs.q := rfl
@[simp] theorem Ctx.setK_pend (c : Ctx) (r : BitVec 3) (x : W32) :
    (c.setK r x).pend = c.pend := by
  unfold Ctx.setK; split <;> rfl
@[simp] theorem Ctx.setK_queue (c : Ctx) (r : BitVec 3) (x : W32) :
    (c.setK r x).queue = c.queue := by
  unfold Ctx.setK; split <;> rfl
@[simp] theorem Ctx.setK_frame (c : Ctx) (r : BitVec 3) (x : W32) :
    (c.setK r x).frame = c.frame := by
  unfold Ctx.setK; split <;> rfl
@[simp] theorem Ctx.setK_user (c : Ctx) (r : BitVec 3) (x : W32) :
    (c.setK r x).user = c.user := by
  unfold Ctx.setK; split <;> rfl
@[simp] theorem Ctx.setK_trap (c : Ctx) (r : BitVec 3) (x : W32) :
    (c.setK r x).trap = c.trap := by
  unfold Ctx.setK; split <;> rfl
@[simp] theorem Ctx.setK_upcall (c : Ctx) (r : BitVec 3) (x : W32) :
    (c.setK r x).upcall = c.upcall := by
  unfold Ctx.setK; split <;> rfl
@[simp] theorem Ctx.setK_xch (c : Ctx) (r : BitVec 3) (x : W32) :
    (c.setK r x).xch = c.xch := by
  unfold Ctx.setK; split <;> rfl
@[simp] theorem Ctx.setK_streams (c : Ctx) (r : BitVec 3) (x : W32) :
    (c.setK r x).streams = c.streams := by
  unfold Ctx.setK; split <;> rfl
@[simp] theorem Ctx.setK_llk (c : Ctx) (r : BitVec 3) (x : W32) :
    (c.setK r x).llk = c.llk := by
  unfold Ctx.setK; split <;> rfl
@[simp] theorem Ctx.setK_act (c : Ctx) (r : BitVec 3) (x : W32) :
    (c.setK r x).act = c.act := by
  unfold Ctx.setK; split <;> rfl
@[simp] theorem Ctx.setK_level (c : Ctx) (r : BitVec 3) (x : W32) :
    (c.setK r x).level = c.level := by
  unfold Ctx.setK; split <;> rfl
@[simp] theorem Ctx.setK_slotState (c : Ctx) (r : BitVec 3) (x : W32) :
    (c.setK r x).slotState = c.slotState := by
  unfold Ctx.setK; split <;> rfl
@[simp] theorem Ctx.setK_heldFrom (c : Ctx) (r : BitVec 3) (x : W32) :
    (c.setK r x).heldFrom = c.heldFrom := by
  unfold Ctx.setK; split <;> rfl
@[simp] theorem Ctx.setK_longMode (c : Ctx) (r : BitVec 3) (x : W32) :
    (c.setK r x).longMode = c.longMode := by
  unfold Ctx.setK; split <;> rfl
@[simp] theorem Ctx.setK_skip (c : Ctx) (r : BitVec 3) (x : W32) :
    (c.setK r x).skip = c.skip := by
  unfold Ctx.setK; split <;> rfl
@[simp] theorem Ctx.setK_idle (c : Ctx) (r : BitVec 3) (x : W32) :
    (c.setK r x).idle = c.idle := by
  unfold Ctx.setK; split <;> rfl
@[simp] theorem Ctx.setK_yielded (c : Ctx) (r : BitVec 3) (x : W32) :
    (c.setK r x).yielded = c.yielded := by
  unfold Ctx.setK; split <;> rfl
@[simp] theorem Ctx.setK_framed (c : Ctx) (r : BitVec 3) (x : W32) :
    (c.setK r x).framed = c.framed := by
  unfold Ctx.setK; split <;> rfl
@[simp] theorem Ctx.setK_debugged (c : Ctx) (r : BitVec 3) (x : W32) :
    (c.setK r x).debugged = c.debugged := by
  unfold Ctx.setK; split <;> rfl
@[simp] theorem Ctx.setK_regs_g (c : Ctx) (r : BitVec 3) (x : W32) :
    (c.setK r x).regs.g = c.regs.g := by
  unfold Ctx.setK; split <;> rfl
@[simp] theorem Ctx.setK_regs_f (c : Ctx) (r : BitVec 3) (x : W32) :
    (c.setK r x).regs.f = c.regs.f := by
  unfold Ctx.setK; split <;> rfl
@[simp] theorem Ctx.setK_regs_v (c : Ctx) (r : BitVec 3) (x : W32) :
    (c.setK r x).regs.v = c.regs.v := by
  unfold Ctx.setK; split <;> rfl
@[simp] theorem Ctx.setK_regs_q (c : Ctx) (r : BitVec 3) (x : W32) :
    (c.setK r x).regs.q = c.regs.q := by
  unfold Ctx.setK; split <;> rfl
@[simp] theorem Ctx.setQ_pend (c : Ctx) (r : BitVec 5) (x : QReg) : (c.setQ r x).pend = c.pend := rfl
@[simp] theorem Ctx.setQ_queue (c : Ctx) (r : BitVec 5) (x : QReg) : (c.setQ r x).queue = c.queue := rfl
@[simp] theorem Ctx.setQ_frame (c : Ctx) (r : BitVec 5) (x : QReg) : (c.setQ r x).frame = c.frame := rfl
@[simp] theorem Ctx.setQ_user (c : Ctx) (r : BitVec 5) (x : QReg) : (c.setQ r x).user = c.user := rfl
@[simp] theorem Ctx.setQ_trap (c : Ctx) (r : BitVec 5) (x : QReg) : (c.setQ r x).trap = c.trap := rfl
@[simp] theorem Ctx.setQ_upcall (c : Ctx) (r : BitVec 5) (x : QReg) : (c.setQ r x).upcall = c.upcall := rfl
@[simp] theorem Ctx.setQ_xch (c : Ctx) (r : BitVec 5) (x : QReg) : (c.setQ r x).xch = c.xch := rfl
@[simp] theorem Ctx.setQ_streams (c : Ctx) (r : BitVec 5) (x : QReg) : (c.setQ r x).streams = c.streams := rfl
@[simp] theorem Ctx.setQ_llk (c : Ctx) (r : BitVec 5) (x : QReg) : (c.setQ r x).llk = c.llk := rfl
@[simp] theorem Ctx.setQ_act (c : Ctx) (r : BitVec 5) (x : QReg) : (c.setQ r x).act = c.act := rfl
@[simp] theorem Ctx.setQ_level (c : Ctx) (r : BitVec 5) (x : QReg) : (c.setQ r x).level = c.level := rfl
@[simp] theorem Ctx.setQ_slotState (c : Ctx) (r : BitVec 5) (x : QReg) :
    (c.setQ r x).slotState = c.slotState := rfl
@[simp] theorem Ctx.setQ_heldFrom (c : Ctx) (r : BitVec 5) (x : QReg) :
    (c.setQ r x).heldFrom = c.heldFrom := rfl
@[simp] theorem Ctx.setQ_longMode (c : Ctx) (r : BitVec 5) (x : QReg) :
    (c.setQ r x).longMode = c.longMode := rfl
@[simp] theorem Ctx.setQ_skip (c : Ctx) (r : BitVec 5) (x : QReg) : (c.setQ r x).skip = c.skip := rfl
@[simp] theorem Ctx.setQ_idle (c : Ctx) (r : BitVec 5) (x : QReg) : (c.setQ r x).idle = c.idle := rfl
@[simp] theorem Ctx.setQ_yielded (c : Ctx) (r : BitVec 5) (x : QReg) : (c.setQ r x).yielded = c.yielded := rfl
@[simp] theorem Ctx.setQ_framed (c : Ctx) (r : BitVec 5) (x : QReg) : (c.setQ r x).framed = c.framed := rfl
@[simp] theorem Ctx.setQ_debugged (c : Ctx) (r : BitVec 5) (x : QReg) :
    (c.setQ r x).debugged = c.debugged := rfl
@[simp] theorem Ctx.setQ_regs_g (c : Ctx) (r : BitVec 5) (x : QReg) : (c.setQ r x).regs.g = c.regs.g := rfl
@[simp] theorem Ctx.setQ_regs_f (c : Ctx) (r : BitVec 5) (x : QReg) : (c.setQ r x).regs.f = c.regs.f := rfl
@[simp] theorem Ctx.setQ_regs_v (c : Ctx) (r : BitVec 5) (x : QReg) : (c.setQ r x).regs.v = c.regs.v := rfl
@[simp] theorem Ctx.setQ_regs_k (c : Ctx) (r : BitVec 5) (x : QReg) : (c.setQ r x).regs.k = c.regs.k := rfl

theorem Ctx.setG_g (c : Ctx) (r : BitVec 5) (x : Word) (i : BitVec 5) :
    (c.setG r x).g i = if i = r ∧ i ≠ 0 then x else c.g i := by
  unfold Ctx.setG Ctx.g
  by_cases hr : r = 0
  · rw [if_pos hr, if_neg (c := i = r ∧ i ≠ 0) fun h => h.2 (h.1.trans hr)]
  · rw [if_neg hr]
    by_cases hi : i = 0
    · rw [if_pos hi, if_pos hi, if_neg fun h => h.2 hi]
    · rw [if_neg hi, if_neg hi]
      simp only [Vector.getElem_set]
      by_cases e : i = r
      · rw [if_pos (by rw [e]), if_pos ⟨e, hi⟩]
      · rw [if_neg fun h => e (BitVec.eq_of_toNat_eq h.symm), if_neg fun h => e h.1]

theorem Ctx.setV_v (c : Ctx) (r : BitVec 5) (x : VReg) (i : BitVec 5) :
    (c.setV r x).v i = if i = r then x else c.v i := by
  unfold Ctx.setV Ctx.v
  simp only [Vector.getElem_set]
  by_cases e : i = r
  · rw [if_pos (by rw [e]), if_pos e]
  · rw [if_neg fun h => e (BitVec.eq_of_toNat_eq h.symm), if_neg e]

theorem Ctx.setK_k (c : Ctx) (r : BitVec 3) (x : W32) (i : BitVec 3) :
    (c.setK r x).k i = if i = r ∧ i ≠ 0 then x else c.k i := by
  unfold Ctx.setK Ctx.k
  by_cases hr : r = 0
  · rw [if_pos hr, if_neg (c := i = r ∧ i ≠ 0) fun h => h.2 (h.1.trans hr)]
  · rw [if_neg hr]
    by_cases hi : i = 0
    · rw [if_pos hi, if_pos hi, if_neg fun h => h.2 hi]
    · rw [if_neg hi, if_neg hi]
      simp only [Vector.getElem_set]
      by_cases e : i = r
      · rw [if_pos (by rw [e]), if_pos ⟨e, hi⟩]
      · rw [if_neg fun h => e (BitVec.eq_of_toNat_eq h.symm), if_neg fun h => e h.1]

theorem Ctx.setF_f (c : Ctx) (r : BitVec 5) (x : Word) (i : BitVec 5) :
    (c.setF r x).f i = if i.toNat % 16 = r.toNat % 16 then x else c.f i := by
  simp only [Ctx.setF, Ctx.f, Vector.getElem_set, eq_comm]

theorem Ctx.setQ_q (c : Ctx) (r : BitVec 5) (x : QReg) (i : BitVec 5) :
    (c.setQ r x).q i = if i.toNat % 16 = r.toNat % 16 then x else c.q i := by
  simp only [Ctx.setQ, Ctx.q, Vector.getElem_set, eq_comm]

end Sys2Proof.Machine
end

