-- ==== Sys2Proof/Laws/Frame.lean ====
section
/-!
SUPPORT. One lemma for each way an instruction of the core ends: what a retirement after a write of one
register class leaves as it was. Provers cite these instead of unfolding a meaning.
-/

namespace Sys2Proof.Machine

/-- An instruction that changes the issuing context only, and retires, advances. -/
theorem advances_retire (s : State) (f : Ctx → Ctx) (hq : (f s.ctx).queue = s.ctx.queue)
    (hf : (f s.ctx).frame = s.ctx.frame) : Advances s (retire (s.mod f)) := by
  unfold Advances Shifted
  rw [retire_ctx, State.mod_ctx]
  simp only [Ctx.advance, hf, hq, Ctx.frameNext]
  cases s.ctx.frame with
  | none => simp [Queue.shift]
  | some fr =>
    dsimp only
    by_cases h : fr.slot.toNat < fr.nm1.toNat
    · simp [h]
    · by_cases h2 : fr.iter.toNat < fr.cm1.toNat
      · simp [h, h2]
      · simp [h, h2, Queue.at]

/-- A change of the registers of the issuing context, and retirement, leave the rest. -/
theorem keepsRest_retire (s : State) (f : Ctx → Ctx) (hc : ∀ c, f c = { c with regs := (f c).regs, user := (f c).user }) :
    KeepsRest s (retire (s.mod f)) where
  context := by
    constructor <;> rw [retire_ctx, State.mod_ctx, hc] <;> simp
  core := by
    constructor
    case contexts => intro i hi; simp [hi]
    all_goals rfl
  memory := fun a => rfl
  units := by constructor <;> rfl

/-! Reading registers after a write of one class and after retirement. -/

@[simp] theorem Ctx.advance_g (c : Ctx) (r : BitVec 5) : c.advance.g r = c.g r := by simp [Ctx.g]
@[simp] theorem Ctx.advance_f (c : Ctx) (r : BitVec 5) : c.advance.f r = c.f r := by simp [Ctx.f]
@[simp] theorem Ctx.advance_v (c : Ctx) (r : BitVec 5) : c.advance.v r = c.v r := by simp [Ctx.v]
@[simp] theorem Ctx.advance_k (c : Ctx) (r : BitVec 3) : c.advance.k r = c.k r := by simp [Ctx.k]
@[simp] theorem Ctx.advance_q (c : Ctx) (r : BitVec 5) : c.advance.q r = c.q r := by simp [Ctx.q]

/-- A change of registers, and retirement, advance. -/
theorem advances_retire_regs (s : State) (f : Ctx → Ctx)
    (hc : ∀ c, f c = { c with regs := (f c).regs, user := (f c).user }) : Advances s (retire (s.mod f)) :=
  advances_retire s f (by rw [hc]) (by rw [hc])

/-- A write of a general register changes registers only. -/
theorem Ctx.setG_regs_only (r : BitVec 5) (x : Word) (c : Ctx) :
    c.setG r x = { c with regs := (c.setG r x).regs, user := (c.setG r x).user } := by
  unfold Ctx.setG
  split <;> rfl

theorem Ctx.setK_regs_only (r : BitVec 3) (x : W32) (c : Ctx) :
    c.setK r x = { c with regs := (c.setK r x).regs, user := (c.setK r x).user } := by
  unfold Ctx.setK
  split <;> rfl

/-- Write(d, v) and retire: g[d] is written and nothing else. -/
theorem writesG_retire (s : State) (d : BitVec 5) (x : Word) : WritesG s (retire (wg s d x)) d x where
  result := fun r => by simp only [gv, wg, retire_ctx, State.mod_ctx, Ctx.advance_g, Ctx.setG_g]
  f := fun r => by simp [wg, Ctx.f]
  v := fun r => by simp [wg, Ctx.v]
  k := fun r => by simp [wg, Ctx.k]
  q := fun r => by simp [wg, Ctx.q]
  user := by simp [KeepsUser, wg]
  rest := keepsRest_retire s _ (Ctx.setG_regs_only d x)
  next := advances_retire_regs s _ (Ctx.setG_regs_only d x)

/-- A write of v[d], and retirement. -/
theorem writesV_retire (s : State) (d : BitVec 5) (x : VReg) :
    WritesV s (retire (s.mod (·.setV d x))) d x where
  result := fun r => by simp only [retire_ctx, State.mod_ctx, Ctx.advance_v, Ctx.setV_v]
  g := fun r => by simp [gv, Ctx.g]
  f := fun r => by simp [Ctx.f]
  k := fun r => by simp [Ctx.k]
  q := fun r => by simp [Ctx.q]
  user := by simp [KeepsUser]
  rest := keepsRest_retire s _ (fun _ => rfl)
  next := advances_retire_regs s _ (fun _ => rfl)

/-- A write of k[d], and retirement. -/
theorem writesK_retire (s : State) (d : BitVec 3) (x : W32) :
    WritesK s (retire (s.mod (·.setK d x))) d x where
  result := fun r => by simp only [retire_ctx, State.mod_ctx, Ctx.advance_k, Ctx.setK_k]
  g := fun r => by simp [gv, Ctx.g]
  f := fun r => by simp [Ctx.f]
  v := fun r => by simp [Ctx.v]
  q := fun r => by simp [Ctx.q]
  user := by simp [KeepsUser]
  rest := keepsRest_retire s _ (Ctx.setK_regs_only d x)
  next := advances_retire_regs s _ (Ctx.setK_regs_only d x)

/-- Changing nothing changes nothing. -/
theorem State.mod_id (s : State) : s.mod id = s := by
  unfold State.mod State.setAt State.ctx State.at
  simp

/-- Retirement alone changes nothing but the program counter. -/
theorem onlyAdvances_retire (s : State) : OnlyAdvances s (retire s) where
  registers := by constructor <;> first | (intro r; simp [gv]) | simp [KeepsUser]
  rest := by
    have h := keepsRest_retire s id (fun _ => rfl)
    rwa [State.mod_id] at h
  next := by
    have h := advances_retire_regs s id (fun _ => rfl)
    rwa [State.mod_id] at h

end Sys2Proof.Machine
end

