-- ==== Sys2Proof/Laws/KeepOperands.lean ====
section
/-!
SUPPORT. Every operation of Machine/Operands.lean keeps the canonical form of memory.
-/

namespace Sys2Proof.Machine

@[simp] theorem deliverG_memWf {s : State} (h : Memory.wf s.mem = true) (i : Fin 11) (r : BitVec 5) (x : Word) :
    Memory.wf (deliverG s i r x).mem = true := by
  unfold deliverG
  grind [writeNat_memWf, State.setAt_mem, machineCheck_memWf, Memory.putBytes_wf]

@[simp] theorem deliverV_memWf {s : State} (h : Memory.wf s.mem = true) (i : Fin 11) (r : BitVec 5) (x : VReg) :
    Memory.wf (deliverV s i r x).mem = true := by
  unfold deliverV
  grind [writeNat_memWf, State.setAt_mem, machineCheck_memWf, Memory.putBytes_wf]

@[simp] theorem deliverFlags_memWf {s : State} (h : Memory.wf s.mem = true) (i : Fin 11) (fl : BitVec 5) :
    Memory.wf (deliverFlags s i fl).mem = true := by
  unfold deliverFlags
  grind [writeNat_memWf, State.setAt_mem, machineCheck_memWf, Memory.putBytes_wf]

@[simp] theorem deliverToken_memWf {s : State} (h : Memory.wf s.mem = true) (i : Fin 11) (d : BitVec 5)
    (w : Word) : Memory.wf (deliverToken s i d w).mem = true := by
  simp [deliverToken, h]

@[simp] theorem startToken_mem (s : State) (d : BitVec 5) : (startToken s d).mem = s.mem := by simp [startToken]

@[simp] theorem stepLfsr_mem (s : State) : (stepLfsr s).mem = s.mem := by simp [stepLfsr]

@[simp] theorem newId_mem (s : State) : (newId s).2.mem = s.mem := by simp [newId]

end Sys2Proof.Machine
end

