-- ==== Sys2Proof/Laws/KeepFetch.lean ====
section
/-!
SUPPORT. Every operation of Machine/Fetch.lean keeps the canonical form of memory.
-/

namespace Sys2Proof.Machine

@[simp] theorem captureCheck_memWf {s : State} (h : Memory.wf s.mem = true) (f : RepFrame) (c : Cause)
    (a : Word) : Memory.wf (captureCheck s f c a).mem = true := by
  simp [captureCheck, h]

@[simp] theorem captureIll_memWf {s : State} (h : Memory.wf s.mem = true) (iter : Nat) (slot : Nat) (w : W32) :
    Memory.wf (captureIll s iter slot w).mem = true := by
  simp [captureIll, h]

@[simp] theorem unlockRange_mem (s : State) (owner : Nat) : (unlockRange s owner).mem = s.mem := by
  simp [unlockRange]

theorem popStream_mem {s : State} (k : Fin 11) (r : Reg) {post : State} (e : popStream s k r = .ok post) :
    post.mem = s.mem := by
  simp only [popStream] at e
  (repeat' split at e) <;> cases e <;> simp

theorem popAll_mem (k : Fin 11) (l : List Reg) {s post : State} (e : popAll k l s = .ok post) :
    post.mem = s.mem := by
  induction l generalizing s with
  | nil => cases e; rfl
  | cons r l ih =>
    simp only [popAll] at e
    split at e
    · cases e
    · next s1 e1 => rw [ih e, popStream_mem k r e1]

@[simp] theorem popDue_mem (s : State) (k : Fin 11) : (popDue s k).mem = s.mem := by
  simp only [popDue]
  split
  · split
    · next e => exact popAll_mem k _ e
    · rfl
  · rfl

@[simp] theorem breakpointTrap_memWf {s : State} (h : Memory.wf s.mem = true) (n : Nat) :
    Memory.wf (breakpointTrap s n).mem = true := by
  simp [breakpointTrap, h]

end Sys2Proof.Machine
end

