-- ==== Sys2Proof/Laws/KeepSystem.lean ====
section
/-!
SUPPORT. Every operation of Machine/System.lean keeps the canonical form of memory.
-/

namespace Sys2Proof.Machine

theorem execNop_mem {s : State} {post : State} (e : execNop s = .next post) : post.mem = s.mem := by
  cases e
  simp

theorem execHalt_memWf {s : State} (h : Memory.wf s.mem = true) {post : State} (e : execHalt s = .next post) :
    Memory.wf post.mem = true := by
  unfold execHalt at e
  cases e
  (repeat' split) <;> simp [h]

theorem execIdle_memWf {s : State} (h : Memory.wf s.mem = true) {post : State} (e : execIdle s = .next post) :
    Memory.wf post.mem = true := by
  unfold execIdle at e
  cases e
  (repeat' split) <;> simp [h]

theorem execEret_memWf {s : State} (h : Memory.wf s.mem = true) {post : State} (e : execEret s = .next post) :
    Memory.wf post.mem = true := by
  unfold execEret at e
  cases e
  (repeat' split) <;> simp [h]

theorem execTrap_memWf {s : State} (h : Memory.wf s.mem = true) (code : BitVec 15) {post : State}
    (e : execTrap code s = .next post) : Memory.wf post.mem = true := by
  cases e
  simp [h]

theorem execBrk_memWf {s : State} (h : Memory.wf s.mem = true) (code : BitVec 15) {post : State}
    (e : execBrk code s = .next post) : Memory.wf post.mem = true := by
  cases e
  simp [h]

theorem execYield_mem {s : State} {post : State} (e : execYield s = .next post) : post.mem = s.mem := by
  cases e
  simp

theorem execFencei_mem {s : State} {post : State} (e : execFencei s = .next post) : post.mem = s.mem := by
  unfold execFencei at e
  cases e
  (repeat' split) <;> simp

@[simp] theorem cregStore_memWf {s : State} (h : Memory.wf s.mem = true) (n : BitVec 12) (v : Word) :
    Memory.wf (cregStore s n v).mem = true := by
  unfold cregStore
  (repeat' split) <;> simp [h]

@[simp] theorem cregWrite_memWf {s : State} (h : Memory.wf s.mem = true) (g : BitVec 5) (n : BitVec 12)
    (reads' : Bool) (v : Word) : Memory.wf (cregWrite s g n reads' v).mem = true := by
  unfold cregWrite
  (repeat' split) <;> simp [h]

theorem execMfc_memWf {s : State} (h : Memory.wf s.mem = true) (g : BitVec 5) (n : BitVec 12) {post : State}
    (e : execMfc g n s = .next post) : Memory.wf post.mem = true := by
  unfold execMfc at e
  cases e
  (repeat' split) <;> simp [h]

theorem execMtc_memWf {s : State} (h : Memory.wf s.mem = true) (g : BitVec 5) (n : BitVec 12) {post : State}
    (e : execMtc g n s = .next post) : Memory.wf post.mem = true := by
  cases e
  simp [h]

theorem execMxc_memWf {s : State} (h : Memory.wf s.mem = true) (g : BitVec 5) (n : BitVec 12) {post : State}
    (e : execMxc g n s = .next post) : Memory.wf post.mem = true := by
  cases e
  simp [h]

theorem execMset_memWf {s : State} (h : Memory.wf s.mem = true) (g : BitVec 5) (n : BitVec 12) {post : State}
    (e : execMset g n s = .next post) : Memory.wf post.mem = true := by
  cases e
  simp [h]

theorem execMclr_memWf {s : State} (h : Memory.wf s.mem = true) (g : BitVec 5) (n : BitVec 12) {post : State}
    (e : execMclr g n s = .next post) : Memory.wf post.mem = true := by
  cases e
  simp [h]

end Sys2Proof.Machine
end

