-- ==== Sys2Proof/Laws/KeepAlu.lean ====
section
/-!
SUPPORT. Every operation of Machine/Alu.lean keeps the canonical form of memory.
-/

namespace Sys2Proof.Machine

@[simp] theorem writeG_mem (s : State) (d : BitVec 5) (v : Word) :
    (writeG s d v).mem = s.mem := by simp [writeG]

@[simp] theorem aluOp_mem (s : State) (f : Word → Word → Word) (d : BitVec 5) (a : BitVec 5) (b : BitVec 5) :
    (aluOp f d a b s).mem = s.mem := by
  simp [aluOp]

@[simp] theorem unaryOp_mem (s : State) (f : Word → Word) (d : BitVec 5) (a : BitVec 5) :
    (unaryOp f d a s).mem = s.mem := by
  simp [unaryOp]

theorem execAdd_mem {s : State} (d : BitVec 5) (a : BitVec 5) (b : BitVec 5) {post : State}
    (e : execAdd d a b s = .next post) : post.mem = s.mem := by
  cases e
  simp

theorem execSub_mem {s : State} (d : BitVec 5) (a : BitVec 5) (b : BitVec 5) {post : State}
    (e : execSub d a b s = .next post) : post.mem = s.mem := by
  cases e
  simp

theorem execAnd_mem {s : State} (d : BitVec 5) (a : BitVec 5) (b : BitVec 5) {post : State}
    (e : execAnd d a b s = .next post) : post.mem = s.mem := by
  cases e
  simp

theorem execOr_mem {s : State} (d : BitVec 5) (a : BitVec 5) (b : BitVec 5) {post : State}
    (e : execOr d a b s = .next post) : post.mem = s.mem := by
  cases e
  simp

theorem execXor_mem {s : State} (d : BitVec 5) (a : BitVec 5) (b : BitVec 5) {post : State}
    (e : execXor d a b s = .next post) : post.mem = s.mem := by
  cases e
  simp

theorem execAndn_mem {s : State} (d : BitVec 5) (a : BitVec 5) (b : BitVec 5) {post : State}
    (e : execAndn d a b s = .next post) : post.mem = s.mem := by
  cases e
  simp

theorem execOrn_mem {s : State} (d : BitVec 5) (a : BitVec 5) (b : BitVec 5) {post : State}
    (e : execOrn d a b s = .next post) : post.mem = s.mem := by
  cases e
  simp

theorem execShl_mem {s : State} (d : BitVec 5) (a : BitVec 5) (b : BitVec 5) {post : State}
    (e : execShl d a b s = .next post) : post.mem = s.mem := by
  cases e
  simp

theorem execShr_mem {s : State} (d : BitVec 5) (a : BitVec 5) (b : BitVec 5) {post : State}
    (e : execShr d a b s = .next post) : post.mem = s.mem := by
  cases e
  simp

theorem execSar_mem {s : State} (d : BitVec 5) (a : BitVec 5) (b : BitVec 5) {post : State}
    (e : execSar d a b s = .next post) : post.mem = s.mem := by
  cases e
  simp

theorem execRol_mem {s : State} (d : BitVec 5) (a : BitVec 5) (b : BitVec 5) {post : State}
    (e : execRol d a b s = .next post) : post.mem = s.mem := by
  cases e
  simp

theorem execMin_mem {s : State} (d : BitVec 5) (a : BitVec 5) (b : BitVec 5) {post : State}
    (e : execMin d a b s = .next post) : post.mem = s.mem := by
  cases e
  simp

theorem execMax_mem {s : State} (d : BitVec 5) (a : BitVec 5) (b : BitVec 5) {post : State}
    (e : execMax d a b s = .next post) : post.mem = s.mem := by
  cases e
  simp

theorem execMinw_mem {s : State} (d : BitVec 5) (a : BitVec 5) (b : BitVec 5) {post : State}
    (e : execMinw d a b s = .next post) : post.mem = s.mem := by
  cases e
  simp

theorem execMaxw_mem {s : State} (d : BitVec 5) (a : BitVec 5) (b : BitVec 5) {post : State}
    (e : execMaxw d a b s = .next post) : post.mem = s.mem := by
  cases e
  simp

theorem execSlt_mem {s : State} (d : BitVec 5) (a : BitVec 5) (b : BitVec 5) {post : State}
    (e : execSlt d a b s = .next post) : post.mem = s.mem := by
  cases e
  simp

theorem execSltw_mem {s : State} (d : BitVec 5) (a : BitVec 5) (b : BitVec 5) {post : State}
    (e : execSltw d a b s = .next post) : post.mem = s.mem := by
  cases e
  simp

theorem execSeq_mem {s : State} (d : BitVec 5) (a : BitVec 5) (b : BitVec 5) {post : State}
    (e : execSeq d a b s = .next post) : post.mem = s.mem := by
  cases e
  simp

theorem execSne_mem {s : State} (d : BitVec 5) (a : BitVec 5) (b : BitVec 5) {post : State}
    (e : execSne d a b s = .next post) : post.mem = s.mem := by
  cases e
  simp

theorem execMul_mem {s : State} (d : BitVec 5) (a : BitVec 5) (b : BitVec 5) {post : State}
    (e : execMul d a b s = .next post) : post.mem = s.mem := by
  cases e
  simp

theorem execMulh_mem {s : State} (d : BitVec 5) (a : BitVec 5) (b : BitVec 5) {post : State}
    (e : execMulh d a b s = .next post) : post.mem = s.mem := by
  cases e
  simp

theorem execMulhw_mem {s : State} (d : BitVec 5) (a : BitVec 5) (b : BitVec 5) {post : State}
    (e : execMulhw d a b s = .next post) : post.mem = s.mem := by
  cases e
  simp

theorem execMulw_mem {s : State} (d : BitVec 5) (a : BitVec 5) (b : BitVec 5) {post : State}
    (e : execMulw d a b s = .next post) : post.mem = s.mem := by
  cases e
  simp

theorem execDiv_mem {s : State} (d : BitVec 5) (a : BitVec 5) (b : BitVec 5) {post : State}
    (e : execDiv d a b s = .next post) : post.mem = s.mem := by
  cases e
  simp

theorem execDivw_mem {s : State} (d : BitVec 5) (a : BitVec 5) (b : BitVec 5) {post : State}
    (e : execDivw d a b s = .next post) : post.mem = s.mem := by
  cases e
  simp

theorem execRem_mem {s : State} (d : BitVec 5) (a : BitVec 5) (b : BitVec 5) {post : State}
    (e : execRem d a b s = .next post) : post.mem = s.mem := by
  cases e
  simp

theorem execRemw_mem {s : State} (d : BitVec 5) (a : BitVec 5) (b : BitVec 5) {post : State}
    (e : execRemw d a b s = .next post) : post.mem = s.mem := by
  cases e
  simp

theorem execBext_mem {s : State} (d : BitVec 5) (a : BitVec 5) (b : BitVec 5) {post : State}
    (e : execBext d a b s = .next post) : post.mem = s.mem := by
  cases e
  simp

theorem execCmov_mem {s : State} (d : BitVec 5) (a : BitVec 5) (b : BitVec 5) (c : BitVec 5) {post : State}
    (e : execCmov d a b c s = .next post) : post.mem = s.mem := by
  cases e
  simp

theorem execClz_mem {s : State} (d : BitVec 5) (a : BitVec 5) {post : State} (e : execClz d a s = .next post) :
    post.mem = s.mem := by
  cases e
  simp

theorem execCtz_mem {s : State} (d : BitVec 5) (a : BitVec 5) {post : State} (e : execCtz d a s = .next post) :
    post.mem = s.mem := by
  cases e
  simp

theorem execPopc_mem {s : State} (d : BitVec 5) (a : BitVec 5) {post : State}
    (e : execPopc d a s = .next post) : post.mem = s.mem := by
  cases e
  simp

theorem execBrev_mem {s : State} (d : BitVec 5) (a : BitVec 5) {post : State}
    (e : execBrev d a s = .next post) : post.mem = s.mem := by
  cases e
  simp

theorem execBswap_mem {s : State} (d : BitVec 5) (a : BitVec 5) {post : State}
    (e : execBswap d a s = .next post) : post.mem = s.mem := by
  cases e
  simp

theorem execSext_mem {s : State} (d : BitVec 5) (a : BitVec 5) (h : BitVec 1) (n : BitVec 5) {post : State}
    (e : execSext d a h n s = .next post) : post.mem = s.mem := by
  cases e
  simp

theorem execZext_mem {s : State} (d : BitVec 5) (a : BitVec 5) (h : BitVec 1) (n : BitVec 5) {post : State}
    (e : execZext d a h n s = .next post) : post.mem = s.mem := by
  cases e
  simp

theorem execBins_mem {s : State} (d : BitVec 5) (a : BitVec 5) (b : BitVec 5) {post : State}
    (e : execBins d a b s = .next post) : post.mem = s.mem := by
  cases e
  simp

theorem execAddi_mem {s : State} (d : BitVec 5) (a : BitVec 5) (k : BitVec 16) {post : State}
    (e : execAddi d a k s = .next post) : post.mem = s.mem := by
  cases e
  simp

theorem execAndi_mem {s : State} (d : BitVec 5) (a : BitVec 5) (k : BitVec 16) {post : State}
    (e : execAndi d a k s = .next post) : post.mem = s.mem := by
  cases e
  simp

theorem execOri_mem {s : State} (d : BitVec 5) (a : BitVec 5) (k : BitVec 16) {post : State}
    (e : execOri d a k s = .next post) : post.mem = s.mem := by
  cases e
  simp

theorem execXori_mem {s : State} (d : BitVec 5) (a : BitVec 5) (k : BitVec 16) {post : State}
    (e : execXori d a k s = .next post) : post.mem = s.mem := by
  cases e
  simp

theorem execSlti_mem {s : State} (d : BitVec 5) (a : BitVec 5) (k : BitVec 16) {post : State}
    (e : execSlti d a k s = .next post) : post.mem = s.mem := by
  cases e
  simp

theorem execSltwi_mem {s : State} (d : BitVec 5) (a : BitVec 5) (k : BitVec 16) {post : State}
    (e : execSltwi d a k s = .next post) : post.mem = s.mem := by
  cases e
  simp

theorem execShli_mem {s : State} (d : BitVec 5) (a : BitVec 5) (k : BitVec 6) {post : State}
    (e : execShli d a k s = .next post) : post.mem = s.mem := by
  cases e
  simp

theorem execShri_mem {s : State} (d : BitVec 5) (a : BitVec 5) (k : BitVec 6) {post : State}
    (e : execShri d a k s = .next post) : post.mem = s.mem := by
  cases e
  simp

theorem execSari_mem {s : State} (d : BitVec 5) (a : BitVec 5) (k : BitVec 6) {post : State}
    (e : execSari d a k s = .next post) : post.mem = s.mem := by
  cases e
  simp

theorem execRoli_mem {s : State} (d : BitVec 5) (a : BitVec 5) (k : BitVec 6) {post : State}
    (e : execRoli d a k s = .next post) : post.mem = s.mem := by
  cases e
  simp

theorem execMovk_mem {s : State} (d : BitVec 5) (pos : BitVec 2) (keep : BitVec 1) (k : BitVec 16)
    {post : State} (e : execMovk d pos keep k s = .next post) : post.mem = s.mem := by
  cases e
  simp

theorem execLea_mem {s : State} (d : BitVec 5) (a : BitVec 5) (b : BitVec 5) (sc : BitVec 2) (disp : BitVec 9)
    {post : State} (e : execLea d a b sc disp s = .next post) : post.mem = s.mem := by
  cases e
  simp

theorem execGcoord_mem {s : State} (d : BitVec 5) (a : BitVec 5) {post : State}
    (e : execGcoord d a s = .next post) : post.mem = s.mem := by
  cases e
  simp

theorem execWidf_mem {s : State} (d : BitVec 5) (f : BitVec 5) {post : State}
    (e : execWidf d f s = .next post) : post.mem = s.mem := by
  cases e
  simp

theorem execSelf_mem {s : State} (d : BitVec 5) {post : State} (e : execSelf d s = .next post) :
    post.mem = s.mem := by
  cases e
  simp

theorem execCload_mem {s : State} (d : BitVec 5) {post : State} (e : execCload d s = .next post) :
    post.mem = s.mem := by
  cases e
  simp

end Sys2Proof.Machine
end

