-- ==== Sys2Proof/Laws/KeepControl.lean ====
section
/-!
SUPPORT. Every operation of Machine/Control.lean keeps the canonical form of memory.
-/

namespace Sys2Proof.Machine

@[simp] theorem transferTo_mem (s : State) (taken : Bool) (target : Word) (nul : BitVec 2) :
    (transferTo s taken target nul).mem = s.mem := by
  simp [transferTo]

@[simp] theorem linked_mem (s : State) : (linked s).mem = s.mem := by simp [linked]

theorem execBeq_mem {s : State} (a : BitVec 5) (b : BitVec 5) (nul : BitVec 2) (disp : BitVec 11) {post : State}
    (e : execBeq a b nul disp s = .next post) : post.mem = s.mem := by
  cases e
  simp

theorem execBne_mem {s : State} (a : BitVec 5) (b : BitVec 5) (nul : BitVec 2) (disp : BitVec 11) {post : State}
    (e : execBne a b nul disp s = .next post) : post.mem = s.mem := by
  cases e
  simp

theorem execBlt_mem {s : State} (a : BitVec 5) (b : BitVec 5) (nul : BitVec 2) (disp : BitVec 11) {post : State}
    (e : execBlt a b nul disp s = .next post) : post.mem = s.mem := by
  cases e
  simp

theorem execBge_mem {s : State} (a : BitVec 5) (b : BitVec 5) (nul : BitVec 2) (disp : BitVec 11) {post : State}
    (e : execBge a b nul disp s = .next post) : post.mem = s.mem := by
  cases e
  simp

theorem execBltw_mem {s : State} (a : BitVec 5) (b : BitVec 5) (nul : BitVec 2) (disp : BitVec 11)
    {post : State} (e : execBltw a b nul disp s = .next post) : post.mem = s.mem := by
  cases e
  simp

theorem execBgew_mem {s : State} (a : BitVec 5) (b : BitVec 5) (nul : BitVec 2) (disp : BitVec 11)
    {post : State} (e : execBgew a b nul disp s = .next post) : post.mem = s.mem := by
  cases e
  simp

theorem execBbs_mem {s : State} (a : BitVec 5) (b : BitVec 5) (nul : BitVec 2) (disp : BitVec 11) {post : State}
    (e : execBbs a b nul disp s = .next post) : post.mem = s.mem := by
  cases e
  simp

theorem execBbc_mem {s : State} (a : BitVec 5) (b : BitVec 5) (nul : BitVec 2) (disp : BitVec 11) {post : State}
    (e : execBbc a b nul disp s = .next post) : post.mem = s.mem := by
  cases e
  simp

theorem execJ_mem {s : State} (disp : BitVec 26) {post : State} (e : execJ disp s = .next post) :
    post.mem = s.mem := by
  cases e
  simp

theorem execCall_mem {s : State} (disp : BitVec 26) {post : State} (e : execCall disp s = .next post) :
    post.mem = s.mem := by
  cases e
  simp

theorem execJr_mem {s : State} (a : BitVec 5) {post : State} (e : execJr a s = .next post) :
    post.mem = s.mem := by
  cases e
  simp

theorem execCallr_mem {s : State} (a : BitVec 5) {post : State} (e : execCallr a s = .next post) :
    post.mem = s.mem := by
  cases e
  simp

theorem execRet_mem {s : State} {post : State} (e : execRet s = .next post) : post.mem = s.mem := by
  cases e
  simp

theorem execRpt_memWf {s : State} (h : Memory.wf s.mem = true) (n : BitVec 4) (count : BitVec 10)
    (sd : BitVec 2) (sa : BitVec 2) (sb : BitVec 2) {post : State}
        (e : execRpt n count sd sa sb s = .next post) : Memory.wf post.mem = true := by
  unfold execRpt at e
  cases e
  (repeat' split) <;> simp [h]

end Sys2Proof.Machine
end

