-- ==== Sys2Proof/Laws/KeepWindow.lean ====
section
/-!
SUPPORT. Every operation of Machine/Window.lean keeps the canonical form of memory.
-/

namespace Sys2Proof.Machine

@[simp] theorem sysRead_mem (s : State) (pa : Nat) (size : Nat) : (sysRead s pa size).2.mem = s.mem := by
  unfold sysRead
  grind [takeFree_mem]

@[simp] theorem logClass_mem (s : State) (cls : BitVec 8) (unit : BitVec 16) (addr : Word) :
    (logClass s cls unit addr).mem = s.mem := by
  simp [logClass]

@[simp] theorem logUnit_mem (s : State) (cls : BitVec 8) (u : FenceUnit) : (logUnit s cls u).mem = s.mem := by
  simp only [logUnit]
  split <;> simp

@[simp] theorem putFence_mem (s : State) (f : Fence) : (putFence s f).mem = s.mem := rfl

@[simp] theorem setFence_mem (s : State) (u : FenceUnit) (st : BitVec 2) : (setFence s u st).mem = s.mem := rfl

@[simp] theorem writeFence_mem (s : State) (u : FenceUnit) (w : Nat) : (writeFence s u w).mem = s.mem := by
  simp only [writeFence]
  (repeat' split) <;> simp

@[simp] theorem writeAgent_memWf {s : State} (h : Memory.wf s.mem = true) (pa size v : Nat) :
    Memory.wf (writeAgent s pa size v).mem = true := by
  simp only [writeAgent]
  (repeat' split) <;> simp [h]

@[simp] theorem sysWrite_memWf {s : State} (h : Memory.wf s.mem = true) (pa : Nat) (size : Nat) (v : Nat) :
    Memory.wf (sysWrite s pa size v).mem = true := by
  simp only [sysWrite]
  (repeat' split) <;> simp [h]

end Sys2Proof.Machine
end

