-- ==== Sys2Proof/Laws/KeepMem.lean ====
section
/-!
SUPPORT. Every operation of Machine/Mem.lean keeps the canonical form of memory.
-/

namespace Sys2Proof.Machine

@[simp] theorem reach_mem (s : State) (xroot : Word) (level : Level) (ea : Word) (acc : AccType) :
    (reach s xroot level ea acc).1.mem = s.mem := by
  unfold reach
  grind [translate_mem]

@[simp] theorem checkAccess_mem (s : State) (ea : Word) (n : Nat) (acc : AccType) :
    (checkAccess s ea n acc).1.mem = s.mem := by
  unfold checkAccess
  grind [reach_mem]

@[simp] theorem eccClear_mem (s : State) (pa : Nat) (n : Nat) :
    (eccClear s pa n).mem = s.mem := by simp [eccClear]

@[simp] theorem storeAt_memWf {s : State} (h : Memory.wf s.mem = true) (pa : Nat) (n : Nat) (v : Nat)
    (lay : optParam (BitVec 2) 0) :
    Memory.wf (storeAt s pa n v lay).1.mem = true := by
  simp only [storeAt]
  split <;> simp [h]

@[simp] theorem sysStore_memWf {s : State} (h : Memory.wf s.mem = true) (pa : Nat) (v : Nat) (x : Nat) :
    Memory.wf (sysStore s pa v x).mem = true := by
  fun_induction sysStore <;> simp_all

@[simp] theorem endLock_mem (s : State) (who : BitVec 36) : (endLock s who).mem = s.mem := by
  simp only [endLock]
  (repeat' split) <;> simp

@[simp] theorem sulAt_memWf {s : State} (h : Memory.wf s.mem = true) (a : Access) (pa : Nat) :
    Memory.wf (sulAt s a pa).1.mem = true := by
  simp only [sulAt]
  grind [storeAt_memWf, endLock_mem, Memory.putBytes_wf]

@[simp] theorem takeLock_mem (s : State) (a : Access) (pa : Nat) : (takeLock s a pa).mem = s.mem := by
  simp only [takeLock]
  (repeat' split) <;> simp

@[simp] theorem memStep_memWf {s : State} (h : Memory.wf s.mem = true) (a : Access) (pa : Nat) :
    Memory.wf (memStep s a pa).1.mem = true := by
  simp only [memStep]
  grind [writeNat_memWf, logEcc_mem, storeAt_memWf, sulAt_memWf, takeLock_mem, Memory.putBytes_wf]

@[simp] theorem homeStep_memWf {s : State} (h : Memory.wf s.mem = true) (a : Access) :
    Memory.wf (homeStep s a).1.mem = true := by
  unfold homeStep
  grind [sysRead_mem, sysWrite_memWf, sysStore_memWf, memStep_memWf, Memory.putBytes_wf]

@[simp] theorem engineLost_mem (s : State) (port : Nat) (keys : List Nat) :
    (engineLost s port keys).mem = s.mem := by
  simp [engineLost]

@[simp] theorem passOver_mem (s : State) (who : BitVec 36) (keys : List Nat) : (passOver s who keys).mem = s.mem := rfl

@[simp] theorem engineServed_mem (s : State) (port : Nat) (keys : optParam (List Nat) []) :
    (engineServed s port keys).mem = s.mem := by
  simp only [engineServed]
  split <;> simp

@[simp] theorem markError_memWf {s : State} (h : Memory.wf s.mem = true) (i : Fin 11) (m : ErrMark) :
    Memory.wf (markError s i m).mem = true := by
  unfold markError
  grind [writeNat_memWf, State.setAt_mem, deliverG_memWf, deliverV_memWf, Memory.putBytes_wf]

@[simp] theorem noteStoreError_mem (s : State) (i : Fin 11) (c : Cause) (ea : Word) :
    (noteStoreError s i c ea).mem = s.mem := by
  simp [noteStoreError]

@[simp] theorem endRemote_mem (s : State) (i : Fin 11) (r : Result) : (endRemote s i r).mem = s.mem := by
  unfold endRemote
  (repeat' split) <;> simp

@[simp] theorem endRemoteEntry_mem (s : State) (r : Result) : (endRemoteEntry s r).mem = s.mem := by
  unfold endRemoteEntry
  split <;> simp

@[simp] theorem dropJob_mem (s : State) (id : Nat) : (dropJob s id).mem = s.mem := by simp [dropJob]

theorem tokenJob_mem {s t : State} {r : Result} {who : BitVec 36} (e : tokenJob s r = some (t, who)) : t.mem = s.mem := by
  unfold tokenJob at e
  (repeat' split at e) <;> cases e <;> simp

@[simp] theorem writeResult_memWf {s : State} (h : Memory.wf s.mem = true) (r : Result) (who : BitVec 36) :
    Memory.wf (writeResult s r who).mem = true := by
  unfold writeResult
  grind [deliverG_memWf, deliverV_memWf, deliverFlags_memWf, deliverToken_memWf, markError_memWf, endRemote_mem,
      Memory.putBytes_wf]

@[simp] theorem applyResult_memWf {s : State} (h : Memory.wf s.mem = true) (r : Result) :
    Memory.wf (applyResult s r).mem = true := by
  unfold applyResult
  split
  · simp [h]
  · split
    · exact h
    · next t who e => simp [tokenJob_mem e, h]

@[simp] theorem performNow_memWf {s : State} (h : Memory.wf s.mem = true) (a : Access) :
    Memory.wf (performNow s a).mem = true := by
  unfold performNow
  grind [send_mem, homeStep_memWf, noteStoreError_mem, applyResult_memWf, Memory.putBytes_wf]

@[simp] theorem arriveHome_memWf {s : State} (h : Memory.wf s.mem = true) (a : Access) (losses : Nat) :
    Memory.wf (arriveHome s a losses).mem = true := by
  have hs := homeStep_memWf h a
  unfold arriveHome
  generalize homeStep s a = x at hs ⊢
  obtain ⟨t, o⟩ := x
  dsimp only at hs ⊢
  (repeat' split) <;> simp_all

@[simp] theorem countAccess_mem (s : State) (acq : Bool) :
    (countAccess s acq).mem = s.mem := by simp [countAccess]

@[simp] theorem makeAccess_memWf {s : State} (h : Memory.wf s.mem = true) (q : Request) (p : Place) :
    Memory.wf (makeAccess s q p).mem = true := by
  simp only [makeAccess]
  (repeat' split) <;> simp [h]

@[simp] theorem threadAccess_memWf {s : State} (h : Memory.wf s.mem = true) (acc : AccType) (q : Request) :
    Memory.wf (threadAccess s acc q).mem = true := by
  have hc := checkAccess_mem s q.ea q.size acc
  simp only [threadAccess]
  split
  · next s1 c e => rw [e] at hc; exact trap_memWf (hc ▸ h) _ _
  · next s1 p e =>
    rw [e] at hc
    have h1 : Memory.wf s1.mem = true := hc ▸ h
    (repeat' split) <;> simp [h1]

@[simp] theorem takeDeferred_memWf {s : State} (h : Memory.wf s.mem = true) (m : ErrMark) (store : Bool) :
    Memory.wf (takeDeferred s m store).mem = true := by
  simp [takeDeferred, h]

theorem afterAccesses_memWf {s : State} (h : Memory.wf s.mem = true) (k : State → State)
    (hk : Memory.wf (k s).mem = true) : Memory.wf (afterAccesses s k).mem = true := by
  simp only [afterAccesses]
  (repeat' split) <;> simp [h, hk]

theorem afterStores_memWf {s : State} (h : Memory.wf s.mem = true) (k : State → State)
    (hk : Memory.wf (k s).mem = true) : Memory.wf (afterStores s k).mem = true := by
  simp only [afterStores]
  (repeat' split) <;> simp [h, hk]

theorem execLd_memWf {s : State} (h : Memory.wf s.mem = true) (d : BitVec 5) (a : BitVec 5) (w : BitVec 4)
    (disp : BitVec 12) {post : State} (e : execLd d a w disp s = .next post) : Memory.wf post.mem = true := by
  cases e
  simp [h]

theorem execSt_memWf {s : State} (h : Memory.wf s.mem = true) (r : BitVec 5) (a : BitVec 5) (rel : BitVec 1)
    (z : BitVec 2) (disp : BitVec 12) {post : State} (e : execSt r a rel z disp s = .next post) :
        Memory.wf post.mem = true := by
  simp only [execSt] at e
  grind [threadAccess_memWf, afterStores_memWf, Memory.putBytes_wf]

theorem execMst_memWf {s : State} (h : Memory.wf s.mem = true) (r : BitVec 5) (a : BitVec 5) (rel : BitVec 1)
    (z : BitVec 2) (disp : BitVec 12) {post : State} (e : execMst r a rel z disp s = .next post) :
        Memory.wf post.mem = true := by
  simp only [execMst] at e
  grind [threadAccess_memWf, afterStores_memWf, Memory.putBytes_wf]

theorem execVld_memWf {s : State} (h : Memory.wf s.mem = true) (v : BitVec 5) (a : BitVec 5) (disp : BitVec 11)
    {post : State} (e : execVld v a disp s = .next post) : Memory.wf post.mem = true := by
  cases e
  simp [h]

theorem execVst_memWf {s : State} (h : Memory.wf s.mem = true) (v : BitVec 5) (a : BitVec 5) (disp : BitVec 11)
    {post : State} (e : execVst v a disp s = .next post) : Memory.wf post.mem = true := by
  cases e
  simp [h]

theorem execRes_memWf {s : State} (h : Memory.wf s.mem = true) (d : BitVec 5) (word : BitVec 3) (k : BitVec 16)
    {post : State} (e : execRes d word k s = .next post) : Memory.wf post.mem = true := by
  cases e
  simp [h]

@[simp] theorem atomic_memWf {s : State} (h : Memory.wf s.mem = true) (fn : BitVec 4) (d a b : BitVec 5)
    (ord : BitVec 2)
    (z : BitVec 1) : Memory.wf (atomic fn d a b ord z s).mem = true := by
  have hc := checkAccess_mem s (gv s a) (atomSize z) .atomic
  simp only [atomic]
  split
  · next s1 c e => rw [e] at hc; exact trap_memWf (hc ▸ h) _ _
  · next s1 p e =>
    rw [e] at hc
    have h1 : Memory.wf s1.mem = true := hc ▸ h
    (repeat' split) <;> simp [h1]

theorem execAadd_memWf {s : State} (h : Memory.wf s.mem = true) (d : BitVec 5) (a : BitVec 5) (b : BitVec 5)
    (ord : BitVec 2) (z : BitVec 1) {post : State} (e : execAadd d a b ord z s = .next post) :
        Memory.wf post.mem = true := by
  cases e
  simp [h]

theorem execAand_memWf {s : State} (h : Memory.wf s.mem = true) (d : BitVec 5) (a : BitVec 5) (b : BitVec 5)
    (ord : BitVec 2) (z : BitVec 1) {post : State} (e : execAand d a b ord z s = .next post) :
        Memory.wf post.mem = true := by
  cases e
  simp [h]

theorem execAor_memWf {s : State} (h : Memory.wf s.mem = true) (d : BitVec 5) (a : BitVec 5) (b : BitVec 5)
    (ord : BitVec 2) (z : BitVec 1) {post : State} (e : execAor d a b ord z s = .next post) :
        Memory.wf post.mem = true := by
  cases e
  simp [h]

theorem execAxor_memWf {s : State} (h : Memory.wf s.mem = true) (d : BitVec 5) (a : BitVec 5) (b : BitVec 5)
    (ord : BitVec 2) (z : BitVec 1) {post : State} (e : execAxor d a b ord z s = .next post) :
        Memory.wf post.mem = true := by
  cases e
  simp [h]

theorem execAmin_memWf {s : State} (h : Memory.wf s.mem = true) (d : BitVec 5) (a : BitVec 5) (b : BitVec 5)
    (ord : BitVec 2) (z : BitVec 1) {post : State} (e : execAmin d a b ord z s = .next post) :
        Memory.wf post.mem = true := by
  cases e
  simp [h]

theorem execAmax_memWf {s : State} (h : Memory.wf s.mem = true) (d : BitVec 5) (a : BitVec 5) (b : BitVec 5)
    (ord : BitVec 2) (z : BitVec 1) {post : State} (e : execAmax d a b ord z s = .next post) :
        Memory.wf post.mem = true := by
  cases e
  simp [h]

theorem execAminw_memWf {s : State} (h : Memory.wf s.mem = true) (d : BitVec 5) (a : BitVec 5) (b : BitVec 5)
    (ord : BitVec 2) (z : BitVec 1) {post : State} (e : execAminw d a b ord z s = .next post) :
        Memory.wf post.mem = true := by
  cases e
  simp [h]

theorem execAmaxw_memWf {s : State} (h : Memory.wf s.mem = true) (d : BitVec 5) (a : BitVec 5) (b : BitVec 5)
    (ord : BitVec 2) (z : BitVec 1) {post : State} (e : execAmaxw d a b ord z s = .next post) :
        Memory.wf post.mem = true := by
  cases e
  simp [h]

theorem execAswp_memWf {s : State} (h : Memory.wf s.mem = true) (d : BitVec 5) (a : BitVec 5) (b : BitVec 5)
    (ord : BitVec 2) (z : BitVec 1) {post : State} (e : execAswp d a b ord z s = .next post) :
        Memory.wf post.mem = true := by
  cases e
  simp [h]

theorem execAcas_memWf {s : State} (h : Memory.wf s.mem = true) (d : BitVec 5) (a : BitVec 5) (b : BitVec 5)
    (ord : BitVec 2) (z : BitVec 1) {post : State} (e : execAcas d a b ord z s = .next post) :
        Memory.wf post.mem = true := by
  cases e
  simp [h]

theorem execAfadd_memWf {s : State} (h : Memory.wf s.mem = true) (d : BitVec 5) (a : BitVec 5) (b : BitVec 5)
    (ord : BitVec 2) (z : BitVec 1) {post : State} (e : execAfadd d a b ord z s = .next post) :
        Memory.wf post.mem = true := by
  cases e
  simp [h]

theorem execLlk_memWf {s : State} (h : Memory.wf s.mem = true) (d a : BitVec 5) (z : BitVec 1) {post : State}
    (e : execLlk d a z s = .next post) : Memory.wf post.mem = true := by
  have hc := checkAccess_mem s (gv s a) (atomSize z) .atomic
  simp only [execLlk, Host.Outcome.next.injEq] at e
  subst e
  split
  · next s1 c e => rw [e] at hc; exact trap_memWf (hc ▸ h) _ _
  · next s1 p e =>
    rw [e] at hc
    have h1 : Memory.wf s1.mem = true := hc ▸ h
    (repeat' split) <;> simp [h1]

theorem execSul_memWf {s : State} (h : Memory.wf s.mem = true) (d a b : BitVec 5) (z : BitVec 1) {post : State}
    (e : execSul d a b z s = .next post) : Memory.wf post.mem = true := by
  have hc := checkAccess_mem s (gv s a) (atomSize z) .atomic
  simp only [execSul, Host.Outcome.next.injEq] at e
  subst e
  split
  · next s1 c e => rw [e] at hc; exact trap_memWf (hc ▸ h) _ _
  · next s1 p e =>
    rw [e] at hc
    have h1 : Memory.wf s1.mem = true := hc ▸ h
    (repeat' split) <;> simp [h1]

theorem execSun_mem {s : State} (d : BitVec 5) (a : BitVec 5) {post : State} (e : execSun d a s = .next post) :
    post.mem = s.mem := by
  unfold execSun at e
  cases e
  (repeat' split) <;> simp

theorem afterErrors_memWf {s : State} (h : Memory.wf s.mem = true) (k : State → State)
    (hk : Memory.wf (k s).mem = true) : Memory.wf (afterErrors s k).mem = true := by
  simp only [afterErrors]
  split <;> simp [h, hk]

@[simp] theorem orderPoint_mem (s : State) : (orderPoint s).mem = s.mem := by simp [orderPoint]

theorem fenceOn_memWf {s : State} (h : Memory.wf s.mem = true) (waits : Word → State → Bool) (k : State → State)
    (hk : (k s).mem = s.mem) (a : BitVec 5) : Memory.wf (fenceOn waits k a s).mem = true := by
  simp only [fenceOn]
  split
  · simp [h]
  · split
    · simp [h]
    · exact afterErrors_memWf h _ (by simp [hk, h])

theorem execFence_memWf {s : State} (h : Memory.wf s.mem = true) (a : BitVec 5) {post : State}
    (e : execFence a s = .next post) : Memory.wf post.mem = true := by
  cases e
  exact fenceOn_memWf h _ _ (orderPoint_mem s) a

theorem execFencea_memWf {s : State} (h : Memory.wf s.mem = true) (a : BitVec 5) {post : State}
    (e : execFencea a s = .next post) : Memory.wf post.mem = true := by
  cases e
  exact fenceOn_memWf h _ _ rfl a

theorem execFencer_memWf {s : State} (h : Memory.wf s.mem = true) (a : BitVec 5) {post : State}
    (e : execFencer a s = .next post) : Memory.wf post.mem = true := by
  cases e
  exact fenceOn_memWf h _ _ (by simp) a

theorem execBfence_mem {s : State} {post : State} (e : execBfence s = .next post) : post.mem = s.mem := by
  unfold execBfence at e
  cases e
  (repeat' split) <;> simp

theorem execQfence_mem {s : State} {post : State} (e : execQfence s = .next post) : post.mem = s.mem := by
  unfold execQfence at e
  cases e
  (repeat' split) <;> simp

theorem execEfence_mem {s : State} {post : State} (e : execEfence s = .next post) : post.mem = s.mem := by
  unfold execEfence at e
  cases e
  (repeat' split) <;> simp

theorem execAccessAtHome_memWf {s : State} (h : Memory.wf s.mem = true) {post : State}
    (e : execAccessAtHome s = .next post) : Memory.wf post.mem = true := by
  unfold execAccessAtHome at e
  cases e
  (repeat' split) <;> simp [h]

theorem execLockRetry_memWf {s : State} (h : Memory.wf s.mem = true) {post : State}
    (e : execLockRetry s = .next post) : Memory.wf post.mem = true := by
  unfold execLockRetry at e
  cases e
  (repeat' split) <;> simp [h]

theorem execStoreAcknowledgement_mem {s : State} {post : State} (e : execStoreAcknowledgement s = .next post) :
    post.mem = s.mem := by
  unfold execStoreAcknowledgement at e
  cases e
  (repeat' split) <;> simp

theorem execResultArrival_memWf {s : State} (h : Memory.wf s.mem = true) {post : State}
    (e : execResultArrival s = .next post) : Memory.wf post.mem = true := by
  unfold execResultArrival at e
  cases e
  (repeat' split) <;> simp [h]

theorem execLlkLapse_mem {s : State} {post : State} (e : execLlkLapse s = .next post) : post.mem = s.mem := by
  unfold execLlkLapse at e
  cases e
  (repeat' split) <;> simp

@[simp] theorem setReplica_mem (s : State) (r : Replica) : (setReplica s r).mem = s.mem := by simp [setReplica]

theorem execMstStamp_mem {s : State} {post : State} (e : execMstStamp s = .next post) : post.mem = s.mem := by
  unfold execMstStamp at e
  cases e
  (repeat' split) <;> simp

@[simp] theorem replicaStep_memWf {s : State} (h : Memory.wf s.mem = true) (a : Access) (pa : Nat) :
    Memory.wf (replicaStep s a pa).1.mem = true := by
  simp only [replicaStep]
  (repeat' split) <;> simp [h]

theorem replicaAck_memWf (a : Access) (last : Bool) {r : State × HomeOut} (h : Memory.wf r.1.mem = true) :
    Memory.wf (replicaAck a last r).mem = true := by
  simp only [replicaAck]
  (repeat' split) <;> simp [h]

@[simp] theorem mstApplyAt_memWf {s : State} (h : Memory.wf s.mem = true) (a : Access) (mask : BitVec 8)
    (stamp : Nat)
    (die : BitVec 3) : Memory.wf (mstApplyAt s a mask stamp die).mem = true := by
  simp only [mstApplyAt]
  exact replicaAck_memWf _ _ (replicaStep_memWf (by simpa using h) _ _)

theorem execMstApply_memWf {s : State} (h : Memory.wf s.mem = true) {post : State}
    (e : execMstApply s = .next post) : Memory.wf post.mem = true := by
  simp only [execMstApply] at e
  cases e
  (repeat' split) <;> simp [h]

end Sys2Proof.Machine
end

