-- ==== Sys2Proof/Laws/KeepContext.lean ====
section
/-!
SUPPORT. Every operation of Machine/Context.lean keeps the canonical form of memory.
-/

namespace Sys2Proof.Machine

@[simp] theorem keepForeign_mem (s : State) (l : Option LaunchCtx) : (keepForeign s l).mem = s.mem := by
  simp only [keepForeign]
  (repeat' split) <;> simp

@[simp] theorem writeRanges_memWf {s : State} (h : Memory.wf s.mem = true) (l : List (Nat × Nat × List Byte)) :
    Memory.wf (writeRanges s l).mem = true := by
  induction l generalizing s with
  | nil => exact h
  | cons x l ih => exact ih (writeBytes_memWf h _ _)

@[simp] theorem bringText_memWf {s : State} (h : Memory.wf s.mem = true) (id : W32) (kidx : BitVec 16) :
    Memory.wf (bringText s id kidx).mem = true := by
  unfold bringText
  (repeat' split) <;> simp [h]

@[simp] theorem bringTextOf_memWf {s : State} (h : Memory.wf s.mem = true) (lref : W32) :
    Memory.wf (bringTextOf s lref).mem = true := by
  simp only [bringTextOf]
  (repeat' split) <;> simp [h]

@[simp] theorem placeActivity_mem (s : State) (i : Fin 11) (pc : Word) (f : Ctx → Ctx) :
    (placeActivity s i pc f).mem = s.mem := by
  simp [placeActivity]

@[simp] theorem reserveSlots_mem (s : State) (k : ItemKey) (x : List (Fin 11)) :
    (reserveSlots k x s).mem = s.mem := by
  fun_induction reserveSlots <;> simp_all

@[simp] theorem startCount_mem (s : State) (it : Item) : (startCount s it).mem = s.mem := by
  simp only [startCount]
  (repeat' split) <;> simp

@[simp] theorem hstartItem_memWf {s : State} (h : Memory.wf s.mem = true) (d : BitVec 5) :
    Memory.wf (hstartItem d s).mem = true := by
  simp only [hstartItem]
  split
  · simp [h]
  split
  · simp [h]
  split
  · simp [h]
  split
  · simp [h]
  · next i _ =>
    generalize hi : install _ _ _ _ = r
    have hr : r.after fun t => Memory.wf t.mem = true := hi ▸ install_memWf (by simp [h]) _ _ _
    cases r with
    | full => simp [h]
    | check => simp [h]
    | ok s2 =>
      simp only [Install.after] at hr
      simp [hr]

/-- Installing a list keeps memory canonical. -/
theorem installMany_memWf (i : Fin 11) (o : Word) (k : OblKind) (n : Nat) {s : State}
    (h : Memory.wf s.mem = true) :
    (installMany i o k n s).after fun t => Memory.wf t.mem = true := by
  induction n generalizing s with
  | zero => exact h
  | succ n ih =>
    have h1 := install_memWf h i o k
    simp only [installMany]
    cases e : install s i o k with
    | ok s1 => rw [e] at h1; exact ih h1
    | full => trivial
    | check => trivial

/-- Installing a record's obligations keeps memory canonical. -/
theorem installAll_memWf (i : Fin 11) (l : List (Word × OblKind × Nat)) {s : State} (h : Memory.wf s.mem = true)
    :
    (installAll i l s).1.after fun t => Memory.wf t.mem = true := by
  induction l generalizing s with
  | nil => exact h
  | cons x l ih =>
    obtain ⟨o, k, n⟩ := x
    have h1 := installMany_memWf i o k n h
    simp only [installAll]
    cases e : installMany i o k n s with
    | ok s1 => rw [e] at h1; exact ih h1
    | full => trivial
    | check => trivial

@[simp] theorem hstartChild_mem (s : State) (d : BitVec 5) (pc : Word) (g1 : Word) (p : Fin 11) :
    (hstartChild d pc g1 p s).mem = s.mem := by
  simp only [hstartChild]
  (repeat' split) <;> simp

theorem execHstart_memWf {s : State} (h : Memory.wf s.mem = true) (d : BitVec 5) (a : BitVec 5) (b : BitVec 5)
    (c : BitVec 5) {post : State} (e : execHstart d a b c s = .next post) : Memory.wf post.mem = true := by
  unfold execHstart at e
  cases e
  (repeat' split) <;> simp [h]

@[simp] theorem dropObls_memWf {s : State} (h : Memory.wf s.mem = true) (i : Fin 11) :
    Memory.wf (dropObls s i).mem = true := by
  simp only [dropObls]
  split
  · cases hw : owedWrite _ i with
    | none => simpa using h
    | some t => exact owedWrite_memWf (by simpa using h) i hw
  · simpa using h

@[simp] theorem exitHelper_memWf {s : State} (h : Memory.wf s.mem = true) :
    Memory.wf (exitHelper s).mem = true := by
  simp only [exitHelper]
  (repeat' split) <;> simp [h]

theorem execHexit_memWf {s : State} (h : Memory.wf s.mem = true) {post : State} (e : execHexit s = .next post) :
    Memory.wf post.mem = true := by
  simp only [execHexit] at e
  grind [endLlk_mem, trapPriv_memWf, stall_mem, afterAccesses_memWf, exitHelper_memWf, Memory.putBytes_wf]

@[simp] theorem writeSpan_memWf {s : State} (h : Memory.wf s.mem = true) (size : Nat) (l : List Nat)
    (bs : List Byte) :
    Memory.wf (writeSpan size l bs s).mem = true := by
  induction l generalizing s bs with
  | nil => exact h
  | cons pa l ih => exact ih (writeBytes_memWf h _ _) _

/-- A property of the state that a span check leaves. -/
def Span.after (p : State → Prop) : Span → Prop
  | .ok s _ => p s
  | .fault s _ _ => p s
  | .held s => p s

/-- The checks of a span write nothing. -/
theorem checkSpan_mem (acc : AccType) (size n : Nat) (s : State) (ea : Word) :
    (checkSpan acc size n s ea).after fun t => t.mem = s.mem := by
  induction n generalizing s ea with
  | zero => rfl
  | succ n ih =>
    have hc := checkAccess_mem s ea size acc
    simp only [checkSpan]
    split
    · next s1 c e => rw [e] at hc; exact hc
    · next s1 p e =>
      rw [e] at hc
      have hn := ih s1 (ea + BitVec.ofNat 64 size)
      split
      · exact hc
      · exact hc
      · split
        · exact hc
        · split
          · next s2 pas e2 => rw [e2] at hn; exact Eq.trans hn hc
          · next o _ =>
            revert hn
            generalize checkSpan acc size n s1 _ = r
            cases r <;> exact fun hn => Eq.trans hn hc

/-- The check of a record's place writes nothing. -/
theorem recordSpan_mem (s : State) (target : Option Word) (ea : Word) :
    (recordSpan s target ea).after fun t => t.mem = s.mem := by
  simp only [recordSpan]
  split
  · exact checkSpan_mem _ _ _ _ _
  · rfl

/-- The check of a spill block's place writes nothing. -/
theorem spillSpan_mem (s : State) (n : Nat) (ea : Word) : (spillSpan s n ea).after fun t => t.mem = s.mem := by
  simp only [spillSpan]
  split
  · rfl
  · exact checkSpan_mem _ _ _ _ _

@[simp] theorem packHelper_memWf {s : State} (h : Memory.wf s.mem = true) (d a b : BitVec 5)
    (target : Option Word) :
    Memory.wf (packHelper d a b target s).mem = true := by
  have h1 := recordSpan_mem s target (gv s a)
  simp only [packHelper]
  split
  · simp [h]
  split
  · simp [h]
  split
  · simp [h]
  split
  · next e => rw [e] at h1; exact trap_memWf (h1 ▸ h) _ _
  · next e => rw [e] at h1; rw [stall_mem]; exact h1 ▸ h
  · next s1 pas e =>
    rw [e] at h1
    have w1 : Memory.wf s1.mem = true := h1 ▸ h
    generalize regroup _ = rest
    have h2 := spillSpan_mem s1 rest.length (gv s b)
    split
    · next e2 => rw [e2] at h2; exact trap_memWf (h2 ▸ w1) _ _
    · next e2 => rw [e2] at h2; rw [stall_mem]; exact h2 ▸ w1
    · next s2 pas2 e2 =>
      rw [e2] at h2
      have w2 : Memory.wf s2.mem = true := h2 ▸ w1
      have w3 (x y : List Byte) :
          Memory.wf (dropObls (writeSpan 64 pas x (writeSpan 16 pas2 y s2)) s.core.cur).mem = true :=
        dropObls_memWf (writeSpan_memWf (writeSpan_memWf w2 _ _ _) _ _ _) _
      split <;> simp [w3]

@[simp] theorem pack_memWf {s : State} (h : Memory.wf s.mem = true) (d : BitVec 5) (a : BitVec 5) (b : BitVec 5)
    (migrate : Bool) : Memory.wf (pack d a b migrate s).mem = true := by
  unfold pack
  grind [wg_mem, retire_mem, packHelper_memWf, Memory.putBytes_wf]

@[simp] theorem packStart_memWf {s : State} (h : Memory.wf s.mem = true) (d : BitVec 5) (a : BitVec 5)
    (b : BitVec 5) (migrate : Bool) : Memory.wf (packStart d a b migrate s).mem = true := by
  simp only [packStart]
  split
  · simp [h]
  split
  · simp [h]
  refine afterErrors_memWf h _ ?_
  split
  · simp [h]
  · exact afterAccesses_memWf h _ (pack_memWf (by simp [h]) _ _ _ _)

theorem execCpack_memWf {s : State} (h : Memory.wf s.mem = true) (d : BitVec 5) (a : BitVec 5) (b : BitVec 5)
    {post : State} (e : execCpack d a b s = .next post) : Memory.wf post.mem = true := by
  cases e
  simp [h]

theorem execMigrate_memWf {s : State} (h : Memory.wf s.mem = true) (d : BitVec 5) (a : BitVec 5) (b : BitVec 5)
    {post : State} (e : execMigrate d a b s = .next post) : Memory.wf post.mem = true := by
  cases e
  simp [h]

@[simp] theorem placeRecord_mem (s : State) (i : Fin 11) (r : Nat) (l : LaunchCtx) :
    (placeRecord s i r l).mem = s.mem := by
  simp [placeRecord]

/-- A property of the state that a spill read leaves. -/
def SpillRead.after (p : State → Prop) : SpillRead → Prop
  | .ok s _ => p s
  | .fault s _ _ => p s
  | .held s => p s

/-- Reading a spill block writes nothing. -/
theorem readSpill_mem (s : State) (r : Nat) : (readSpill s r).after fun t => t.mem = s.mem := by
  have h1 := checkSpan_mem .read 16 1 s (BitVec.ofNat 64 (0x10 * 2 ^ 56 + nfld r 1480 49 * 2 ^ 6))
  simp only [readSpill]
  split
  · rfl
  · cases e : checkSpan .read 16 1 s (BitVec.ofNat 64 (0x10 * 2 ^ 56 + nfld r 1480 49 * 2 ^ 6)) with
    | fault s1 c ea => rw [e] at h1; exact h1
    | held s1 => rw [e] at h1; exact h1
    | ok s1 pas =>
      rw [e] at h1
      dsimp only
      generalize hn : natLE ((readSpan s1 16 pas).take 8) % 2 ^ 16 = n
      have h2 := checkSpan_mem .read 16 n s1 (BitVec.ofNat 64 (0x10 * 2 ^ 56 + nfld r 1480 49 * 2 ^ 6) + 16)
      cases e2 : checkSpan .read 16 n s1 (BitVec.ofNat 64 (0x10 * 2 ^ 56 + nfld r 1480 49 * 2 ^ 6) + 16) with
      | fault s2 c ea => rw [e2] at h2; exact Eq.trans h2 h1
      | held s2 => rw [e2] at h2; exact Eq.trans h2 h1
      | ok s2 pas2 => rw [e2] at h2; exact Eq.trans h2 h1

theorem resumeRecord_memWf {s : State} (h : Memory.wf s.mem = true) (d : BitVec 5) (r : Nat)
    (done : State → State)
    (hd : ∀ t, Memory.wf t.mem = true → Memory.wf (done t).mem = true) :
    Memory.wf (resumeRecord d r done s).mem = true := by
  have hs := readSpill_mem s r
  simp only [resumeRecord]
  split
  · simp [h]
  split
  · simp [h]
  split
  · simp [h]
  split
  · simp [h]
  split
  · next e => rw [e] at hs; exact trap_memWf (hs ▸ h) _ _
  · next e => rw [e] at hs; rw [stall_mem]; exact hs ▸ h
  · next s1 os e =>
    rw [e] at hs
    have h1 : Memory.wf s1.mem = true := hs ▸ h
    have h2 (i : Fin 11) (l : LaunchCtx) :=
      installAll_memWf i (inlineObls r ++ os) (s := placeRecord s1 i r l) (by simpa using h1)
    split
    · next s2 _ e2 =>
      have w : Memory.wf s2.mem = true :=
        (congrArg (fun x : Install × Word => x.1.after fun t => Memory.wf t.mem = true) e2).mp (h2 _ _)
      simp [hd s2 w]
    · simp [h1]
    · simp [h1]

@[simp] theorem resumeMemory_memWf {s : State} (h : Memory.wf s.mem = true) (d : BitVec 5) (ea : Word) :
    Memory.wf (resumeMemory d ea s).mem = true := by
  have h1 := checkSpan_mem .read 64 3 s ea
  simp only [resumeMemory]
  split
  · simp [h]
  split
  · simp [h]
  split
  · next e => rw [e] at h1; exact trap_memWf (h1 ▸ h) _ _
  · next e => rw [e] at h1; rw [stall_mem]; exact h1 ▸ h
  · next s1 pas e =>
    rw [e] at h1
    have w1 : Memory.wf s1.mem = true := h1 ▸ h
    have h2 := checkSpan_mem .atomic 8 1 s1 (ea + 184)
    split
    · next e2 => rw [e2] at h2; exact trap_memWf (h2 ▸ w1) _ _
    · next e2 => rw [e2] at h2; rw [stall_mem]; exact h2 ▸ w1
    · next s2 swap e2 =>
      rw [e2] at h2
      have w2 : Memory.wf s2.mem = true := h2 ▸ w1
      split
      · simp [w2]
      · exact resumeRecord_memWf w2 _ _ _ fun t ht => writeSpan_memWf ht _ _ _

@[simp] theorem contTaken_mem (s : State) : (contTaken s).mem = s.mem := by
  unfold contTaken
  grind [State.modCore_mem, send_mem]

theorem execCresume_memWf {s : State} (h : Memory.wf s.mem = true) (d : BitVec 5) (a : BitVec 5) {post : State}
    (e : execCresume d a s = .next post) : Memory.wf post.mem = true := by
  simp only [execCresume] at e
  grind [wg_mem, retire_mem, trapPriv_memWf, resumeRecord_memWf, resumeMemory_memWf, contTaken_mem,
      Memory.putBytes_wf]

theorem execHstat_memWf {s : State} (h : Memory.wf s.mem = true) (d : BitVec 5) (slot : BitVec 5) {post : State}
    (e : execHstat d slot s = .next post) : Memory.wf post.mem = true := by
  unfold execHstat at e
  cases e
  (repeat' split) <;> simp [h]

end Sys2Proof.Machine
end

