-- ==== Sys2Proof/Laws/KeepOblig.lean ====
section
/-!
SUPPORT. Every operation of Machine/Oblig.lean keeps the canonical form of memory.
-/

namespace Sys2Proof.Machine

@[simp] theorem freeWords_memWf {s : State} (h : Memory.wf s.mem = true) (pa : Nat) (x : Nat) :
    Memory.wf (freeWords pa x s).mem = true := by
  fun_induction freeWords <;> grind [writeNat_memWf, takeFree_mem, Memory.putBytes_wf]

@[simp] theorem ringWrite_memWf {s : State} (h : Memory.wf s.mem = true) :
    Memory.wf (ringWrite s).mem = true := by
  unfold ringWrite
  split
  · simp [h]
  · exact saveSync_memWf (by simp [h]) _ _

@[simp] theorem toSpill_memWf {s : State} (h : Memory.wf s.mem = true) (m : Spilled) :
    Memory.wf (toSpill s m).mem = true := by
  unfold toSpill
  (repeat' split) <;> simp [h]

@[simp] theorem dropSpill_memWf {s : State} (h : Memory.wf s.mem = true) :
    Memory.wf (dropSpill s).mem = true := by
  unfold dropSpill
  exact saveSync_memWf (by rw [State.modCore_mem]; split <;> simp [h]) _ _

@[simp] theorem keepEvent_memWf {s : State} (h : Memory.wf s.mem = true) (e : Event) :
    Memory.wf (keepEvent s e).mem = true :=
  saveSync_memWf (by simp [h]) _ _

@[simp] theorem holdEvent_memWf {s : State} (h : Memory.wf s.mem = true) (e : Event) :
    Memory.wf (holdEvent s e).mem = true := by
  unfold holdEvent
  (repeat' split) <;> simp [h]

@[simp] theorem arrival_memWf {s : State} (h : Memory.wf s.mem = true) : Memory.wf (arrival s).mem = true := by
  unfold arrival
  (repeat' split) <;> simp [h]

@[simp] theorem intoReserved_memWf {s : State} (h : Memory.wf s.mem = true) (i : Fin 11) (o : Obl) :
    Memory.wf (intoReserved s i o).mem = true := by
  unfold intoReserved
  split
  · next e => exact owedUpdate_memWf h i _ e
  · simp [h]

@[simp] theorem installReserved_memWf {s : State} (h : Memory.wf s.mem = true) (i : Fin 11) (o : Obl) :
    Memory.wf (installReserved s i o).mem = true := by
  simp only [installReserved]
  (repeat' split) <;> simp [h]

@[simp] theorem installKept_memWf {s : State} (h : Memory.wf s.mem = true) (i : Fin 11) (o : Word) (k : OblKind)
    :
    Memory.wf (installKept s i o k).mem = true := by
  have hi := install_memWf h i o k
  simp only [installKept]
  split
  · next e => rw [e] at hi; exact hi
  · simp [h]
  · simp [h]

@[simp] theorem installAcq_memWf {s : State} (h : Memory.wf s.mem = true) (i : Fin 11)
    (x : Option (Word × OblKind)) : Memory.wf (installAcq s i x).mem = true := by
  unfold installAcq
  (repeat' split) <;> simp [h]

@[simp] theorem writeAnswer_memWf {s : State} (h : Memory.wf s.mem = true) (i : Fin 11) (a : Asked) (r : Word)
    (msg : Option (Word × Word)) : Memory.wf (writeAnswer s i a r msg).mem = true := by
  unfold writeAnswer
  grind [deliverG_memWf, Memory.putBytes_wf]

@[simp] theorem release_mem (s : State) (i : Fin 11) (a : Asked) : (release s i a).mem = s.mem := by
  unfold release
  (repeat' split) <;> simp

@[simp] theorem acquire_mem (s : State) (i : Fin 11) (a : Asked) : (acquire s i a).mem = s.mem := by
  unfold acquire
  (repeat' split) <;> simp

@[simp] theorem frameWaitEnds_memWf {s : State} (h : Memory.wf s.mem = true) (i : Fin 11) :
    Memory.wf (frameWaitEnds s i).mem = true := by
  unfold frameWaitEnds
  (repeat' split) <;> simp [h]

@[simp] theorem endWait_memWf {s : State} (h : Memory.wf s.mem = true) (i : Fin 11) (r : Word)
    (msg : Option (Word × Word)) (acq : Option (Word × OblKind)) :
        Memory.wf (endWait s i r msg acq).mem = true := by
  unfold endWait
  split
  · exact h
  · next a _ =>
    have h1 : Memory.wf (writeAnswer (installAcq (release s i a) i acq) i a r msg).mem = true :=
      writeAnswer_memWf (installAcq_memWf (by simpa using h) _ _) _ _ _ _
    have h2 : Memory.wf (acquire (writeAnswer (installAcq (release s i a) i acq) i a r msg) i a).mem = true := by
      simpa using h1
    simpa using frameWaitEnds_memWf h2 i

@[simp] theorem setObj_mem (s : State) (o : Obj) : (setObj s o).mem = s.mem := by simp [setObj]

@[simp] theorem removeWaiter_mem (s : State) (h : Word) (who : Agent) :
    (removeWaiter s h who).1.mem = s.mem := by
  unfold removeWaiter
  (repeat' split) <;> simp

@[simp] theorem rankAbort_memWf {s : State} (h : Memory.wf s.mem = true) (i : Fin 11) (sigma : Nat) :
    Memory.wf (rankAbort s i sigma).mem = true := by
  unfold rankAbort
  grind [out_mem, endWait_memWf, removeWaiter_mem, Memory.putBytes_wf]

@[simp] theorem installAside_memWf {s : State} (h : Memory.wf s.mem = true) (o : Word) (k : OblKind) :
    Memory.wf (installAside s o k).mem = true := by
  have h1 : Memory.wf (rankAbort s 0 (rankOf o)).mem = true := rankAbort_memWf h _ _
  have hi := install_memWf h1 0 o k
  simp only [installAside]
  split
  · next e => rw [e] at hi; exact hi
  · exact machineCheck_memWf h1 _ _ _
  · split
    · exact machineCheck_memWf (by simpa using h) _ _ _
    · simpa using h

@[simp] theorem deliverTransfer_memWf {s : State} (h : Memory.wf s.mem = true) (i : Fin 11) (o : Word)
    (k : OblKind) :
    Memory.wf (deliverTransfer s i o k).mem = true := by
  have h1 : Memory.wf (rankAbort s i (rankOf o)).mem = true := rankAbort_memWf h _ _
  have hi := install_memWf h1 i o k
  simp only [deliverTransfer]
  split
  · exact holdEvent_memWf (installAside_memWf h _ _) _
  · split
    · next e => rw [e] at hi; exact hi
    · exact machineCheck_memWf h1 _ _ _
    · exact installAside_memWf h _ _

@[simp] theorem askHome_mem (s : State) (a : Asked) (m : Msg) : (askHome s a m).mem = s.mem := by simp [askHome]

@[simp] theorem askFor_mem (s : State) (h : Word) (d : Option (BitVec 5)) (op : HomeOp) :
    (askFor s h d op).mem = s.mem := by
  simp [askFor]

@[simp] theorem reserve_mem (s : State) : (reserve s).mem = s.mem := by simp [reserve]

theorem execOnew_memWf {s : State} (h : Memory.wf s.mem = true) (d : BitVec 5) (a : BitVec 5) (b : BitVec 5)
    (kind : BitVec 5) {post : State} (e : execOnew d a b kind s = .next post) : Memory.wf post.mem = true := by
  unfold execOnew at e
  cases e
  (repeat' split) <;> simp [h]

theorem execOfree_mem {s : State} (a : BitVec 5) {post : State} (e : execOfree a s = .next post) :
    post.mem = s.mem := by
  cases e
  simp

theorem execOblig_mem {s : State} (d : BitVec 5) (a : BitVec 5) {post : State}
    (e : execOblig d a s = .next post) : post.mem = s.mem := by
  cases e
  simp

theorem execOqry_mem {s : State} (d : BitVec 5) (a : BitVec 5) (field : BitVec 5) {post : State}
    (e : execOqry d a field s = .next post) : post.mem = s.mem := by
  cases e
  simp

theorem execPoll_memWf {s : State} (h : Memory.wf s.mem = true) (d : BitVec 5) (a : BitVec 5) {post : State}
    (e : execPoll d a s = .next post) : Memory.wf post.mem = true := by
  unfold execPoll at e
  cases e
  (repeat' split) <;> simp [h]

@[simp] theorem waitIssue_memWf {s : State} (h : Memory.wf s.mem = true) (d : BitVec 5) (o : Word) (op : WaitOp)
    :
    Memory.wf (waitIssue s d o op).mem = true := by
  have h1 : Memory.wf (endLlk (reserve s) s.core.cur).mem = true := by simpa using h
  simp only [waitIssue]
  (repeat' split) <;> simp [h]

theorem execWait_memWf {s : State} (h : Memory.wf s.mem = true) (d : BitVec 5) (a : BitVec 5) {post : State}
    (e : execWait d a s = .next post) : Memory.wf post.mem = true := by
  cases e
  simp [h]

theorem execBarw_memWf {s : State} (h : Memory.wf s.mem = true) (d : BitVec 5) (a : BitVec 5) {post : State}
    (e : execBarw d a s = .next post) : Memory.wf post.mem = true := by
  cases e
  simp [h]

@[simp] theorem discharge_memWf {s : State} (h : Memory.wf s.mem = true) (o : Word) (k : OblKind) (how : DisHow)
    :
    Memory.wf (discharge s o k how).mem = true := by
  simp [discharge, removeObl_getD_memWf h]

theorem execOsig_memWf {s : State} (h : Memory.wf s.mem = true) (a : BitVec 5) {post : State}
    (e : execOsig a s = .next post) : Memory.wf post.mem = true := by
  unfold execOsig at e
  cases e
  (repeat' split) <;> simp [h]

theorem execOrel_memWf {s : State} (h : Memory.wf s.mem = true) (a : BitVec 5) {post : State}
    (e : execOrel a s = .next post) : Memory.wf post.mem = true := by
  unfold execOrel at e
  cases e
  (repeat' split) <;> simp [h]

theorem execOfail_memWf {s : State} (h : Memory.wf s.mem = true) (a : BitVec 5) (b : BitVec 5) {post : State}
    (e : execOfail a b s = .next post) : Memory.wf post.mem = true := by
  unfold execOfail at e
  cases e
  (repeat' split) <;> simp [h]

theorem execOsend_memWf {s : State} (h : Memory.wf s.mem = true) (d : BitVec 5) (a : BitVec 5) (b : BitVec 5)
    (c : BitVec 5) {post : State} (e : execOsend d a b c s = .next post) : Memory.wf post.mem = true := by
  unfold execOsend at e
  cases e
  (repeat' split) <;> simp [h]

theorem execOtrn_memWf {s : State} (h : Memory.wf s.mem = true) (a b kind : BitVec 5) {post : State}
    (e : execOtrn a b kind s = .next post) : Memory.wf post.mem = true := by
  simp only [execOtrn, Host.Outcome.next.injEq] at e
  subst e
  (repeat' split) <;> simp [h, removeObl_getD_memWf h]

theorem execOseize_memWf {s : State} (h : Memory.wf s.mem = true) (d a : BitVec 5) {post : State}
    (e : execOseize d a s = .next post) : Memory.wf post.mem = true := by
  simp only [execOseize, Host.Outcome.next.injEq] at e
  subst e
  split
  · simp [h]
  · split
    · split
      · simp [h]
      · next j _ _ =>
        split
        · next s1 _ e2 =>
          have w : Memory.wf s1.mem = true :=
            (congrArg (fun x : Install × Word => x.1.after fun t => Memory.wf t.mem = true) e2).mp
              (installAll_memWf _ _ (dropObls_memWf h _))
          simp [w]
        · simp [h]
        · simp [h]
    · split <;> simp [h]

theorem execRsplit_memWf {s : State} (h : Memory.wf s.mem = true) (a : BitVec 5) (b : BitVec 5) {post : State}
    (e : execRsplit a b s = .next post) : Memory.wf post.mem = true := by
  unfold execRsplit at e
  cases e
  (repeat' split) <;> simp [h]

@[simp] theorem answerFault_memWf {s : State} (h : Memory.wf s.mem = true) (i : Fin 11) (a : Asked) (c : Cause)
    (tval : Word) (giveBack : Bool) : Memory.wf (answerFault s i a c tval giveBack).mem = true := by
  unfold answerFault
  (repeat' split) <;> simp [h]

@[simp] theorem answerFinish_memWf {s : State} (h : Memory.wf s.mem = true) (i : Fin 11) (a : Asked) (r : Word)
    (msg : Option (Word × Word)) : Memory.wf (answerFinish s i a r msg).mem = true := by
  simp [answerFinish, h]

@[simp] theorem payAsked_memWf {s : State} (h : Memory.wf s.mem = true) (i : Fin 11) (a : Asked) (r : Word) :
    Memory.wf (payAsked s i a r).mem = true := by
  simp only [payAsked]
  (repeat' split) <;> simp [h]

@[simp] theorem answerDone_memWf {s : State} (h : Memory.wf s.mem = true) (i : Fin 11) (a : Asked) (r : Word)
    (msg : Option (Word × Word)) (acq : Option (Word × OblKind)) :
    Memory.wf (answerDone s i a r msg acq).mem = true := by
  have h1 : Memory.wf (payAsked s i a r).mem = true := payAsked_memWf h _ _ _
  simp only [answerDone]
  generalize payAsked s i a r = s1 at h1 ⊢
  have hi := fun o k => install_memWf h1 i o k
  split
  · exact answerFinish_memWf (installAcq_memWf (by simpa using h1) _ _) _ _ _ _
  · split
    · exact answerFinish_memWf h1 _ _ _ _
    · split
      · next t e =>
        have w : Memory.wf t.mem = true := (congrArg (Install.after fun t => Memory.wf t.mem = true) e).mp (hi _ _)
        exact answerFinish_memWf w _ _ _ _
      · exact machineCheck_memWf h1 _ _ _
      · simp [h1]

@[simp] theorem answerSeized_memWf {s : State} (h : Memory.wf s.mem = true) (i : Fin 11) (a : Asked)
    (os : List (Word × OblKind × Nat)) : Memory.wf (answerSeized s i a os).mem = true := by
  have hi := installAll_memWf i os h
  unfold answerSeized
  split
  · next t _ e =>
    have w : Memory.wf t.mem = true :=
      (congrArg (fun x : Install × Word => x.1.after fun t => Memory.wf t.mem = true) e).mp hi
    exact answerFinish_memWf w _ _ _ _
  · exact machineCheck_memWf h _ _ _
  · exact trapIn_memWf (by simpa using h) _ _ _

@[simp] theorem answerQueued_memWf {s : State} (h : Memory.wf s.mem = true) (i : Fin 11) (a : Asked) :
    Memory.wf (answerQueued s i a).mem = true := by
  unfold answerQueued
  grind [State.setAt_mem, popDue_mem, rankAbort_memWf, Memory.putBytes_wf]

theorem execHomeAnswer_memWf {s : State} (h : Memory.wf s.mem = true) {post : State}
    (e : execHomeAnswer s = .next post) : Memory.wf post.mem = true := by
  unfold execHomeAnswer at e
  cases e
  (repeat' split) <;> simp [h]

theorem deliverSpilled_memWf {s : State} (h : Memory.wf s.mem = true) (x : Spilled) {post : State}
    (e : deliverSpilled s x = some post) : Memory.wf post.mem = true := by
  unfold deliverSpilled at e
  (repeat' split at e) <;> cases e <;> simp_all

@[simp] theorem redeliver_memWf {s : State} (h : Memory.wf s.mem = true) (x : Nat) :
    Memory.wf (redeliver x s).mem = true := by
  fun_induction redeliver <;> grind [State.modCore_mem, dropSpill_memWf, → deliverSpilled_memWf, Memory.putBytes_wf]

theorem execSpillRedelivery_memWf {s : State} (h : Memory.wf s.mem = true) {post : State}
    (e : execSpillRedelivery s = .next post) : Memory.wf post.mem = true := by
  unfold execSpillRedelivery at e
  cases e
  (repeat' split) <;> simp [h]

@[simp] theorem heldBySpill_mem (s : State) (i : Fin 11) : (heldBySpill s i).mem = s.mem := by
  simp only [heldBySpill]
  (repeat' split) <;> simp

theorem execWake_memWf {s : State} (h : Memory.wf s.mem = true) {post : State} (e : execWake s = .next post) :
    Memory.wf post.mem = true := by
  unfold execWake at e
  cases e
  (repeat' split) <;> simp [h]

@[simp] theorem seizedFrom_memWf {s : State} (h : Memory.wf s.mem = true) (who : BitVec 36) (target : BitVec 36)
    (j : Fin 11) : Memory.wf (seizedFrom s who target j).mem = true := by
  simp only [seizedFrom]
  (repeat' split) <;> simp [h]

theorem execObligationTransfer_memWf {s : State} (h : Memory.wf s.mem = true) {post : State}
    (e : execObligationTransfer s = .next post) : Memory.wf post.mem = true := by
  unfold execObligationTransfer at e
  cases e
  (repeat' split) <;> simp [h]

theorem makeRoom_memWf {s : State} (h : Memory.wf s.mem = true) {post : State} (e : makeRoom s = some post) :
    Memory.wf post.mem = true := by
  have hs (v : Obl) (j : Fin 11) :=
    toOwed_memWf (s := s.modCore fun c => { c with reeve := c.reeve.filter fun p => p != v }) (by simpa using h) j v
  simp only [makeRoom] at e
  split at e
  · cases e; exact h
  · split at e
    · next t e2 =>
      cases e
      obtain ⟨v, -, e2⟩ := Option.bind_eq_some_iff.mp e2
      obtain ⟨j, -, e2⟩ := Option.map_eq_some_iff.mp e2
      simpa [Install.after, e2] using hs v j
    · split at e
      · next t e2 =>
        cases e
        obtain ⟨p, -, e2⟩ := Option.map_eq_some_iff.mp e2
        simpa [Install.after, e2] using hs p.2 p.1
      · cases e
    · cases e

@[simp] theorem refill_memWf {s : State} (h : Memory.wf s.mem = true) (i : Fin 11) :
    Memory.wf (refill s i).mem = true := by
  have hm : Memory.wf (machineCheck s 0 s.core.sys.owedb true).mem = true := machineCheck_memWf h _ _ _
  unfold refill
  split
  · exact hm
  · next s1 e1 =>
    have h1 : Memory.wf s1.mem = true := (owedLoad_mem i e1) ▸ h
    split
    · exact h1
    · split
      · exact hm
      · next t e =>
        have ht : Memory.wf t.mem = true := makeRoom_memWf (by simpa using h1) e
        split
        · next u e2 => exact owedWrite_memWf (by simpa using ht) _ e2
        · exact hm

theorem execRefill_memWf {s : State} (h : Memory.wf s.mem = true) {post : State}
    (e : execRefill s = .next post) : Memory.wf post.mem = true := by
  unfold execRefill at e
  cases e
  (repeat' split) <;> simp [h]

end Sys2Proof.Machine
end

