-- ==== Sys2Proof/Laws/KeepSignals.lean ====
section
/-!
SUPPORT. Every operation of Machine/Signals.lean keeps the canonical form of memory.
-/

namespace Sys2Proof.Machine

@[simp] theorem answer_mem (s : State) (who : Agent) (a : HomeAns) : (answer s who a).mem = s.mem := by
  unfold answer
  (repeat' split) <;> simp

@[simp] theorem wakeTo_mem (s : State) (who : Agent) (r : Word) (msg : Option (Word × Word))
    (acq : Option (Word × OblKind)) : (wakeTo s who r msg acq).mem = s.mem := by
  unfold wakeTo
  (repeat' split) <;> simp

@[simp] theorem setQueue_mem (s : State) (q : StageQueue) : (setQueue s q).mem = s.mem := by simp [setQueue]

@[simp] theorem wakeStages_mem (s : State) (id : Nat) : (wakeStages s id).mem = s.mem := by simp [wakeStages]

@[simp] theorem hostOwes_mem (s : State) (who : Agent) (h : Word) (k : OblKind) :
    (hostOwes s who h k).mem = s.mem := by
  unfold hostOwes
  (repeat' split) <;> simp

@[simp] theorem oweOn_mem (s : State) (h : Word) : (oweOn s h).mem = s.mem := by
  unfold oweOn
  (repeat' split) <;> simp

@[simp] theorem claimReply_mem (s : State) (h : Word) : (claimReply s h).mem = s.mem := by
  unfold claimReply
  (repeat' split) <;> simp

@[simp] theorem takeEntry_mem (s : State) (o : Obj) (id : Nat) (space : Bool) (who : Agent) :
    (takeEntry s o id space who).1.mem = s.mem := by
  unfold takeEntry
  (repeat' split) <;> simp

@[simp] theorem takeMail_mem (s : State) (o : Obj) (who : Agent) : (takeMail s o who).1.mem = s.mem := by
  unfold takeMail
  (repeat' split) <;> simp

@[simp] theorem satisfy_mem (s : State) (o : Obj) (who : Agent) : (satisfy s o who).1.mem = s.mem := by
  unfold satisfy
  (repeat' split) <;> simp

@[simp] theorem wakeAll_mem (s : State) (r : Word) (msg : Option (Word × Word)) (acq : Option (Word × OblKind))
    (x : List Waiter) : (wakeAll r msg acq x s).mem = s.mem := by
  fun_induction wakeAll <;> grind [wakeTo_mem, hostOwes_mem]

@[simp] theorem examine_mem (s : State) (h : Word) (x : Nat) : (examine h x s).mem = s.mem := by
  fun_induction examine <;> grind [setObj_mem, wakeTo_mem, satisfy_mem, wakeAll_mem]

@[simp] theorem reexamine_mem (s : State) (h : Word) (ended : optParam Word (waitResult 4 1 0)) :
    (reexamine s h ended).mem = s.mem := by
  unfold reexamine
  grind [setObj_mem, wakeAll_mem, examine_mem]

@[simp] theorem queueWaiter_mem (s : State) (o : Obj) (who : Agent) (op : WaitOp) :
    (queueWaiter s o who op).mem = s.mem := by
  simp [queueWaiter]

@[simp] theorem endRound_mem (s : State) (o : Obj) (who : Agent) : (endRound s o who).mem = s.mem := by
  unfold endRound
  (repeat' split) <;> simp

@[simp] theorem waitBarrier_mem (s : State) (o : Obj) (who : Agent) : (waitBarrier s o who).mem = s.mem := by
  unfold waitBarrier
  grind [setObj_mem, answer_mem, wakeAll_mem, queueWaiter_mem, endRound_mem]

@[simp] theorem waitAt_mem (s : State) (h : Word) (op : WaitOp) (who : Agent) :
    (waitAt s h op who).mem = s.mem := by
  unfold waitAt
  grind [answer_mem, satisfy_mem, queueWaiter_mem, endRound_mem, waitBarrier_mem]

theorem execWaitRequest_mem {s : State} {post : State} (e : execWaitRequest s = .next post) :
    post.mem = s.mem := by
  unfold execWaitRequest at e
  cases e
  (repeat' split) <;> simp

@[simp] theorem dischargeRing_mem (s : State) (o : Obj) (id : Nat) (space : Bool) (how : DisHow) (who : Agent) :
    (dischargeRing s o id space how who).mem = s.mem := by
  unfold dischargeRing
  (repeat' split) <;> simp

@[simp] theorem complDone_mem (s : State) (h : Word) : (complDone s h).mem = s.mem := by
  unfold complDone
  (repeat' split) <;> simp

@[simp] theorem dischargeAt_mem (s : State) (h : Word) (k : OblKind) (how : DisHow) (who : Agent) :
    (dischargeAt s h k how who).mem = s.mem := by
  unfold dischargeAt
  (repeat' split) <;> simp

theorem hostPays_mem {s : State} (dev : BitVec 12) (h : Word) (k : OblKind) {post : State}
    (e : hostPays s dev h k = some post) : post.mem = s.mem := by
  unfold hostPays at e
  (repeat' split at e) <;> cases e <;> simp_all

theorem execDischarge_mem {s : State} {post : State} (e : execDischarge s = .next post) : post.mem = s.mem := by
  unfold execDischarge at e
  grind [out_mem, answer_mem, dischargeAt_mem, → hostPays_mem]

@[simp] theorem setGen_mem (s : State) (dev : BitVec 12) (index : BitVec 24) (gen : BitVec 8) :
    (setGen s dev index gen).mem = s.mem := by
  simp [setGen]

theorem newObject_mem {s : State} {rank : Nat} {kind : BitVec 4} {state : BitVec 8} {param : BitVec 24}
    {scope : Word}
    {queue : Option (Nat × Bool)} {post : State} {o : Obj}
    (e : newObject s rank kind state param scope queue = some (post, o)) : post.mem = s.mem := by
  have hp : (if kind = 6 then takeFree s else ((0 : Word), s)).2.mem = s.mem := by split <;> simp
  unfold newObject at e
  generalize (if kind = 6 then takeFree s else ((0 : Word), s)) = p at e hp
  split at e
  · cases e
  · simp only at e
    split at e
    · cases e
    · simp only [Option.some.injEq, Prod.mk.injEq] at e
      rw [← e.1]
      simpa using hp

@[simp] theorem onewAt_mem (s : State) (scope g : Word) (kind : BitVec 5) (who : Agent) :
    (onewAt s scope g kind who).mem = s.mem := by
  simp only [onewAt]
  split
  · simp
  · next e => rw [answer_mem, newObject_mem e]

@[simp] theorem dropObject_mem (s : State) (o : Obj) : (dropObject s o).mem = s.mem := by simp [dropObject]

@[simp] theorem pollAt_mem (s : State) (o : Obj) (who : Agent) : (pollAt s o who).mem = s.mem := by
  unfold pollAt
  grind [answer_mem, satisfy_mem]

@[simp] theorem sendReply_mem (s : State) (h : Word) (msg : Word) (reply : Word) (who : Agent) :
    (sendReply s h msg reply who).mem = s.mem := by
  unfold sendReply
  (repeat' split) <;> simp

@[simp] theorem withdrawAt_mem (s : State) (o : Obj) : (withdrawAt s o).mem = s.mem := by simp [withdrawAt]

@[simp] theorem recordOp_mem (s : State) (o : Obj) (h : Word) (op : HomeOp) (who : Agent) :
    (recordOp s o h op who).mem = s.mem := by
  simp only [recordOp]
  (repeat' split) <;> simp

@[simp] theorem homeOperationAt_mem (s : State) (op : HomeOp) (who : Agent) :
    (homeOperationAt s op who).mem = s.mem := by
  simp only [homeOperationAt]
  cases homeTarget op with
  | none => cases op <;> simp
  | some h =>
    simp only
    cases homeHere s h
    · simp
    · simp only [Bool.not_true, Bool.false_eq_true, if_false]
      cases objOf s h <;> cases op <;> simp

theorem execHomeOperation_mem {s : State} {post : State} (e : execHomeOperation s = .next post) :
    post.mem = s.mem := by
  simp only [execHomeOperation] at e
  cases e
  (repeat' split) <;> simp

theorem execCancel_mem {s : State} {post : State} (e : execCancel s = .next post) : post.mem = s.mem := by
  unfold execCancel at e
  grind [out_mem, removeWaiter_mem, wakeTo_mem]

theorem execHostRegistration_mem {s : State} {post : State} (e : execHostRegistration s = .next post) :
    post.mem = s.mem := by
  unfold execHostRegistration at e
  cases e
  (repeat' split) <;> simp

@[simp] theorem hostGone_mem (s : State) (dev : BitVec 12) (x : List HostObl) :
    (hostGone dev x s).mem = s.mem := by
  fun_induction hostGone <;> grind []

theorem execHostLost_mem {s : State} {post : State} (e : execHostLost s = .next post) : post.mem = s.mem := by
  unfold execHostLost at e
  cases e
  (repeat' split) <;> simp

end Sys2Proof.Machine
end

