-- ==== Sys2Proof/Laws/KeepLaunch.lean ====
section
/-!
SUPPORT. Every operation of Machine/Launch.lean keeps the canonical form of memory.
-/

namespace Sys2Proof.Machine

@[simp] theorem launchAnswer_mem (s : State) (src : Agent) (token : BitVec 5) (w : Word)
    (job : Option Nat) : (launchAnswer s src token w job).mem = s.mem := by
  unfold launchAnswer
  (repeat' split) <;> simp

@[simp] theorem complStep_mem (s : State) (compl : Word) (n : Nat) : (complStep s compl n).mem = s.mem := by
  simp only [complStep]
  (repeat' split) <;> simp

@[simp] theorem complAway_mem (s : State) (compl : Word) (dev : BitVec 12) (die : BitVec 3) :
    (complAway s compl dev die).mem = s.mem := by
  simp only [complAway]
  (repeat' split) <;> simp

@[simp] theorem enterLaunch_mem (s : State) (hdr : BitVec 512) (xroot : Word) (slots : Nat) (entry : Word) :
    (enterLaunch s hdr xroot slots entry).mem = s.mem := by
  simp [enterLaunch]

@[simp] theorem acceptLaunch_mem (s : State) (hdr : BitVec 512) (xroot : Word) (slots : Nat) (entry : Word) :
    (acceptLaunch s hdr xroot slots entry).mem = s.mem := by
  simp [acceptLaunch]

@[simp] theorem launchHere_mem (s : State) (hdr : BitVec 512) (src : Agent) (token : BitVec 5) (lo : BitVec 21)
    (hi : BitVec 21) (job : Option Nat) : (launchHere s hdr src token lo hi job).mem = s.mem := by
  simp only [launchHere]
  (repeat' split) <;> simp

@[simp] theorem launchAway_mem (s : State) (hdr : BitVec 512) (src : Agent) (token : BitVec 5) (lo : BitVec 21)
    (hi : BitVec 21) (job : Option Nat) : (launchAway s hdr src token lo hi job).mem = s.mem := by
  simp only [launchAway]
  (repeat' split) <;> simp

@[simp] theorem launchAnswered_mem (s : State) (id : Nat) (code : Nat) :
    (launchAnswered s id code).mem = s.mem := by
  simp only [launchAnswered]
  (repeat' split) <;> simp

theorem execLaunchMessage_mem {s : State} {post : State} (e : execLaunchMessage s = .next post) :
    post.mem = s.mem := by
  unfold execLaunchMessage at e
  cases e
  (repeat' split) <;> simp

@[simp] theorem setSent_mem (s : State) (cluster : Nat) (core : Nat) (n : Nat) :
    (setSent s cluster core n).mem = s.mem := by
  simp [setSent]

theorem execPlacementDecision_mem {s : State} {post : State} (e : execPlacementDecision s = .next post) :
    post.mem = s.mem := by
  simp only [execPlacementDecision] at e
  cases e
  (repeat' split) <;> simp

theorem execLaunchAging_mem {s : State} {post : State} (e : execLaunchAging s = .next post) :
    post.mem = s.mem := by
  unfold execLaunchAging at e
  cases e
  (repeat' split) <;> simp

theorem execItemDelivery_memWf {s : State} (h : Memory.wf s.mem = true) {post : State}
    (e : execItemDelivery s = .next post) : Memory.wf post.mem = true := by
  unfold execItemDelivery at e
  cases e
  (repeat' split) <;> simp [h]

theorem execClustldUpdate_mem {s : State} {post : State} (e : execClustldUpdate s = .next post) :
    post.mem = s.mem := by
  simp only [execClustldUpdate] at e
  cases e
  (repeat' split) <;> simp

theorem execContinuationMessage_memWf {s : State} (h : Memory.wf s.mem = true) {post : State}
    (e : execContinuationMessage s = .next post) : Memory.wf post.mem = true := by
  unfold execContinuationMessage at e
  cases e
  (repeat' split) <;> simp [h]

end Sys2Proof.Machine
end

