-- ==== Sys2Proof/Laws/KeepLoader.lean ====
section
/-!
SUPPORT. Every operation of Machine/Loader.lean keeps the canonical form of memory.
-/

namespace Sys2Proof.Machine

@[simp] theorem placeParts_memWf {s : State} (h : Memory.wf s.mem = true) (place : Nat)
    (x : List (Part × Nat)) : Memory.wf (placeParts place x s).mem = true := by
  fun_induction placeParts <;> grind [writeBytes_memWf, Memory.putBytes_wf]

@[simp] theorem placeTables_memWf {s : State} (h : Memory.wf s.mem = true) (at' : Nat) (entries : List Nat)
    (x : Nat) : Memory.wf (placeTables at' entries x s).mem = true := by
  fun_induction placeTables <;> simp_all

@[simp] theorem keepObject_memWf {s : State} (h : Memory.wf s.mem = true) (ps : List Part) (id : W32)
    (xroot : Word) (base : Word) (place : Nat) :
        Memory.wf (keepObject s ps id xroot base place).mem = true := by
  simp [keepObject, h]

theorem execCodeObjectLoad_memWf {s : State} (h : Memory.wf s.mem = true) {post : State}
    (e : execCodeObjectLoad s = .next post) : Memory.wf post.mem = true := by
  unfold execCodeObjectLoad at e
  cases e
  (repeat' split) <;> simp [h]

theorem execCodeObjectUnload_mem {s : State} {post : State} (e : execCodeObjectUnload s = .next post) :
    post.mem = s.mem := by
  unfold execCodeObjectUnload at e
  cases e
  (repeat' split) <;> simp

end Sys2Proof.Machine
end

