-- ==== Sys2Proof/Laws/KeepCopy.lean ====
section
/-!
SUPPORT. Every operation of Machine/Copy.lean keeps the canonical form of memory.
-/

namespace Sys2Proof.Machine

@[simp] theorem engPlace_mem (s : State) (xroot : Word) (level : Level) (ea : Word) (writes : Bool) :
    (engPlace s xroot level ea writes).1.mem = s.mem := by
  simp only [engPlace]
  generalize (if writes = true then AccType.engineWrite else AccType.engineRead) = acc
  have ht := translate_mem s xroot level ea acc
  (repeat' split) <;> simp_all

/-- A property of the state that an engine access leaves. -/
def EngOut.after {α : Type} (p : State → Prop) : EngOut α → Prop
  | .ok s _ => p s
  | .fault s _ _ => p s
  | .held s => p s

/-- The state of an access that is done. -/
theorem EngOut.of_ok {α : Type} {p : State → Prop} {x : EngOut α} (h : x.after p) {s : State} {a : α}
    (e : x = .ok s a) : p s := by subst e; exact h

/-- The state of an access that faults. -/
theorem EngOut.of_fault {α : Type} {p : State → Prop} {x : EngOut α} (h : x.after p) {s : State} {c : Cause}
    {ea : Word}
    (e : x = .fault s c ea) : p s := by subst e; exact h

/-- The state of an access that is held. -/
theorem EngOut.of_held {α : Type} {p : State → Prop} {x : EngOut α} (h : x.after p) {s : State}
    (e : x = .held s) : p s := by subst e; exact h

/-- Finding places writes nothing. -/
theorem engPlaces_mem (xroot : Word) (level : Level) (writes : Bool) (l : List (Option Word)) (s : State) :
    (engPlaces xroot level writes l s).after fun t => t.mem = s.mem := by
  induction l generalizing s with
  | nil => rfl
  | cons o l ih =>
    cases o with
    | none =>
      have hn := ih s
      simp only [engPlaces]
      cases e : engPlaces xroot level writes l s <;> rw [e] at hn <;> exact hn
    | some ea =>
      have hp := engPlace_mem s xroot level ea writes
      simp only [engPlaces]
      generalize engPlace s xroot level ea writes = r0 at hp ⊢
      obtain ⟨s1, r⟩ := r0
      have hn := ih s1
      cases r with
      | fault c => exact hp
      | held => exact hp
      | ok pa lay =>
        dsimp only
        split
        · exact (logEcc_mem s1 pa lay).trans hp
        · cases e : engPlaces xroot level writes l s1 <;> rw [e] at hn <;> exact Eq.trans hn hp

@[simp] theorem putAt_memWf (l : List (Option Nat)) (bs : List Byte) {s : State} (h : Memory.wf s.mem = true) :
    Memory.wf (putAt l bs s).mem = true := by
  induction l generalizing s bs with
  | nil => cases bs <;> exact h
  | cons o l ih =>
    cases bs with
    | nil => cases o <;> exact h
    | cons b bs =>
      cases o with
      | none => exact ih bs h
      | some pa => exact ih bs (Memory.put_wf h pa b)

/-- An engine's read writes nothing. -/
theorem engRead_mem (s : State) (xroot : Word) (level : Level) (ea : Word) (n : Nat) :
    (engRead s xroot level ea n).after fun t => t.mem = s.mem := by
  have hp := engPlaces_mem xroot level false (addrs ea n) s
  simp only [engRead]
  cases e : engPlaces xroot level false (addrs ea n) s <;> rw [e] at hp <;> exact hp

/-- A descriptor read at issue writes nothing. -/
theorem engReadNow_mem (s : State) (ea : Word) (n : Nat) :
    (engReadNow s ea n).after fun t => t.mem = s.mem := by
  have hp := engRead_mem s s.ctx.user.xroot s.ctx.level ea n
  simp only [engReadNow]
  split
  · rfl
  · cases e : engRead s s.ctx.user.xroot s.ctx.level ea n <;> rw [e] at hp <;> exact hp

@[simp] theorem failToken_mem (s : State) (d : BitVec 5) (status : Nat) (detail : Nat) :
    (failToken s d status detail).mem = s.mem := by
  simp [failToken]

@[simp] theorem failCause_mem (s : State) (d : BitVec 5) (c : Cause) : (failCause s d c).mem = s.mem := by
  simp [failCause]

@[simp] theorem giveToken_memWf {s : State} (h : Memory.wf s.mem = true) (who : BitVec 36) (token : BitVec 5)
    (flags : BitVec 5) (w : Word) (job : Option Nat) :
    Memory.wf (giveToken s who token flags w job).mem = true := by
  simp [giveToken, h]

@[simp] theorem waitsForPlace_mem (s : State) (who : BitVec 36) (rid : Option Nat) :
    (waitsForPlace s who rid).mem = s.mem := by
  simp only [waitsForPlace]
  (repeat' split) <;> simp

@[simp] theorem notWaiting_mem (s : State) (who : BitVec 36) (rid : Option Nat) :
    (notWaiting s who rid).mem = s.mem := by
  simp [notWaiting]

@[simp] theorem queueJob_mem (s : State) (d : BitVec 5) (op : JobOp) (locks : List (Word × Word × Bool))
    (start : Msg) : (queueJob s d op locks start).mem = s.mem := by
  simp [queueJob]

@[simp] theorem endJob_memWf {s : State} (h : Memory.wf s.mem = true) (j : Job) (flags : BitVec 5)
    (status : Nat) (detail : Nat) (count : Nat) :
        Memory.wf (endJob s j flags status detail count).mem = true := by
  simp [endJob, h]

@[simp] theorem issueCopy_mem (s : State) (d : BitVec 5) (g : Geo) (start : Nat) :
    (issueCopy d g start s).mem = s.mem := by
  unfold issueCopy
  grind [State.setAt_mem, stall_mem, failToken_mem, queueJob_mem]

theorem withBytes_memWf {s : State} (h : Memory.wf s.mem = true) (d : BitVec 5) (ea : Word) (n : Nat)
    (k : Nat → State → State) (hk : ∀ x t, Memory.wf t.mem = true → Memory.wf (k x t).mem = true) :
    Memory.wf (withBytes d ea n s k).mem = true := by
  have hr := engReadNow_mem s ea n
  simp only [withBytes]
  split
  · next e => exact hk _ _ ((EngOut.of_ok hr e) ▸ h)
  · next e => rw [failCause_mem]; exact (EngOut.of_fault hr e) ▸ h
  · next e => rw [stall_mem]; exact (EngOut.of_held hr e) ▸ h

theorem withDesc_memWf {s : State} (h : Memory.wf s.mem = true) (d : BitVec 5) (ea : Word) (n : Nat)
    (k : Nat → State → State) (hk : ∀ x t, Memory.wf t.mem = true → Memory.wf (k x t).mem = true) :
    Memory.wf (withDesc d ea n s k).mem = true := by
  simp only [withDesc]
  split
  · simp [h]
  · exact withBytes_memWf h d ea n k hk

@[simp] theorem copyOf_memWf {s : State} (h : Memory.wf s.mem = true) (fn : BitVec 3) (d : BitVec 5)
    (dst src ctl : Word)
    (start : Nat) : Memory.wf (copyOf fn d dst src ctl start s).mem = true := by
  simp only [copyOf]
  split
  · exact withDesc_memWf h _ _ _ _ fun x t ht => by simpa using ht
  · simp [h]

@[simp] theorem copyIns_memWf {s : State} (h : Memory.wf s.mem = true) (fn : BitVec 3) (d : BitVec 5)
    (a : BitVec 5) (b : BitVec 5) (c : BitVec 5) : Memory.wf (copyIns fn d a b c s).mem = true := by
  unfold copyIns
  (repeat' split) <;> simp [h]

theorem execCpy_memWf {s : State} (h : Memory.wf s.mem = true) (d : BitVec 5) (a : BitVec 5) (b : BitVec 5)
    (c : BitVec 5) {post : State} (e : execCpy d a b c s = .next post) : Memory.wf post.mem = true := by
  cases e
  simp [h]

theorem execCpy2_memWf {s : State} (h : Memory.wf s.mem = true) (d : BitVec 5) (a : BitVec 5) (b : BitVec 5)
    (c : BitVec 5) {post : State} (e : execCpy2 d a b c s = .next post) : Memory.wf post.mem = true := by
  cases e
  simp [h]

theorem execCpy3_memWf {s : State} (h : Memory.wf s.mem = true) (d : BitVec 5) (a : BitVec 5) (b : BitVec 5)
    (c : BitVec 5) {post : State} (e : execCpy3 d a b c s = .next post) : Memory.wf post.mem = true := by
  cases e
  simp [h]

theorem execCpyi_memWf {s : State} (h : Memory.wf s.mem = true) (d : BitVec 5) (a : BitVec 5) (b : BitVec 5)
    (c : BitVec 5) {post : State} (e : execCpyi d a b c s = .next post) : Memory.wf post.mem = true := by
  cases e
  simp [h]

theorem execCpyr_memWf {s : State} (h : Memory.wf s.mem = true) (d : BitVec 5) (a : BitVec 5) (b : BitVec 5)
    (c : BitVec 5) {post : State} (e : execCpyr d a b c s = .next post) : Memory.wf post.mem = true := by
  cases e
  simp [h]

theorem execCpyrs_memWf {s : State} (h : Memory.wf s.mem = true) (d : BitVec 5) (a : BitVec 5) (b : BitVec 5)
    (c : BitVec 5) {post : State} (e : execCpyrs d a b c s = .next post) : Memory.wf post.mem = true := by
  simp only [execCpyrs] at e
  grind [stall_mem, failToken_mem, withDesc_memWf, copyOf_memWf, Memory.putBytes_wf]

@[simp] theorem startJob_mem (s : State) (id : Nat) : (startJob s id).mem = s.mem := by simp [startJob]

@[simp] theorem startCopies_mem (s : State) (x : List Job) : (startCopies x s).mem = s.mem := by
  fun_induction startCopies <;> simp_all

theorem execCopyStart_mem {s : State} {post : State} (e : execCopyStart s = .next post) : post.mem = s.mem := by
  unfold execCopyStart at e
  grind [send_mem, startCopies_mem]

@[simp] theorem copyLaunch_memWf {s : State} (h : Memory.wf s.mem = true) (j : Job) (g : Geo) :
    Memory.wf (copyLaunch s j g).mem = true := by
  have hr := engRead_mem s j.xroot j.level g.src 64
  simp only [copyLaunch]
  split
  · next e => rw [send_mem]; exact (EngOut.of_held hr e) ▸ h
  · next e => exact endJob_memWf ((EngOut.of_fault hr e) ▸ h) _ _ _ _ _
  · next s1 bs e =>
    have h1 : Memory.wf s1.mem = true := (EngOut.of_ok hr e) ▸ h
    split <;> simp [h1]

@[simp] theorem keepCopy_mem (s : State) (j : Job) (st : FEnv) (k : Nat) : (keepCopy s j st k).mem = s.mem := by
  simp [keepCopy]

/-- A block of a copy keeps memory canonical. -/
theorem copyBlock_memWf (j : Job) (g : Geo) (b : Nat) {s : State} (h : Memory.wf s.mem = true) (st : FEnv) :
    (copyBlock j g b s st).after fun t => Memory.wf t.mem = true := by
  simp only [copyBlock]
  generalize (List.range (min 64 (g.total - 64 * b))).map (fun i => g.move (64 * b + i)) = moves
  have h1 := engPlaces_mem j.xroot j.level false (moves.map (·.1)) s
  split
  · next e => exact (congrArg Memory.wf (EngOut.of_fault h1 e)).trans h
  · next e => exact (congrArg Memory.wf (EngOut.of_held h1 e)).trans h
  · next s1 sp e =>
    have w1 : Memory.wf s1.mem = true := (EngOut.of_ok h1 e) ▸ h
    have h2 := engPlaces_mem j.xroot j.level true (moves.map (·.2)) s1
    split
    · next e2 => exact (congrArg Memory.wf (EngOut.of_fault h2 e2)).trans w1
    · next e2 => exact (congrArg Memory.wf (EngOut.of_held h2 e2)).trans w1
    · next s2 dp e2 =>
      have w2 : Memory.wf s2.mem = true := (EngOut.of_ok h2 e2) ▸ w1
      have h3 : (if g.fn.toNat = 4 then engPlaces j.xroot j.level false (moves.map (·.2)) s2
          else EngOut.ok s2 dp).after fun t => t.mem = s2.mem := by
        split
        · exact engPlaces_mem _ _ _ _ _
        · rfl
      split
      · next e3 => exact (congrArg Memory.wf (EngOut.of_fault h3 e3)).trans w2
      · next e3 => exact (congrArg Memory.wf (EngOut.of_held h3 e3)).trans w2
      · next s3 dp3 e3 =>
        have w3 : Memory.wf s3.mem = true := (EngOut.of_ok h3 e3) ▸ w2
        split
        · exact (congrArg Memory.wf (engineLost_mem s3 copyPort _)).trans w3
        · have w4 : Memory.wf (engineServed s3 copyPort (byteKeys dp3)).mem = true := by simpa using w3
          split <;> exact putAt_memWf _ _ w4

/-- A property of the state that a copy leaves. -/
def CopyOut.after (p : State → Prop) : CopyOut → Prop
  | .done s _ => p s
  | .fault s _ _ _ => p s
  | .held s _ _ => p s

/-- The blocks of a copy keep memory canonical. -/
theorem copyBlocks_memWf (j : Job) (g : Geo) (n b : Nat) {s : State} (h : Memory.wf s.mem = true) (st : FEnv) :
    (copyBlocks j g n b s st).after fun t => Memory.wf t.mem = true := by
  induction n generalizing b s st with
  | zero => exact h
  | succ n ih =>
    have hb := copyBlock_memWf j g b h st
    simp only [copyBlocks]
    cases e : copyBlock j g b s st with
    | ok s1 st1 => rw [e] at hb; exact ih _ hb _
    | fault s1 c ea => rw [e] at hb; exact hb
    | held s1 => rw [e] at hb; exact hb

@[simp] theorem runBlocks_memWf {s : State} (h : Memory.wf s.mem = true) (j : Job) (g : Geo)
    (start stop status detail count : Nat) (again : Msg) :
    Memory.wf (runBlocks s j g start stop status detail count again).mem = true := by
  have hb := copyBlocks_memWf j g (stop - start) start h { md := j.mode, lfsr := j.seed, flags := j.flags }
  simp only [runBlocks]
  split
  · next e => rw [e] at hb; exact endJob_memWf hb _ _ _ _ _
  · next s1 st k c e =>
    rw [e] at hb
    have hb' : Memory.wf s1.mem = true := hb
    simp [hb']
  · next s1 st k e =>
    rw [e] at hb
    have hb' : Memory.wf s1.mem = true := hb
    simp [hb']

@[simp] theorem runCopy_memWf {s : State} (h : Memory.wf s.mem = true) (j : Job) (g : Geo) (start : Nat) :
    Memory.wf (runCopy s j g start).mem = true := by
  simp only [runCopy]
  (repeat' split) <;> simp [h]

theorem execCopyComplete_memWf {s : State} (h : Memory.wf s.mem = true) {post : State}
    (e : execCopyComplete s = .next post) : Memory.wf post.mem = true := by
  unfold execCopyComplete at e
  cases e
  (repeat' split) <;> simp [h]

theorem execCpyrAckTimeout_memWf {s : State} (h : Memory.wf s.mem = true) {post : State}
    (e : execCpyrAckTimeout s = .next post) : Memory.wf post.mem = true := by
  unfold execCpyrAckTimeout at e
  cases e
  (repeat' split) <;> simp [h]

@[simp] theorem openStream_mem (s : State) (d : BitVec 5) (r : BitVec 5) (cls : BitVec 1) (x : Nat) :
    (openStream d r cls x s).mem = s.mem := by
  unfold openStream
  grind [State.mod_mem, State.modCluster_mem, wg_mem, send_mem, retire_mem, stall_mem, failToken_mem]

theorem execSopen_memWf {s : State} (h : Memory.wf s.mem = true) (d : BitVec 5) (a : BitVec 5) (r : BitVec 5)
    (cls : BitVec 1) {post : State} (e : execSopen d a r cls s = .next post) : Memory.wf post.mem = true := by
  simp only [execSopen] at e
  grind [failToken_mem, withDesc_memWf, openStream_mem, Memory.putBytes_wf]

theorem execSclose_mem {s : State} (d : BitVec 5) (r : BitVec 5) (cls : BitVec 1) {post : State}
    (e : execSclose d r cls s = .next post) : post.mem = s.mem := by
  unfold execSclose at e
  cases e
  (repeat' split) <;> simp

theorem execSstat_mem {s : State} (d : BitVec 5) (r : BitVec 5) (cls : BitVec 1) {post : State}
    (e : execSstat d r cls s = .next post) : post.mem = s.mem := by
  unfold execSstat at e
  cases e
  (repeat' split) <;> simp

@[simp] theorem streamAhead_mem (s : State) (i : Fin 11) (cls : BitVec 1) (reg : BitVec 5) (again : Msg) :
    (streamAhead s i cls reg again).mem = s.mem := by
  have hr := fun l ea n => engRead_mem s (s.at i).user.xroot l ea n
  simp only [streamAhead]
  split
  · rfl
  · split
    · rfl
    · split
      · next e => rw [send_mem]; exact EngOut.of_held (hr _ _ _) e
      · next e => rw [State.setAt_mem]; exact EngOut.of_fault (hr _ _ _) e
      · next e => rw [send_mem, State.setAt_mem]; exact EngOut.of_ok (hr _ _ _) e

theorem execStreamRefill_mem {s : State} {post : State} (e : execStreamRefill s = .next post) :
    post.mem = s.mem := by
  simp only [execStreamRefill] at e
  cases e
  (repeat' split) <;> simp

end Sys2Proof.Machine
end

