-- ==== Sys2Proof/Laws/KeepVector.lean ====
section
/-!
SUPPORT. Every operation of Machine/Vector.lean keeps the canonical form of memory.
-/

namespace Sys2Proof.Machine

@[simp] theorem commitEnv_mem (s : State) (st : FEnv) : (commitEnv s st).mem = s.mem := by simp [commitEnv]

@[simp] theorem writeV_mem (s : State) (d : BitVec 5) (x : Nat) (st : FEnv) :
    (writeV s d x st).mem = s.mem := by
  simp [writeV]

@[simp] theorem vlanes_mem (s : State) (w : Nat) (f : LaneOp) (d : BitVec 5) (a : BitVec 5) (b : BitVec 5)
    (m : BitVec 3) : (vlanes w f d a b m s).mem = s.mem := by
  simp [vlanes]

@[simp] theorem vcompare_mem (s : State) (w : Nat) (f : FEnv → Nat → Nat → Bool × FEnv) (d : BitVec 5)
    (a : BitVec 5) (b : BitVec 5) (m : BitVec 3) : (vcompare w f d a b m s).mem = s.mem := by
  simp [vcompare]

theorem viOp_mem {s : State} (op : IntOp) (d : BitVec 5) (a : BitVec 5) (b : BitVec 5) (m : BitVec 3)
    (t : BitVec 3) {post : State} (e : viOp op d a b m t s = .next post) : post.mem = s.mem := by
  cases e
  simp

theorem execVadd_mem {s : State} (d : BitVec 5) (a : BitVec 5) (b : BitVec 5) (m : BitVec 3) (t : BitVec 3)
    {post : State} (e : execVadd d a b m t s = .next post) : post.mem = s.mem := by
  cases e
  simp

theorem execVsub_mem {s : State} (d : BitVec 5) (a : BitVec 5) (b : BitVec 5) (m : BitVec 3) (t : BitVec 3)
    {post : State} (e : execVsub d a b m t s = .next post) : post.mem = s.mem := by
  cases e
  simp

theorem execVmul_mem {s : State} (d : BitVec 5) (a : BitVec 5) (b : BitVec 5) (m : BitVec 3) (t : BitVec 3)
    {post : State} (e : execVmul d a b m t s = .next post) : post.mem = s.mem := by
  cases e
  simp

theorem execVmulh_mem {s : State} (d : BitVec 5) (a : BitVec 5) (b : BitVec 5) (m : BitVec 3) (t : BitVec 3)
    {post : State} (e : execVmulh d a b m t s = .next post) : post.mem = s.mem := by
  cases e
  simp

theorem execVmin_mem {s : State} (d : BitVec 5) (a : BitVec 5) (b : BitVec 5) (m : BitVec 3) (t : BitVec 3)
    {post : State} (e : execVmin d a b m t s = .next post) : post.mem = s.mem := by
  cases e
  simp

theorem execVmax_mem {s : State} (d : BitVec 5) (a : BitVec 5) (b : BitVec 5) (m : BitVec 3) (t : BitVec 3)
    {post : State} (e : execVmax d a b m t s = .next post) : post.mem = s.mem := by
  cases e
  simp

theorem execVand_mem {s : State} (d : BitVec 5) (a : BitVec 5) (b : BitVec 5) (m : BitVec 3) (t : BitVec 3)
    {post : State} (e : execVand d a b m t s = .next post) : post.mem = s.mem := by
  cases e
  simp

theorem execVor_mem {s : State} (d : BitVec 5) (a : BitVec 5) (b : BitVec 5) (m : BitVec 3) (t : BitVec 3)
    {post : State} (e : execVor d a b m t s = .next post) : post.mem = s.mem := by
  cases e
  simp

theorem execVxor_mem {s : State} (d : BitVec 5) (a : BitVec 5) (b : BitVec 5) (m : BitVec 3) (t : BitVec 3)
    {post : State} (e : execVxor d a b m t s = .next post) : post.mem = s.mem := by
  cases e
  simp

theorem execVshl_mem {s : State} (d : BitVec 5) (a : BitVec 5) (b : BitVec 5) (m : BitVec 3) (t : BitVec 3)
    {post : State} (e : execVshl d a b m t s = .next post) : post.mem = s.mem := by
  cases e
  simp

theorem execVshr_mem {s : State} (d : BitVec 5) (a : BitVec 5) (b : BitVec 5) (m : BitVec 3) (t : BitVec 3)
    {post : State} (e : execVshr d a b m t s = .next post) : post.mem = s.mem := by
  cases e
  simp

theorem execVsar_mem {s : State} (d : BitVec 5) (a : BitVec 5) (b : BitVec 5) (m : BitVec 3) (t : BitVec 3)
    {post : State} (e : execVsar d a b m t s = .next post) : post.mem = s.mem := by
  cases e
  simp

theorem execVsel_mem {s : State} (d : BitVec 5) (a : BitVec 5) (b : BitVec 5) (m : BitVec 3) (t : BitVec 3)
    {post : State} (e : execVsel d a b m t s = .next post) : post.mem = s.mem := by
  cases e
  simp

theorem execVabs_mem {s : State} (d : BitVec 5) (a : BitVec 5) (m : BitVec 3) (t : BitVec 3) {post : State}
    (e : execVabs d a m t s = .next post) : post.mem = s.mem := by
  cases e
  simp

theorem execVcmp_mem {s : State} (d : BitVec 5) (a : BitVec 5) (b : BitVec 5) (m : BitVec 3) (t : BitVec 3)
    (cond : BitVec 3) {post : State} (e : execVcmp d a b m t cond s = .next post) : post.mem = s.mem := by
  cases e
  simp

theorem vfOp_mem {s : State} (op : FltOp) (d : BitVec 5) (a : BitVec 5) (b : BitVec 5) (m : BitVec 3)
    (t : BitVec 3) {post : State} (e : vfOp op d a b m t s = .next post) : post.mem = s.mem := by
  cases e
  simp

theorem execVfadd_mem {s : State} (d : BitVec 5) (a : BitVec 5) (b : BitVec 5) (m : BitVec 3) (t : BitVec 3)
    {post : State} (e : execVfadd d a b m t s = .next post) : post.mem = s.mem := by
  cases e
  simp

theorem execVfsub_mem {s : State} (d : BitVec 5) (a : BitVec 5) (b : BitVec 5) (m : BitVec 3) (t : BitVec 3)
    {post : State} (e : execVfsub d a b m t s = .next post) : post.mem = s.mem := by
  cases e
  simp

theorem execVfmul_mem {s : State} (d : BitVec 5) (a : BitVec 5) (b : BitVec 5) (m : BitVec 3) (t : BitVec 3)
    {post : State} (e : execVfmul d a b m t s = .next post) : post.mem = s.mem := by
  cases e
  simp

theorem execVfma_mem {s : State} (d : BitVec 5) (a : BitVec 5) (b : BitVec 5) (m : BitVec 3) (t : BitVec 3)
    {post : State} (e : execVfma d a b m t s = .next post) : post.mem = s.mem := by
  cases e
  simp

theorem execVfms_mem {s : State} (d : BitVec 5) (a : BitVec 5) (b : BitVec 5) (m : BitVec 3) (t : BitVec 3)
    {post : State} (e : execVfms d a b m t s = .next post) : post.mem = s.mem := by
  cases e
  simp

theorem execVfmin_mem {s : State} (d : BitVec 5) (a : BitVec 5) (b : BitVec 5) (m : BitVec 3) (t : BitVec 3)
    {post : State} (e : execVfmin d a b m t s = .next post) : post.mem = s.mem := by
  cases e
  simp

theorem execVfmax_mem {s : State} (d : BitVec 5) (a : BitVec 5) (b : BitVec 5) (m : BitVec 3) (t : BitVec 3)
    {post : State} (e : execVfmax d a b m t s = .next post) : post.mem = s.mem := by
  cases e
  simp

theorem execVfabs_mem {s : State} (d : BitVec 5) (a : BitVec 5) (m : BitVec 3) (t : BitVec 3) {post : State}
    (e : execVfabs d a m t s = .next post) : post.mem = s.mem := by
  cases e
  simp

theorem execVfneg_mem {s : State} (d : BitVec 5) (a : BitVec 5) (m : BitVec 3) (t : BitVec 3) {post : State}
    (e : execVfneg d a m t s = .next post) : post.mem = s.mem := by
  cases e
  simp

theorem execVfcmp_mem {s : State} (d : BitVec 5) (a : BitVec 5) (b : BitVec 5) (m : BitVec 3) (t : BitVec 3)
    (cond : BitVec 3) {post : State} (e : execVfcmp d a b m t cond s = .next post) : post.mem = s.mem := by
  cases e
  simp

theorem vsOp_mem {s : State} (fn : TransFn) (d : BitVec 5) (a : BitVec 5) (m : BitVec 3) (t : BitVec 3)
    {post : State} (e : vsOp fn d a m t s = .next post) : post.mem = s.mem := by
  cases e
  simp

theorem execVexp2_mem {s : State} (d : BitVec 5) (a : BitVec 5) (m : BitVec 3) (t : BitVec 3) {post : State}
    (e : execVexp2 d a m t s = .next post) : post.mem = s.mem := by
  cases e
  simp

theorem execVlog2_mem {s : State} (d : BitVec 5) (a : BitVec 5) (m : BitVec 3) (t : BitVec 3) {post : State}
    (e : execVlog2 d a m t s = .next post) : post.mem = s.mem := by
  cases e
  simp

theorem execVrcp_mem {s : State} (d : BitVec 5) (a : BitVec 5) (m : BitVec 3) (t : BitVec 3) {post : State}
    (e : execVrcp d a m t s = .next post) : post.mem = s.mem := by
  cases e
  simp

theorem execVrsq_mem {s : State} (d : BitVec 5) (a : BitVec 5) (m : BitVec 3) (t : BitVec 3) {post : State}
    (e : execVrsq d a m t s = .next post) : post.mem = s.mem := by
  cases e
  simp

theorem execVsin_mem {s : State} (d : BitVec 5) (a : BitVec 5) (m : BitVec 3) (t : BitVec 3) {post : State}
    (e : execVsin d a m t s = .next post) : post.mem = s.mem := by
  cases e
  simp

theorem execVcos_mem {s : State} (d : BitVec 5) (a : BitVec 5) (m : BitVec 3) (t : BitVec 3) {post : State}
    (e : execVcos d a m t s = .next post) : post.mem = s.mem := by
  cases e
  simp

theorem execVtanh_mem {s : State} (d : BitVec 5) (a : BitVec 5) (m : BitVec 3) (t : BitVec 3) {post : State}
    (e : execVtanh d a m t s = .next post) : post.mem = s.mem := by
  cases e
  simp

theorem execVsigm_mem {s : State} (d : BitVec 5) (a : BitVec 5) (m : BitVec 3) (t : BitVec 3) {post : State}
    (e : execVsigm d a m t s = .next post) : post.mem = s.mem := by
  cases e
  simp

theorem vrOp_mem {s : State} (op : RedOp) (d : BitVec 5) (a : BitVec 5) (m : BitVec 3) (t : BitVec 3)
    (int : BitVec 1) {post : State} (e : vrOp op d a m t int s = .next post) : post.mem = s.mem := by
  cases e
  simp

theorem execVrsum_mem {s : State} (d : BitVec 5) (a : BitVec 5) (m : BitVec 3) (t : BitVec 3) (int : BitVec 1)
    {post : State} (e : execVrsum d a m t int s = .next post) : post.mem = s.mem := by
  cases e
  simp

theorem execVrmax_mem {s : State} (d : BitVec 5) (a : BitVec 5) (m : BitVec 3) (t : BitVec 3) (int : BitVec 1)
    {post : State} (e : execVrmax d a m t int s = .next post) : post.mem = s.mem := by
  cases e
  simp

theorem execVrmin_mem {s : State} (d : BitVec 5) (a : BitVec 5) (m : BitVec 3) (t : BitVec 3) (int : BitVec 1)
    {post : State} (e : execVrmin d a m t int s = .next post) : post.mem = s.mem := by
  cases e
  simp

theorem execVcvt_mem {s : State} (d : BitVec 5) (a : BitVec 5) (src : BitVec 5) (m : BitVec 3) (t : BitVec 3)
    {post : State} (e : execVcvt d a src m t s = .next post) : post.mem = s.mem := by
  cases e
  simp

theorem execVqnt_mem {s : State} (d : BitVec 5) (a : BitVec 5) (f : BitVec 5) (t : BitVec 3) {post : State}
    (e : execVqnt d a f t s = .next post) : post.mem = s.mem := by
  cases e
  simp

theorem execVdq_mem {s : State} (d : BitVec 5) (a : BitVec 5) (f : BitVec 5) (t : BitVec 3) {post : State}
    (e : execVdq d a f t s = .next post) : post.mem = s.mem := by
  simp only [execVdq] at e
  cases e
  simp

theorem execVshuf_mem {s : State} (d : BitVec 5) (a : BitVec 5) (b : BitVec 5) (m : BitVec 3) (t : BitVec 3)
    {post : State} (e : execVshuf d a b m t s = .next post) : post.mem = s.mem := by
  cases e
  simp

theorem execVperm_mem {s : State} (d : BitVec 5) (a : BitVec 5) (b : BitVec 5) (m : BitVec 3) (t : BitVec 3)
    {post : State} (e : execVperm d a b m t s = .next post) : post.mem = s.mem := by
  cases e
  simp

theorem execVbc_mem {s : State} (d : BitVec 5) (a : BitVec 5) (m : BitVec 3) (t : BitVec 3) {post : State}
    (e : execVbc d a m t s = .next post) : post.mem = s.mem := by
  cases e
  simp

theorem execVext_mem {s : State} (d : BitVec 5) (a : BitVec 5) (lane : BitVec 5) (t : BitVec 3) {post : State}
    (e : execVext d a lane t s = .next post) : post.mem = s.mem := by
  cases e
  simp

theorem execVins_mem {s : State} (d : BitVec 5) (a : BitVec 5) (lane : BitVec 5) (t : BitVec 3) {post : State}
    (e : execVins d a lane t s = .next post) : post.mem = s.mem := by
  cases e
  simp

theorem execVmovk_mem {s : State} (d : BitVec 5) (a : BitVec 5) {post : State}
    (e : execVmovk d a s = .next post) : post.mem = s.mem := by
  cases e
  simp

theorem execVdot_mem {s : State} (p : BitVec 3) (d : BitVec 5) (a : BitVec 5) (b : BitVec 5) (c : BitVec 4)
    (m : BitVec 3) {post : State} (e : execVdot p d a b c m s = .next post) : post.mem = s.mem := by
  cases e
  simp

end Sys2Proof.Machine
end

