-- ==== Sys2Proof/Laws/KeepLong.lean ====
section
/-!
SUPPORT. Every operation of Machine/Long.lean keeps the canonical form of memory.
-/

namespace Sys2Proof.Machine

@[simp] theorem assignPiece_mem (s : State) (array : Bool) : (assignPiece s array).mem = s.mem := by
  simp only [assignPiece]
  (repeat' split) <;> simp

@[simp] theorem assignN_mem (array : Bool) (sum : Int) (n : Nat) (ds : List Demand) (cr : List (BitVec 3 × Int))
    (s : State) : (assignN array sum n ds cr s).2.mem = s.mem := by
  induction n generalizing ds cr s with
  | zero => rfl
  | succ n ih =>
    simp only [assignN]
    split
    · rfl
    · split
      · simp [ih]
      · simp [ih]

@[simp] theorem arbitrate_mem (array : Bool) (n : Nat) (others : List Demand) (cr : List (BitVec 3 × Int))
    (s : State) :
    (arbitrate array n others cr s).2.mem = s.mem := assignN_mem _ _ _ _ _ _

@[simp] theorem driveLvu_mem (s : State) : (driveLvu s).mem = s.mem := by
  simp only [driveLvu]
  (repeat' split) <;> simp

theorem execLvuArbitration_mem {s : State} {post : State} (e : execLvuArbitration s = .next post) :
    post.mem = s.mem := by
  cases e
  split <;> simp

@[simp] theorem enqueue_mem (s : State) (e : LvuEntry) (vd : Option (BitVec 5)) :
    (enqueue e vd s).mem = s.mem := by
  simp only [enqueue]
  (repeat' split) <;> simp

theorem enqueueQ_mem {s : State} (i : Instr) {post : State} (e : enqueueQ i s = .next post) :
    post.mem = s.mem := by
  cases e
  simp

theorem execVlong_mem {s : State} {post : State} (e : execVlong s = .next post) : post.mem = s.mem := by
  cases e
  simp

theorem execVshort_mem {s : State} {post : State} (e : execVshort s = .next post) : post.mem = s.mem := by
  cases e
  simp

theorem execQmov_mem {s : State} (d : BitVec 5) (a : BitVec 5) {post : State}
    (e : execQmov d a s = .next post) : post.mem = s.mem := by
  cases e
  simp

theorem execQsplat_mem {s : State} (d : BitVec 5) (a : BitVec 5) (z : BitVec 2) {post : State}
    (e : execQsplat d a z s = .next post) : post.mem = s.mem := by
  cases e
  simp

theorem execQxv_mem {s : State} (d : BitVec 5) (a : BitVec 5) (b : BitVec 5) {post : State}
    (e : execQxv d a b s = .next post) : post.mem = s.mem := by
  cases e
  simp

theorem execQxq_mem {s : State} (d : BitVec 5) (a : BitVec 5) (b : BitVec 5) {post : State}
    (e : execQxq d a b s = .next post) : post.mem = s.mem := by
  cases e
  simp

theorem execQfadd_mem {s : State} (d : BitVec 5) (a : BitVec 5) (b : BitVec 5) (t : BitVec 3) {post : State}
    (e : execQfadd d a b t s = .next post) : post.mem = s.mem := by
  cases e
  simp

theorem execQfmul_mem {s : State} (d : BitVec 5) (a : BitVec 5) (b : BitVec 5) (t : BitVec 3) {post : State}
    (e : execQfmul d a b t s = .next post) : post.mem = s.mem := by
  cases e
  simp

theorem execQfma_mem {s : State} (d : BitVec 5) (a : BitVec 5) (b : BitVec 5) (t : BitVec 3) {post : State}
    (e : execQfma d a b t s = .next post) : post.mem = s.mem := by
  cases e
  simp

theorem execQfmin_mem {s : State} (d : BitVec 5) (a : BitVec 5) (b : BitVec 5) (t : BitVec 3) {post : State}
    (e : execQfmin d a b t s = .next post) : post.mem = s.mem := by
  cases e
  simp

theorem execQfmax_mem {s : State} (d : BitVec 5) (a : BitVec 5) (b : BitVec 5) (t : BitVec 3) {post : State}
    (e : execQfmax d a b t s = .next post) : post.mem = s.mem := by
  cases e
  simp

theorem execQcvt_mem {s : State} (d : BitVec 5) (a : BitVec 5) (src : BitVec 5) (t : BitVec 3) {post : State}
    (e : execQcvt d a src t s = .next post) : post.mem = s.mem := by
  cases e
  simp

theorem execQsel_mem {s : State} (d : BitVec 5) (a : BitVec 5) (b : BitVec 5) (t : BitVec 3) {post : State}
    (e : execQsel d a b t s = .next post) : post.mem = s.mem := by
  cases e
  simp

theorem execQfcmp_mem {s : State} (d : BitVec 5) (a : BitVec 5) (b : BitVec 5) (t : BitVec 3) (cond : BitVec 3)
    {post : State} (e : execQfcmp d a b t cond s = .next post) : post.mem = s.mem := by
  cases e
  simp

theorem execQadd_mem {s : State} (d : BitVec 5) (a : BitVec 5) (b : BitVec 5) (t : BitVec 3) {post : State}
    (e : execQadd d a b t s = .next post) : post.mem = s.mem := by
  cases e
  simp

theorem execQsub_mem {s : State} (d : BitVec 5) (a : BitVec 5) (b : BitVec 5) (t : BitVec 3) {post : State}
    (e : execQsub d a b t s = .next post) : post.mem = s.mem := by
  cases e
  simp

theorem execQmul_mem {s : State} (d : BitVec 5) (a : BitVec 5) (b : BitVec 5) (t : BitVec 3) {post : State}
    (e : execQmul d a b t s = .next post) : post.mem = s.mem := by
  cases e
  simp

theorem execQand_mem {s : State} (d : BitVec 5) (a : BitVec 5) (b : BitVec 5) (t : BitVec 3) {post : State}
    (e : execQand d a b t s = .next post) : post.mem = s.mem := by
  cases e
  simp

theorem execQor_mem {s : State} (d : BitVec 5) (a : BitVec 5) (b : BitVec 5) (t : BitVec 3) {post : State}
    (e : execQor d a b t s = .next post) : post.mem = s.mem := by
  cases e
  simp

theorem execQxor_mem {s : State} (d : BitVec 5) (a : BitVec 5) (b : BitVec 5) (t : BitVec 3) {post : State}
    (e : execQxor d a b t s = .next post) : post.mem = s.mem := by
  cases e
  simp

theorem execQshl_mem {s : State} (d : BitVec 5) (a : BitVec 5) (b : BitVec 5) (t : BitVec 3) {post : State}
    (e : execQshl d a b t s = .next post) : post.mem = s.mem := by
  cases e
  simp

theorem execQshr_mem {s : State} (d : BitVec 5) (a : BitVec 5) (b : BitVec 5) (t : BitVec 3) {post : State}
    (e : execQshr d a b t s = .next post) : post.mem = s.mem := by
  cases e
  simp

theorem execQmin_mem {s : State} (d : BitVec 5) (a : BitVec 5) (b : BitVec 5) (t : BitVec 3) {post : State}
    (e : execQmin d a b t s = .next post) : post.mem = s.mem := by
  cases e
  simp

theorem execQmax_mem {s : State} (d : BitVec 5) (a : BitVec 5) (b : BitVec 5) (t : BitVec 3) {post : State}
    (e : execQmax d a b t s = .next post) : post.mem = s.mem := by
  cases e
  simp

theorem execQcmp_mem {s : State} (d : BitVec 5) (a : BitVec 5) (b : BitVec 5) (t : BitVec 3) (cond : BitVec 3)
    {post : State} (e : execQcmp d a b t cond s = .next post) : post.mem = s.mem := by
  cases e
  simp

theorem enqueueQr_mem {s : State} (i : Instr) (d : BitVec 5) {post : State} (e : enqueueQr i d s = .next post) :
    post.mem = s.mem := by
  cases e
  simp

theorem execQrsum_mem {s : State} (d : BitVec 5) (a : BitVec 5) (t : BitVec 3) (int : BitVec 1) {post : State}
    (e : execQrsum d a t int s = .next post) : post.mem = s.mem := by
  cases e
  simp

theorem execQrmax_mem {s : State} (d : BitVec 5) (a : BitVec 5) (t : BitVec 3) (int : BitVec 1) {post : State}
    (e : execQrmax d a t int s = .next post) : post.mem = s.mem := by
  cases e
  simp

theorem execQrmin_mem {s : State} (d : BitVec 5) (a : BitVec 5) (t : BitVec 3) (int : BitVec 1) {post : State}
    (e : execQrmin d a t int s = .next post) : post.mem = s.mem := by
  cases e
  simp

theorem execQdot_mem {s : State} (p : BitVec 3) (d : BitVec 5) (a : BitVec 5) (b : BitVec 5) (c : BitVec 4)
    {post : State} (e : execQdot p d a b c s = .next post) : post.mem = s.mem := by
  cases e
  simp

theorem execQdop_mem {s : State} (d : BitVec 5) (a : BitVec 5) (b : BitVec 5) {post : State}
    (e : execQdop d a b s = .next post) : post.mem = s.mem := by
  cases e
  simp

@[simp] theorem checkElems_mem (s : State) (acc : AccType) (zb : Nat) (locked : Bool) (x : List Word) :
    (checkElems acc zb locked x s).1.mem = s.mem := by
  fun_induction checkElems <;> grind [checkAccess_mem]

@[simp] theorem longAccess_memWf {s : State} (h : Memory.wf s.mem = true) (i : Instr) (acc : AccType) (zb : Nat)
    (eas : List Word) : Memory.wf (longAccess i acc zb eas s).mem = true := by
  simp only [longAccess]
  grind [trap_memWf, stall_mem, enqueue_mem, checkElems_mem, Memory.putBytes_wf]

theorem execQld_memWf {s : State} (h : Memory.wf s.mem = true) (q : BitVec 5) (a : BitVec 5) (b : BitVec 5)
    (z : BitVec 2) {post : State} (e : execQld q a b z s = .next post) : Memory.wf post.mem = true := by
  cases e
  simp [h]

theorem execQst_memWf {s : State} (h : Memory.wf s.mem = true) (q : BitVec 5) (a : BitVec 5) (b : BitVec 5)
    (z : BitVec 2) {post : State} (e : execQst q a b z s = .next post) : Memory.wf post.mem = true := by
  cases e
  simp [h]

@[simp] theorem indexed_memWf {s : State} (h : Memory.wf s.mem = true) (i : Instr) (acc : AccType)
    (x : BitVec 5) (a : BitVec 5) (zb : Nat) : Memory.wf (indexed i acc x a zb s).mem = true := by
  simp only [indexed]
  (repeat' split) <;> simp [h]

theorem execQgat_memWf {s : State} (h : Memory.wf s.mem = true) (q : BitVec 5) (a : BitVec 5) (x : BitVec 5)
    (z : BitVec 2) {post : State} (e : execQgat q a x z s = .next post) : Memory.wf post.mem = true := by
  cases e
  simp [h]

theorem execQsct_memWf {s : State} (h : Memory.wf s.mem = true) (q : BitVec 5) (a : BitVec 5) (x : BitVec 5)
    (z : BitVec 2) {post : State} (e : execQsct q a x z s = .next post) : Memory.wf post.mem = true := by
  cases e
  simp [h]

theorem loadElems_memWf (who : BitVec 36) (zb : Nat) (l : List Place) {s : State} (h : Memory.wf s.mem = true) :
    Memory.wf (loadElems who zb l s).2.2.mem = true := by
  induction l generalizing s with
  | nil => exact h
  | cons pa l ih =>
    have hs := homeStep_memWf h (elemAccess who pa zb 0 false)
    simp only [loadElems]
    generalize homeStep s (elemAccess who pa zb 0 false) = r at hs ⊢
    obtain ⟨s1, x⟩ := r
    cases x with
    | value x fl => exact ih hs
    | failed c => exact hs
    | stored => exact hs
    | refused => exact hs
    | held => exact hs

theorem storeElems_memWf (who : BitVec 36) (zb : Nat) (l : List (Place × Nat)) {s : State}
    (h : Memory.wf s.mem = true) :
    Memory.wf (storeElems who zb l s).2.2.mem = true := by
  induction l generalizing s with
  | nil => exact h
  | cons c l ih =>
    obtain ⟨pa, v⟩ := c
    have hs := homeStep_memWf h (elemAccess who pa zb v true)
    simp only [storeElems]
    generalize homeStep s (elemAccess who pa zb v true) = r at hs ⊢
    obtain ⟨s1, x⟩ := r
    cases x with
    | stored => exact ih hs
    | failed c => exact hs
    | value x fl => exact hs
    | refused => exact hs
    | held => exact hs

@[simp] theorem longError_memWf {s : State} (h : Memory.wf s.mem = true) (i : Fin 11) (level : Level)
    (c : Cause) (mask : Word) : Memory.wf (longError s i level c mask).mem = true := by
  simp only [longError]
  (repeat' split) <;> simp [h]

@[simp] theorem completeLoad_memWf {s : State} (h : Memory.wf s.mem = true) (i : Option (Fin 11))
    (who : BitVec 36)
    (e : LvuEntry) (d : BitVec 5) (zb : Nat) : Memory.wf (completeLoad s i who e d zb).mem = true := by
  have hl := loadElems_memWf who zb e.places h
  simp only [completeLoad]
  generalize loadElems who zb e.places s = r at hl ⊢
  obtain ⟨vs, c, s1⟩ := r
  cases i with
  | none => exact hl
  | some i =>
    cases c with
    | none => simpa using hl
    | some c => exact longError_memWf (by simpa using hl) _ _ _ _

@[simp] theorem completeStore_memWf {s : State} (h : Memory.wf s.mem = true) (i : Option (Fin 11))
    (who : BitVec 36)
    (e : LvuEntry) (q : QReg) (zb : Nat) : Memory.wf (completeStore s i who e q zb).mem = true := by
  have hl := storeElems_memWf who zb (e.places.zip (lanesOf (8 * zb) e.places.length q.toNat)) h
  simp only [completeStore]
  generalize storeElems who zb _ s = r at hl ⊢
  obtain ⟨k, c, s1⟩ := r
  cases i <;> cases c <;> first | exact hl | exact longError_memWf hl _ _ _ _

@[simp] theorem completeEntry_memWf {s : State} (h : Memory.wf s.mem = true) (e : LvuEntry) :
    Memory.wf (completeEntry s e).mem = true := by
  simp only [completeEntry]
  (repeat' split) <;> simp [h]

@[simp] theorem finishEntry_memWf {s : State} (h : Memory.wf s.mem = true) (e : LvuEntry)
    (rest : List LvuEntry) : Memory.wf (finishEntry s e rest).mem = true := by
  simp only [finishEntry]
  (repeat' split) <;> simp [h]

theorem execLvuEntryComplete_memWf {s : State} (h : Memory.wf s.mem = true) {post : State}
    (e : execLvuEntryComplete s = .next post) : Memory.wf post.mem = true := by
  simp only [execLvuEntryComplete] at e
  cases e
  (repeat' split) <;> simp [h]

end Sys2Proof.Machine
end

