-- ==== Sys2Proof/Laws/KeepMatrix.lean ====
section
/-!
SUPPORT. Every operation of Machine/Matrix.lean keeps the canonical form of memory.
-/

namespace Sys2Proof.Machine

@[simp] theorem recordMx_mem (s : State) (d : BitVec 5) (id : Nat) : (recordMx s d id).mem = s.mem := by
  simp [recordMx]

@[simp] theorem failMx_mem (s : State) (d : BitVec 5) (status : Nat) (detail : Nat) :
    (failMx d status detail s).mem = s.mem := by
  simp [failMx]

@[simp] theorem issueCompute_mem (s : State) (d : BitVec 5) (p : Nat) (aaddr : Word) (jw : Word) (sa : BitVec 8)
    (sb : BitVec 8) : (issueCompute d p aaddr jw sa sb s).mem = s.mem := by
  simp only [issueCompute]
  (repeat' split) <;> simp

theorem execMxa_mem {s : State} (p : BitVec 3) (d : BitVec 5) (a : BitVec 5) (b : BitVec 5) (c : BitVec 4)
    {post : State} (e : execMxa p d a b c s = .next post) : post.mem = s.mem := by
  simp only [execMxa] at e
  cases e
  (repeat' split) <;> simp

theorem withMxj_memWf {s : State} (h : Memory.wf s.mem = true) (d : BitVec 5) (ea : Word)
    (k : Nat → State → State)
    (hk : ∀ x t, Memory.wf t.mem = true → Memory.wf (k x t).mem = true) : Memory.wf (withMxj d ea s k).mem = true := by
  have hr := engReadNow_mem s ea 32
  simp only [withMxj]
  split
  · simp [h]
  · split
    · next e => rw [failMx_mem]; exact (EngOut.of_fault hr e) ▸ h
    · next e => rw [stall_mem]; exact (EngOut.of_held hr e) ▸ h
    · next s1 x e =>
      have h1 : Memory.wf s1.mem = true := (EngOut.of_ok hr e) ▸ h
      split
      · exact hk _ _ h1
      · simp [h1]

@[simp] theorem issueMxj_mem (s : State) (d : BitVec 5) (x : Nat) : (issueMxj d x s).mem = s.mem := by
  simp [issueMxj]

theorem execMxj_memWf {s : State} (h : Memory.wf s.mem = true) (d : BitVec 5) (a : BitVec 5) {post : State}
    (e : execMxj d a s = .next post) : Memory.wf post.mem = true := by
  simp only [execMxj] at e
  grind [stall_mem, withMxj_memWf, issueMxj_mem, Memory.putBytes_wf]

theorem execMxb_mem {s : State} (d : BitVec 5) (a : BitVec 5) (b : BitVec 5) {post : State}
    (e : execMxb d a b s = .next post) : post.mem = s.mem := by
  simp only [execMxb] at e
  cases e
  (repeat' split) <;> simp

theorem execMxst_mem {s : State} (d : BitVec 5) (a : BitVec 5) {post : State}
    (e : execMxst d a s = .next post) : post.mem = s.mem := by
  simp only [execMxst] at e
  cases e
  (repeat' split) <;> simp

theorem execMxcap_memWf {s : State} (h : Memory.wf s.mem = true) (d a b : BitVec 5) {post : State}
    (e : execMxcap d a b s = .next post) : Memory.wf post.mem = true := by
  simp only [execMxcap, Host.Outcome.next.injEq] at e
  subst e
  split
  · simp [h]
  · refine withMxj_memWf h _ _ _ fun x t ht => ?_
    have hr := engReadNow_mem t (eaRes t 0 (gv t b).toNat) 64
    split
    · simp [ht]
    · split
      · next e => rw [failMx_mem]; exact (EngOut.of_fault hr e) ▸ ht
      · next e => rw [stall_mem]; exact (EngOut.of_held hr e) ▸ ht
      · next s2 y e =>
        have h2 : Memory.wf s2.mem = true := (EngOut.of_ok hr e) ▸ ht
        split
        · simp [h2]
        · rw [retire_mem]
          split <;> simp [h2]

@[simp] theorem acceptCap_memWf {s : State} (h : Memory.wf s.mem = true) (j : CapJob) :
    Memory.wf (acceptCap s j).mem = true := by
  simp only [acceptCap]
  (repeat' split) <;> simp [h]

@[simp] theorem capTrap_memWf {s : State} (h : Memory.wf s.mem = true) (tval : Word) :
    Memory.wf (capTrap s tval).mem = true := by
  simp only [capTrap]
  (repeat' split) <;> simp [h]

theorem execMxcapArrival_memWf {s : State} (h : Memory.wf s.mem = true) {post : State}
    (e : execMxcapArrival s = .next post) : Memory.wf post.mem = true := by
  simp only [execMxcapArrival] at e
  cases e
  (repeat' split) <;> simp [h]

theorem execMxcapTimeout_memWf {s : State} (h : Memory.wf s.mem = true) {post : State}
    (e : execMxcapTimeout s = .next post) : Memory.wf post.mem = true := by
  simp only [execMxcapTimeout] at e
  cases e
  (repeat' split) <;> simp [h]

@[simp] theorem endMx_memWf {s : State} (h : Memory.wf s.mem = true) (j : Job) (flags : BitVec 5) (status : Nat)
    (detail : Nat) (count : Nat) : Memory.wf (endMx s j flags status detail count).mem = true := by
  simp only [endMx]
  (repeat' split) <;> simp [h]

theorem execMxbStart_mem {s : State} {post : State} (e : execMxbStart s = .next post) : post.mem = s.mem := by
  simp only [execMxbStart] at e
  cases e
  (repeat' split) <;> simp

/-- Reading the columns of a tile writes nothing. -/
theorem mxbCols_mem (j : Job) (src : Word) (step bytes n i : Nat) (s : State) :
    (mxbCols j src step bytes n i s).after fun t => t.mem = s.mem := by
  induction n generalizing i s with
  | zero => rfl
  | succ n ih =>
    have hr := engRead_mem s j.xroot j.level (src + BitVec.ofNat 64 (step * i)) bytes
    simp only [mxbCols]
    generalize engRead s j.xroot j.level (src + BitVec.ofNat 64 (step * i)) bytes = r at hr ⊢
    cases r with
    | fault s1 c ea => exact hr
    | held s1 => exact hr
    | ok s1 bs =>
      have hn := ih (i + 1) s1
      dsimp only
      cases e : mxbCols j src step bytes n (i + 1) s1 <;> rw [e] at hn <;> exact Eq.trans hn hr

@[simp] theorem runMxb_memWf {s : State} (h : Memory.wf s.mem = true) (j : Job) (src shape : Word) :
    Memory.wf (runMxb s j src shape).mem = true := by
  have hc := mxbCols_mem j src (64 * fld shape 48 16) (mxbColumn shape) (fld shape 38 10 + 1) 0 s
  simp only [runMxb]
  split
  · next e => rw [send_mem]; exact (EngOut.of_held hc e) ▸ h
  · next e => exact endMx_memWf (by rw [State.modCluster_mem]; exact (EngOut.of_fault hc e) ▸ h) _ _ _ _ _
  · next e => exact endMx_memWf (by rw [State.modCluster_mem]; exact (EngOut.of_ok hc e) ▸ h) _ _ _ _ _

theorem execMxbComplete_memWf {s : State} (h : Memory.wf s.mem = true) {post : State}
    (e : execMxbComplete s = .next post) : Memory.wf post.mem = true := by
  simp only [execMxbComplete] at e
  cases e
  (repeat' split) <;> simp [h]

@[simp] theorem swapTiles_mem (s : State) : (swapTiles s).mem = s.mem := by
  simp only [swapTiles]
  (repeat' split) <;> simp

theorem execComputeJobStart_mem {s : State} {post : State} (e : execComputeJobStart s = .next post) :
    post.mem = s.mem := by
  simp only [execComputeJobStart] at e
  cases e
  (repeat' split) <;> simp

@[simp] theorem logCluster_mem (s : State) (cls : BitVec 8) (code : BitVec 8) :
    (logCluster s cls code).mem = s.mem := by
  simp [logCluster]

/-- The rows of a compute job keep memory canonical. -/
theorem computeRows_memWf (j : Job) (p : Nat) (aaddr jw : Word) (sja sjb : Int) (kb n : Nat)
    (cols : List (List MBlock))
    (m r : Nat) {s : State} (h : Memory.wf s.mem = true) (st : FEnv) :
    Memory.wf (computeRows j p aaddr jw sja sjb kb n cols m r s st).1.mem = true := by
  induction m generalizing r s st with
  | zero => exact h
  | succ m ih =>
    have h1 := engRead_mem s j.xroot j.level (rowA aaddr jw r) (lineBytes (aCode p) kb)
    simp only [computeRows]
    generalize engRead s j.xroot j.level (rowA aaddr jw r) (lineBytes (aCode p) kb) = x at h1 ⊢
    cases x with
    | fault s1 c ea => exact (congrArg Memory.wf h1).trans h
    | held s1 => exact (congrArg Memory.wf h1).trans h
    | ok s1 xs =>
      have w1 : Memory.wf s1.mem = true := (congrArg Memory.wf h1).trans h
      have h2 := engRead_mem s1 j.xroot j.level (rowC jw r) (4 * n)
      dsimp only
      generalize engRead s1 j.xroot j.level (rowC jw r) (4 * n) = x at h2 ⊢
      cases x with
      | fault s2 c ea => exact (congrArg Memory.wf h2).trans w1
      | held s2 => exact (congrArg Memory.wf h2).trans w1
      | ok s2 cs =>
        have w2 : Memory.wf s2.mem = true := (congrArg Memory.wf h2).trans w1
        have h3 := engPlaces_mem j.xroot j.level true (addrs (rowC jw r) (4 * n)) s2
        dsimp only
        generalize engPlaces j.xroot j.level true (addrs (rowC jw r) (4 * n)) s2 = x at h3 ⊢
        cases x with
        | fault s3 c ea => exact (congrArg Memory.wf h3).trans w2
        | held s3 => exact (congrArg Memory.wf h3).trans w2
        | ok s3 ps =>
          have w3 : Memory.wf s3.mem = true := (congrArg Memory.wf h3).trans w2
          have w4 : Memory.wf (engineServed s3 enginePort (byteKeys ps)).mem = true := by simpa using w3
          dsimp only
          split
          · simpa using w3
          · split
            · simpa using w3
            · exact ih _ (putAt_memWf _ _ w4) _

/-- A property of the state that a compute job leaves. -/
def ComputeOut.after (p : State → Prop) : ComputeOut → Prop
  | .done s _ _ _ _ => p s
  | .wait s _ _ => p s

/-- A compute job keeps memory canonical. -/
theorem doCompute_memWf {s : State} (h : Memory.wf s.mem = true) (j : Job) (major : BitVec 6) (aaddr jw : Word)
    (sa sb : BitVec 8) : (doCompute s j major aaddr jw sa sb).after fun t => Memory.wf t.mem = true := by
  have hr := fun p kb n cols m (st : FEnv) =>
    computeRows_memWf j p aaddr jw sa.toNat sb.toNat kb n cols m j.rows h st
  unfold doCompute
  dsimp only
  split
  · exact h
  · split
    · exact h
    · split
      · simpa [ComputeOut.after] using h
      · split
        · next e =>
          have w := (congrArg (fun x : RowsOut => Memory.wf x.1.mem = true) e).mp (hr _ _ _ _ _ _)
          simpa [ComputeOut.after] using w
        · next e =>
          have w := (congrArg (fun x : RowsOut => Memory.wf x.1.mem = true) e).mp (hr _ _ _ _ _ _)
          simpa [ComputeOut.after] using w
        · next e =>
          exact (congrArg (fun x : RowsOut => Memory.wf x.1.mem = true) e).mp (hr _ _ _ _ _ _)

@[simp] theorem runCompute_memWf {s : State} (h : Memory.wf s.mem = true) (j : Job) (major : BitVec 6)
    (aaddr jw : Word)
    (sa sb : BitVec 8) : Memory.wf (runCompute s j major aaddr jw sa sb).mem = true := by
  have hd := doCompute_memWf h j major aaddr jw sa sb
  unfold runCompute
  split
  · next e => rw [e] at hd; exact endMx_memWf hd _ _ _ _ _
  · next s1 st r e =>
    rw [e] at hd
    have w : Memory.wf s1.mem = true := hd
    simpa using w

theorem execComputeJobComplete_memWf {s : State} (h : Memory.wf s.mem = true) {post : State}
    (e : execComputeJobComplete s = .next post) : Memory.wf post.mem = true := by
  simp only [execComputeJobComplete] at e
  cases e
  (repeat' split) <;> simp [h]

end Sys2Proof.Machine
end

