-- ==== Sys2Proof/Laws/KeepBank.lean ====
section
/-!
SUPPORT. Every operation of Machine/Bank.lean keeps the canonical form of memory.
-/

namespace Sys2Proof.Machine

@[simp] theorem setBankSlot_mem (s : State) (b : BankSlot) :
    (setBankSlot s b).mem = s.mem := by simp [setBankSlot]

@[simp] theorem emptySlot_memWf {s : State} (h : Memory.wf s.mem = true) (stack : Nat) (unit : Nat)
    (slot : Nat) : Memory.wf (emptySlot s stack unit slot).mem = true := by
  simp [emptySlot, h]

@[simp] theorem loadSlot_memWf {s : State} (h : Memory.wf s.mem = true) (im : Image) (stack : Nat) (unit : Nat)
    (slot : Nat) : Memory.wf (loadSlot im s stack unit slot).mem = true := by
  simp only [loadSlot]
  grind [writeBytes_memWf, setBankSlot_mem, emptySlot_memWf, Memory.putBytes_wf]

@[simp] theorem queueBank_mem (s : State) (d : BitVec 5) (i : Instr) (ga : Word) (gb : Word) (desc : BitVec 512)
    (sa : BitVec 8) (sb : BitVec 8) (locks : optParam (List (Word × Word × Bool)) []) :
        (queueBank s d i ga gb desc sa sb locks).mem = s.mem := by
  simp [queueBank]

theorem execBvld_mem {s : State} (d a b : BitVec 5) {post : State} (e : execBvld d a b s = .next post) :
    post.mem = s.mem := by
  have hr := engReadNow_mem s (gv s a) 64
  simp only [execBvld, Host.Outcome.next.injEq] at e
  subst e
  split
  · simp
  · split
    · next e => rw [failCause_mem]; exact EngOut.of_fault hr e
    · next e => rw [stall_mem]; exact EngOut.of_held hr e
    · next s1 x e =>
      have h1 : s1.mem = s.mem := EngOut.of_ok hr e
      (repeat' split) <;> simp [h1]

theorem execBmv_memWf {s : State} (h : Memory.wf s.mem = true) (p : BitVec 3) (d : BitVec 5) (a : BitVec 5)
    (b : BitVec 5) (c : BitVec 4) {post : State} (e : execBmv p d a b c s = .next post) :
        Memory.wf post.mem = true := by
  simp only [execBmv] at e
  grind [stall_mem, stepLfsr_mem, failToken_mem, withBytes_memWf, queueBank_mem, Memory.putBytes_wf]

theorem execBvrd_mem {s : State} (d : BitVec 5) (a : BitVec 5) (b : BitVec 5) {post : State}
    (e : execBvrd d a b s = .next post) : post.mem = s.mem := by
  simp only [execBvrd] at e
  cases e
  (repeat' split) <;> simp

theorem execBcfg_mem {s : State} (d : BitVec 5) (a : BitVec 5) {post : State}
    (e : execBcfg d a s = .next post) : post.mem = s.mem := by
  simp only [execBcfg] at e
  cases e
  (repeat' split) <;> simp

@[simp] theorem rowPlace_mem (s : State) (j : BankJob) (row : Nat) : (rowPlace s j row).1.mem = s.mem := by
  simp only [rowPlace]
  grind [translate_mem]

@[simp] theorem rowPlaces_mem (s : State) (j : BankJob) (x : Nat) (y : Nat) :
    (rowPlaces j x y s).1.mem = s.mem := by
  fun_induction rowPlaces <;> grind [rowPlace_mem]

theorem execBstat_mem {s : State} (d : BitVec 5) (a : BitVec 5) {post : State}
    (e : execBstat d a s = .next post) : post.mem = s.mem := by
  cases e
  simp

@[simp] theorem endBank_memWf {s : State} (h : Memory.wf s.mem = true) (j : BankJob) (flags : BitVec 5)
    (status : Nat) (detail : Nat) (count : Nat) :
        Memory.wf (endBank s j flags status detail count).mem = true := by
  simp [endBank, h]

@[simp] theorem putResults_memWf {s : State} (h : Memory.wf s.mem = true) (u : Nat × Nat) (i : Nat)
    (x : List (Nat × Nat)) : Memory.wf (putResults u i x s).mem = true := by
  fun_induction putResults <;> simp_all

/-- Reading a row of a BMV writes nothing. -/
theorem rowRead_mem (s : State) (j : BankJob) (p row : Nat) :
    (rowRead s j p row).after fun t => t.mem = s.mem := by
  have h1 := fun ea n => engRead_mem s j.xroot j.level ea n
  simp only [rowRead]
  split
  · next s1 bs e =>
    have w1 : s1.mem = s.mem := EngOut.of_ok (h1 _ _) e
    split
    · exact w1
    · split
      · exact w1
      · have h2 := fun ea n => engRead_mem s1 j.xroot j.level ea n
        split
        · next e2 => exact Eq.trans (EngOut.of_ok (h2 _ _) e2) w1
        · revert h2
          generalize engRead s1 j.xroot j.level = f
          intro h2
          have := h2 (BitVec.ofNat 64 (nfld j.desc.toNat 64 64 + codeScale (bCode p) * (row * (bmvLen j.desc.toNat / 32))))
            (bmvLen j.desc.toNat / 32 * codeScale (bCode p))
          revert this
          generalize f _ _ = x
          cases x <;> exact fun t => Eq.trans t w1
  · exact h1 _ _

@[simp] theorem bmvRow_mem (s : State) (j : BankJob) (p : Nat) (ks : List Nat) (u : Nat × Nat) (row : Nat)
    (st : FEnv) :
    (bmvRow j p ks u row s st).1.mem = s.mem := by
  have hr := rowRead_mem s j p row
  simp only [bmvRow]
  split
  · rfl
  · split
    · next e => exact EngOut.of_fault hr e
    · next e => exact EngOut.of_held hr e
    · next e => exact EngOut.of_ok hr e

/-- The rows of a BMV keep memory canonical. -/
theorem bmvRows_memWf {s : State} (h : Memory.wf s.mem = true) (j : BankJob) (p : Nat) (ks : List Nat)
    (us : List (Nat × Nat)) (row : Nat) (st : FEnv) :
    ∀ x, bmvRows j p ks us row s st = some x → Memory.wf x.1.mem = true := by
  induction us generalizing row s st with
  | nil => intro x e; cases e; exact h
  | cons u us ih =>
    intro x e
    have hr : Memory.wf (bmvRow j p ks u row s st).1.mem = true := by rw [bmvRow_mem]; exact h
    simp only [bmvRows] at e
    split at e
    · cases e
    · next s1 ys st1 e1 =>
      rw [e1] at hr
      obtain ⟨y, hy, rfl⟩ := Option.map_eq_some_iff.mp e
      exact ih (putResults_memWf hr _ _ _) _ _ y hy
    · next s1 f st1 e1 =>
      rw [e1] at hr
      obtain ⟨y, hy, rfl⟩ := Option.map_eq_some_iff.mp e
      exact ih hr _ _ y hy

@[simp] theorem runBmv_memWf {s : State} (h : Memory.wf s.mem = true) (j : BankJob) (p : Nat) :
    Memory.wf (runBmv s j p).mem = true := by
  have hp : Memory.wf (rowPlaces j (nfld j.desc.toNat 128 32) 0 s).1.mem = true := by rw [rowPlaces_mem]; exact h
  unfold runBmv
  split
  · next e => rw [e] at hp; exact endBank_memWf hp _ _ _ _ _
  · next s1 us e =>
    rw [e] at hp
    have hb := bmvRows_memWf hp j p (maskSlots (fld j.gb 0 16)) us 0 { md := j.mode, lfsr := j.seed, flags := 0 }
    split
    · exact endBank_memWf hp _ _ _ _ _
    · split
      · simpa using h
      · next e2 => exact endBank_memWf (hb _ e2) _ _ _ _ _
      · next e2 => exact endBank_memWf (hb _ e2) _ _ _ _ _

/-- Reading an image writes nothing. -/
theorem readImage_mem (s : State) (xroot : Word) (level : Level) (ea : Word) (h : Nat) :
    (readImage s xroot level ea h).after fun t => t.mem = s.mem := by
  have hr := fun n => engRead_mem s xroot level (ea + 64) n
  simp only [readImage]
  split
  · next e => exact EngOut.of_fault (hr _) e
  · next e => exact EngOut.of_held (hr _) e
  · next e => exact EngOut.of_ok (hr _) e

@[simp] theorem runBvld_memWf {s : State} (h : Memory.wf s.mem = true) (j : BankJob) :
    Memory.wf (runBvld s j).mem = true := by
  have hr := readImage_mem s j.xroot j.level j.ga j.desc.toNat
  simp only [runBvld]
  split
  · simp [h]
  · split
    · next e => rw [send_mem]; exact (EngOut.of_held hr e) ▸ h
    · next e => exact endBank_memWf ((EngOut.of_fault hr e) ▸ h) _ _ _ _ _
    · next e =>
      exact endBank_memWf (foldl_memWf _ (fun t u ht => loadSlot_memWf ht _ _ _ _) _ ((EngOut.of_ok hr e) ▸ h)) _ _ _ _ _

@[simp] theorem runBcfg_memWf {s : State} (h : Memory.wf s.mem = true) (j : BankJob) :
    Memory.wf (runBcfg s j).mem = true := by
  simp only [runBcfg]
  split
  · simp [h]
  · exact endBank_memWf
      (foldl_memWf _ (fun t u ht => foldl_memWf _ (fun t k ht => emptySlot_memWf ht _ _ _) _ ht) _ h) _ _ _ _ _

@[simp] theorem bvrdWrite_memWf (j : BankJob) (n done : Nat) (xs : List Nat) {s : State}
    (h : Memory.wf s.mem = true) :
    Memory.wf (bvrdWrite j n done xs s).1.mem = true := by
  induction n generalizing done xs s with
  | zero => exact h
  | succ n ih =>
    have hp := fun l => engPlaces_mem j.xroot j.level true l s
    cases xs with
    | nil => exact h
    | cons x xs =>
      simp only [bvrdWrite]
      split
      · next e => exact (congrArg Memory.wf (EngOut.of_fault (hp _) e)).trans h
      · next e => exact (congrArg Memory.wf (EngOut.of_held (hp _) e)).trans h
      · next s1 ps e =>
        have w : Memory.wf s1.mem = true := (congrArg Memory.wf (EngOut.of_ok (hp _) e)).trans h
        split
        · simpa using w
        · exact ih _ _ (putAt_memWf _ _ (by simpa using w))

@[simp] theorem runBvrd_memWf {s : State} (h : Memory.wf s.mem = true) (j : BankJob) :
    Memory.wf (runBvrd s j).mem = true := by
  simp only [runBvrd]
  grind [send_mem, engineServed_mem, endBank_memWf, bvrdWrite_memWf, Memory.putBytes_wf]

@[simp] theorem setInst_mem (s : State) (i : Instance') : (setInst s i).mem = s.mem := by simp [setInst]

@[simp] theorem putStaged_mem (s : State) (h : Nat) (image : List Byte) (mode : Word) (seed : W32) :
    (putStaged s h image mode seed).mem = s.mem := by
  unfold putStaged
  (repeat' split) <;> simp

@[simp] theorem stageImage_memWf {s : State} (h : Memory.wf s.mem = true) (j : BankJob) :
    Memory.wf (stageImage s j).mem = true := by
  have hr := readImage_mem s j.xroot j.level j.ga j.desc.toNat
  simp only [stageImage]
  split
  · simp [h]
  · split
    · next e => rw [send_mem]; exact (EngOut.of_held hr e) ▸ h
    · next e => exact endBank_memWf ((EngOut.of_fault hr e) ▸ h) _ _ _ _ _
    · next e =>
      rw [putStaged_mem]
      exact endBank_memWf ((EngOut.of_ok hr e) ▸ h) _ _ _ _ _

theorem execBankJobComplete_memWf {s : State} (h : Memory.wf s.mem = true) {post : State}
    (e : execBankJobComplete s = .next post) : Memory.wf post.mem = true := by
  simp only [execBankJobComplete] at e
  cases e
  (repeat' split) <;> simp [h]

end Sys2Proof.Machine
end

