-- ==== Sys2Proof/Laws/KeepPipe.lean ====
section
/-!
SUPPORT. Every operation of Machine/Pipe.lean keeps the canonical form of memory.
-/

namespace Sys2Proof.Machine

/-- A failure of PBIND leaves memory as it was. -/
def FailKeeps {α : Type} (s : State) (x : Except Fail α) : Prop := ∀ f, x = .error f → f.1.mem = s.mem

theorem FailKeeps.ok {α : Type} (s : State) (a : α) : FailKeeps s (.ok a) := fun _ e => by
  simp at e

theorem FailKeeps.error {α : Type} {s s1 : State} (h : s1.mem = s.mem) (c : Nat × Nat) :
    FailKeeps (α := α) s (.error (s1, c)) := by
  intro f e
  cases e
  exact h

theorem FailKeeps.bind {α β : Type} {s : State} {x : Except Fail α} {k : α → Except Fail β} (hx : FailKeeps s x)
    (hk : ∀ a, FailKeeps s (k a)) : FailKeeps s (x >>= k) := by
  cases x with
  | error f => exact fun g e => hx g (by cases e; rfl)
  | ok a => exact hk a

theorem FailKeeps.map {α β : Type} {s : State} {x : Except Fail α} (k : α → β) (hx : FailKeeps s x) :
    FailKeeps s (x.map k) := by
  cases x with
  | error f => exact fun g e => hx g (by cases e; rfl)
  | ok a => exact .ok s _

theorem FailKeeps.mapM {α β : Type} {s : State} (k : α → Except Fail β) (hk : ∀ a, FailKeeps s (k a)) (l : List α) :
    FailKeeps s (l.mapM k) := by
  induction l with
  | nil => exact .ok s _
  | cons a l ih =>
    rw [List.mapM_cons]
    exact .bind (hk a) fun b => .bind ih fun bs => .ok s _

theorem require_keeps (s : State) (b : Bool) : FailKeeps s (require s b) := by
  unfold require
  split
  · exact .ok s _
  · exact .error rfl _

theorem peek_keeps (s : State) (xroot : Word) (level : Level) (ea : Word) (n : Nat) :
    FailKeeps s (peek s xroot level ea n) := by
  have hr := engRead_mem s xroot level ea n
  unfold peek
  split
  · exact .ok s _
  · next e => exact .error (EngOut.of_fault hr e) _
  · next e => exact .error (EngOut.of_held hr e) _

theorem peekEntry_keeps (s : State) (xroot restb : Word) (level : Level) (i : Nat) :
    FailKeeps s (peekEntry s xroot restb level i) :=
  (peek_keeps s xroot level _ 64).map _

theorem peekPages_keeps (s : State) (xroot : Word) (level : Level) (acc : AccType) (ea : Word) (n : Nat)
    (bankRow : Bool) : FailKeeps s (peekPages s xroot level acc ea n bankRow) := by
  simp only [peekPages]
  split
  · exact .ok s _
  · refine .mapM _ (fun k => ?_) _
    have ht := fun a => translate_mem s xroot level a acc
    have hm (s1 : State) (r : Except Cause Place) {a : Word} (e : translate s xroot level a acc = (s1, r)) :
        s1.mem = s.mem := by
      have h := ht a
      rw [e] at h
      exact h
    split
    · next e => exact .error (hm _ _ e) _
    · next e =>
      have h1 := hm _ _ e
      (repeat' split) <;> first | exact .ok s _ | exact .error h1 _

theorem peekStage_keeps (s : State) (xroot restb : Word) (level : Level) (r : BitVec 192)
    (prev : Option (BitVec 192)) : FailKeeps s (peekStage s xroot restb level r prev) := by
  have he := peekEntry_keeps s xroot restb level
  have hq := require_keeps s
  unfold peekStage
  dsimp only
  split
  · exact .bind (he _) fun e => .bind (hq _) fun _ => .ok s _
  · exact .bind (he _) fun e => .bind (hq _) fun _ => .ok s _
  · exact .bind (he _) fun e => .bind (hq _) fun _ => .ok s _
  · exact .bind (hq _) fun _ => .ok s _
  · exact .ok s _

theorem peekStages_keeps (s : State) (xroot restb : Word) (level : Level) (n idx : Nat) (prev : Option (BitVec 192))
    (l : List (BitVec 192)) : FailKeeps s (peekStages s xroot restb level n idx prev l) := by
  induction l generalizing idx prev with
  | nil => exact .ok s _
  | cons r l ih =>
    exact .bind (require_keeps s _) fun _ => .bind (peekStage_keeps s _ _ _ _ _) fun e => .bind (ih _ _) fun es => .ok s _

theorem peekPipe_keeps (s : State) (index xroot restb : Word) (level : Level) (lo hi : BitVec 21) :
    FailKeeps s (peekPipe s index xroot restb level lo hi) := by
  unfold peekPipe
  split
  · exact .error rfl _
  · refine .bind (peekEntry_keeps s _ _ _ _) fun e => ?_
    split
    · exact .error rfl _
    · exact .bind (require_keeps s _) fun _ => .bind (peek_keeps s _ _ _ _) fun bs => .bind (require_keeps s _) fun _ =>
        .bind (peekStages_keeps s _ _ _ _ _ _ _) fun es => .ok s _

theorem stagePages_keeps (s : State) (xroot : Word) (level : Level) (isNew : Bool) (r : BitVec 192) (e : BitVec 512) :
    FailKeeps s (stagePages s xroot level isNew r e) := by
  have hp := peekPages_keeps s xroot level
  unfold stagePages
  split
  · split
    · exact .ok s _
    · exact .bind (hp _ _ _ _) fun a => .bind (hp _ _ _ _) fun b => .ok s _
  · exact .bind (hp _ _ _ _) fun a => .ok s _
  · exact .ok s _

theorem pipePages_keeps (s : State) (xroot : Word) (level : Level) (isNew : Bool) (rs : List (BitVec 192))
    (es : List (BitVec 512)) : FailKeeps s (pipePages s xroot level isNew rs es) := by
  induction rs generalizing es with
  | nil => cases es <;> exact .ok s _
  | cons r rs ih =>
    cases es with
    | nil => exact .ok s _
    | cons e es => exact .bind (stagePages_keeps s _ _ _ _ _) fun a => .bind (ih es) fun b => .ok s _

/-- Reading what a PBIND brings writes nothing. -/
@[simp] theorem pipeSnap_mem (s : State) (index : Word) : (pipeSnap s index).1.mem = s.mem := by
  have hp := peekPipe_keeps s index s.ctx.user.xroot s.ctx.user.restb s.ctx.level s.ctx.user.rankLo s.ctx.user.rankHi
  simp only [pipeSnap]
  split
  · next e => exact hp _ e
  · next e => exact hp _ e
  · rfl

@[simp] theorem pendSecond_mem (s : State) (d : BitVec 5) : (pendSecond d s).mem = s.mem := by simp [pendSecond]

@[simp] theorem sendPbind_mem (s : State) (d : BitVec 5) (p : PipeSnap) : (sendPbind s d p).mem = s.mem := by
  simp [sendPbind]

theorem execPbind_memWf {s : State} (h : Memory.wf s.mem = true) (d : BitVec 5) (a : BitVec 5) {post : State}
    (e : execPbind d a s = .next post) : Memory.wf post.mem = true := by
  have hp := pipeSnap_mem s (gv s a)
  simp only [execPbind] at e
  cases e
  split
  · simp [h]
  split
  · simp [h]
  split
  · simp [h]
  · next s1 p e1 =>
    rw [e1] at hp
    rw [sendPbind_mem]
    exact hp ▸ h

theorem execPfree_mem {s : State} (d : BitVec 5) (a : BitVec 5) {post : State}
    (e : execPfree d a s = .next post) : post.mem = s.mem := by
  cases e
  simp

theorem execPstat_mem {s : State} (d : BitVec 5) (a : BitVec 5) {post : State}
    (e : execPstat d a s = .next post) : post.mem = s.mem := by
  cases e
  simp

theorem execEnq_memWf {s : State} (h : Memory.wf s.mem = true) (d : BitVec 5) (a : BitVec 5) {post : State}
    (e : execEnq d a s = .next post) : Memory.wf post.mem = true := by
  simp only [execEnq] at e
  cases e
  (repeat' split) <;> simp [h]

theorem execDeq_memWf {s : State} (h : Memory.wf s.mem = true) (d : BitVec 5) (a : BitVec 5) {post : State}
    (e : execDeq d a s = .next post) : Memory.wf post.mem = true := by
  cases e
  simp [h]

@[simp] theorem millAnswer_memWf {s : State} (h : Memory.wf s.mem = true) (who : BitVec 36) (token : BitVec 5)
    (status : Nat) (detail : Nat) (count : Nat) (second : Word) :
        Memory.wf (millAnswer s who token status detail count second).mem = true := by
  simp [millAnswer, h]

@[simp] theorem unreserveTwo_mem (s : State) (who : BitVec 36) : (unreserveTwo s who).mem = s.mem := by
  simp only [unreserveTwo]
  (repeat' split) <;> simp

@[simp] theorem millInstall_memWf {s : State} (h : Memory.wf s.mem = true) (who : BitVec 36) (h : Word)
    (k : OblKind) : Memory.wf (millInstall s who h k).mem = true := by
  simp only [millInstall]
  (repeat' split) <;> simp_all

theorem newSem_mem (rank value : Nat) (queue : Nat × Bool) (n : Nat) {s post : State} {o : Obj}
    (e : newSem rank value queue n s = some (post, o)) : post.mem = s.mem := by
  induction n generalizing s with
  | zero => cases e
  | succ n ih =>
    simp only [newSem] at e
    split at e
    · exact ih (s := { s with fresh := s.fresh + 1 }) e
    · next e1 =>
      simp only [Option.some.injEq, Prod.mk.injEq] at e
      rw [← e.1, setObj_mem, newObject_mem e1]

theorem newQueueAt_mem {s : State} (stage depth rankD rankS base : Nat) {post : State} {id : Nat}
    (e : newQueueAt s stage depth rankD rankS base = some (post, id)) : post.mem = s.mem := by
  simp only [newQueueAt] at e
  split at e
  · cases e
  · next e1 =>
    split at e
    · cases e
    · next e2 =>
      simp only [Option.some.injEq, Prod.mk.injEq] at e
      rw [← e.1]
      exact (newSem_mem _ _ _ _ e2).trans (newSem_mem _ _ _ _ e1)

theorem newQueue_mem {s : State} (die stage depth rankD rankS : Nat) {post : State} {id : Nat}
    (e : newQueue s die stage depth rankD rankS = some (post, id)) : post.mem = s.mem := by
  obtain ⟨base, -, e1⟩ := Option.bind_eq_some_iff.mp e
  exact newQueueAt_mem _ _ _ _ _ e1

theorem newQueues_mem (die lo q i : Nat) (l : List (BitVec 192)) {s post : State} {qs : List (Nat × Nat)}
    (e : newQueues die lo q i l s = some (post, qs)) : post.mem = s.mem := by
  induction l generalizing i s qs post with
  | nil =>
    simp only [newQueues, Option.some.injEq, Prod.mk.injEq] at e
    rw [e.1]
  | cons r l ih =>
    simp only [newQueues] at e
    split at e
    · exact ih _ e
    · obtain ⟨⟨s1, id⟩, h1, e⟩ := Option.bind_eq_some_iff.mp e
      obtain ⟨⟨t, l'⟩, h2, e⟩ := Option.map_eq_some_iff.mp e
      simp only [Prod.mk.injEq] at e
      rw [← e.1]
      exact (ih _ h2).trans (newQueue_mem _ _ _ _ _ h1)

@[simp] theorem rebind_memWf {s : State} (h : Memory.wf s.mem = true) (b : Binding) (core : W32) (stage : Nat) :
    Memory.wf (rebind s b core stage).mem = true := by
  simp only [rebind]
  (repeat' split) <;> simp [h]

@[simp] theorem rebindAll_memWf {s : State} (h : Memory.wf s.mem = true) (b : Binding) (x : List BoundUnit) :
    Memory.wf (rebindAll b x s).mem = true := by
  fun_induction rebindAll <;> grind [rebind_memWf, Memory.putBytes_wf]

@[simp] theorem attach_mem (s : State) (i : Instance') (b : Binding) (c : Consumer) :
    (attach s i b c).mem = s.mem := by
  simp only [attach]
  (repeat' split) <;> simp

@[simp] theorem armGovernor_mem (s : State) : (armGovernor s).mem = s.mem := by
  simp only [armGovernor]
  (repeat' split) <;> simp

@[simp] theorem millDone_mem (s : State) : (millDone s).mem = s.mem := by simp [millDone]

@[simp] theorem pbindFail_memWf {s : State} (h : Memory.wf s.mem = true) (who : BitVec 36) (token : BitVec 5)
    (f : Nat × Nat) : Memory.wf (pbindFail s who token f).mem = true := by
  simp [pbindFail, h]

@[simp] theorem ownEnd_mem (s : State) (h : Word) : (ownEnd s h).mem = s.mem := by
  simp only [ownEnd]
  (repeat' split) <;> simp

@[simp] theorem takeBind_mem (s : State) (h : Word) : (takeBind s h).mem = s.mem := by
  simp only [takeBind]
  (repeat' split) <;> simp

@[simp] theorem bindPipe_memWf {s1 : State} (h : Memory.wf s1.mem = true) (d : PipeSnap) (pg : PipePages)
    (queues : List (Nat × Nat)) (who : BitVec 36) (token : BitVec 5) (xroot : Word) :
        Memory.wf (bindPipe s1 d pg queues who token xroot).mem = true := by
  simp only [bindPipe]
  grind [millAnswer_memWf, unreserveTwo_mem, millInstall_memWf, rebindAll_memWf, attach_mem, armGovernor_mem,
      ownEnd_mem, Memory.putBytes_wf]

@[simp] theorem millHold_mem (s : State) (m : Msg) : (millHold s m).mem = s.mem := by
  simp only [millHold]
  (repeat' split) <;> simp

@[simp] theorem giveBack_memWf {s : State} (h : Memory.wf s.mem = true) (o : Word) :
    Memory.wf (giveBack s o).mem = true := by
  unfold giveBack
  split <;> simp [h]

@[simp] theorem pbindRest_memWf {s : State} (h : Memory.wf s.mem = true) (m : Msg) (d : PipeSnap)
    (who : BitVec 36) (token : BitVec 5) (xroot : Word) :
    Memory.wf (pbindRest s m d who token xroot).mem = true := by
  have hp := pipePages_keeps s xroot d.level
    (sharedBy s d (BitVec.ofNat 8 (fld xroot 8 8))).isNone d.stages d.entries
  simp only [pbindRest]
  split
  · simp [h]
  · split
    · next e => rw [send_mem]; exact (hp _ e) ▸ h
    · next e => exact pbindFail_memWf (giveBack_memWf ((hp _ e) ▸ h) _) _ _ _
    · split
      · simp [h]
      · next e => exact bindPipe_memWf ((newQueues_mem _ _ _ _ _ e) ▸ h) _ _ _ _ _ _
  · simp [h]

@[simp] theorem millTook_mem (s : State) (m : Msg) : (millTook s m).mem = s.mem := rfl

@[simp] theorem pbindAt_memWf {s : State} (h : Memory.wf s.mem = true) (m : Msg) (d : PipeSnap)
    (who : BitVec 36)
    (token : BitVec 5) (xroot : Word) : Memory.wf (pbindAt s m d who token xroot).mem = true := by
  unfold pbindAt
  (repeat' split) <;> simp [h]

@[simp] theorem pipeStepAt_mem (s : State) (h : Word) (x : PipeAsk) : (pipeStepAt s h x).1.mem = s.mem := by
  simp only [pipeStepAt]
  (repeat' split) <;> simp

@[simp] theorem pipeAnswered_mem (s : State) (what : PipeAsk) (code : Nat) :
    (pipeAnswered s what code).mem = s.mem := by
  simp only [pipeAnswered]
  (repeat' split) <;> simp

@[simp] theorem dropStanding_mem (s : State) (b : Binding) (x : List Nat) :
    (dropStanding b x s).mem = s.mem := by
  fun_induction dropStanding <;> simp_all

@[simp] theorem callerLoses_memWf {s : State} (h : Memory.wf s.mem = true) (who : BitVec 36) (h : Word)
    (k : OblKind) : Memory.wf (callerLoses s who h k).mem = true := by
  simp only [callerLoses]
  (repeat' split) <;> simp_all

@[simp] theorem moveEnd_memWf {s : State} (h : Memory.wf s.mem = true) (b : Binding) (who : BitVec 36)
    (held : List (Word × OblKind)) (left : Bool) : Memory.wf (moveEnd s b who held left).mem = true := by
  simp only [moveEnd]
  (repeat' split) <;> simp [h]

@[simp] theorem freeBinding_memWf {s : State} (h : Memory.wf s.mem = true) (b : Binding) (who : BitVec 36)
    (held : List (Word × OblKind)) : Memory.wf (freeBinding s b who held).mem = true := by
  simp only [freeBinding]
  (repeat' split) <;> simp [h]

@[simp] theorem pfreeAt_memWf {s : State} (h : Memory.wf s.mem = true) (h : Word) (who : BitVec 36)
    (held : List (Word × OblKind)) : Memory.wf (pfreeAt s h who held).mem = true := by
  simp only [pfreeAt]
  (repeat' split) <;> simp_all

@[simp] theorem pstatAt_memWf {s : State} (h : Memory.wf s.mem = true) (h : Word) (who : BitVec 36)
    (token : BitVec 5) : Memory.wf (pstatAt s h who token).mem = true := by
  simp only [pstatAt]
  (repeat' split) <;> simp_all

@[simp] theorem millTakes_mem (s : State) (who : BitVec 36) :
    (millTakes s who).mem = s.mem := by simp [millTakes]

@[simp] theorem stageForeign_memWf {s : State} (h : Memory.wf s.mem = true) (hd : Nat)
    (image : Except (Nat × Nat) (List Byte)) (who : BitVec 36) (token : BitVec 5) (xroot mode : Word) (seed : W32) :
    Memory.wf (stageForeign s hd image who token xroot mode seed).mem = true := by
  unfold stageForeign
  (repeat' split) <;> simp [h]

theorem execMillraceRequest_memWf {s : State} (h : Memory.wf s.mem = true) {post : State}
    (e : execMillraceRequest s = .next post) : Memory.wf post.mem = true := by
  simp only [execMillraceRequest] at e
  cases e
  (repeat' split) <;> simp [h]

@[simp] theorem writeEntry_memWf {s : State} (h : Memory.wf s.mem = true) (ea : Word) (bs : List Byte) :
    Memory.wf (writeEntry s ea bs).mem = true := by
  simp only [writeEntry]
  (repeat' split) <;> simp [h]

theorem enqueueFor_memWf {s : State} (h : Memory.wf s.mem = true) (b : Binding) (id : Nat) (bs : List Byte)
    (code : Option (BitVec 28)) {post : State} (e : enqueueFor s b id bs code = some post) :
        Memory.wf post.mem = true := by
  simp only [enqueueFor] at e
  (repeat' split at e) <;> cases e <;> simp_all

@[simp] theorem dequeueFor_mem (s : State) (b : Binding) (q : StageQueue) : (dequeueFor s b q).mem = s.mem := by
  simp only [dequeueFor]
  (repeat' split) <;> simp

@[simp] theorem stageJob_mem (s : State) (b : Binding) (i : Instance') : (stageJob s b i).2.mem = s.mem := by
  simp [stageJob]

@[simp] theorem stageJobOf_mem (s : State) (b : Binding) (i : Instance') (idx : Nat) :
    (stageJobOf s b i idx).2.mem = s.mem := by
  simp only [stageJobOf]
  (repeat' split) <;> simp

@[simp] theorem setStageJob_mem (s : State) (b : Binding) (idx : Nat) (v : Option StageJob) :
    (setStageJob s b idx v).mem = s.mem := by
  simp [setStageJob]

/-- A property of the state that a stage leaves. -/
def StageOut.after (p : State → Prop) : StageOut → Prop
  | .wait s _ => p s
  | .away s => p s
  | .done s _ _ => p s

theorem stagePass_memWf (b : Binding) (i : Instance') (idx : Nat) (q : StageQueue) (o : Option Nat)
    {r : StageOut}
    (h : r.after fun t => Memory.wf t.mem = true) : Memory.wf (stagePass b i idx q o r).mem = true := by
  cases r with
  | wait t j =>
    have h1 : Memory.wf t.mem = true := h
    simp only [stagePass]
    split <;> simp [h1]
  | away t =>
    have h1 : Memory.wf t.mem = true := h
    simp only [stagePass]
    split <;> simp [h1]
  | done t bs c =>
    have h1 : Memory.wf (setStageJob (dequeueFor t b q) b idx none).mem = true := by simpa [StageOut.after] using h
    cases o with
    | none => exact h1
    | some o =>
      simp only [stagePass]
      cases e : enqueueFor (setStageJob (dequeueFor t b q) b idx none) b o bs c with
      | none => exact h1
      | some u => exact enqueueFor_memWf h1 _ _ _ _ e

/-- KIND 4 keeps memory canonical. -/
theorem stageCopy_memWf {s : State} (h : Memory.wf s.mem = true) (b : Binding) (i : Instance') (idx : Nat)
    (bs : List Byte) : (stageCopy s b i idx bs).after fun t => Memory.wf t.mem = true := by
  have h1 : Memory.wf (stageJobOf s b i idx).2.mem = true := by simpa using h
  unfold stageCopy
  dsimp only
  generalize stageJobOf s b i idx = x at h1 ⊢
  obtain ⟨j, s1⟩ := x
  dsimp only at h1 ⊢
  split
  · exact h
  · split
    · exact copyLaunch_memWf h1 _ _
    · have hc := fun g n k st => copyBlocks_memWf j g n k h1 st
      split
      · next e => exact (congrArg (CopyOut.after fun t => Memory.wf t.mem = true) e).mp (hc _ _ _ _)
      · next e => exact (congrArg (CopyOut.after fun t => Memory.wf t.mem = true) e).mp (hc _ _ _ _)
      · next e => exact (congrArg (CopyOut.after fun t => Memory.wf t.mem = true) e).mp (hc _ _ _ _)

/-- A stage's compute job keeps memory canonical. -/
theorem stageCompute_memWf {s : State} (h : Memory.wf s.mem = true) (j : Job) (major : BitVec 6)
    (aaddr jw : Word)
    (sa sb : BitVec 8) (bs : List Byte) :
    (stageCompute s j major aaddr jw sa sb bs).after fun t => Memory.wf t.mem = true := by
  have hd := doCompute_memWf h j major aaddr jw sa sb
  unfold stageCompute
  split <;> next e => rw [e] at hd; exact hd

/-- KIND 5 on this cluster keeps memory canonical. -/
theorem stageHere_memWf {s : State} (h : Memory.wf s.mem = true) (b : Binding) (i : Instance') (bs : List Byte)
    :
    (stageHere s b i bs).after fun t => Memory.wf t.mem = true := by
  have hr := fun ea => engRead_mem s i.xroot .h ea 32
  unfold stageHere
  dsimp only
  split
  · exact h
  · split
    · exact h
    · split
      · next e => exact (congrArg Memory.wf (EngOut.of_held (hr _) e)).trans h
      · next e => exact (congrArg Memory.wf (EngOut.of_fault (hr _) e)).trans h
      · next s1 ds e =>
        have h1 : Memory.wf s1.mem = true := (congrArg Memory.wf (EngOut.of_ok (hr _) e)).trans h
        split
        · exact h1
        · split
          · exact h1
          · exact stageCompute_memWf (by simpa using h1) _ _ _ _ _ _ _

/-- KIND 5 keeps memory canonical. -/
theorem stageMatrix_memWf {s : State} (h : Memory.wf s.mem = true) (b : Binding) (i : Instance') (idx m : Nat)
    (bs : List Byte) : (stageMatrix s b i idx m bs).after fun t => Memory.wf t.mem = true := by
  unfold stageMatrix
  split
  · exact h
  · exact h
  · split
    · exact stageCompute_memWf h _ _ _ _ _ _ _
    · exact h
  · split
    · exact stageHere_memWf h _ _ _
    · exact h

/-- What a stage makes of an entry keeps memory canonical. -/
theorem stageOut_memWf {s : State} (h : Memory.wf s.mem = true) (b : Binding) (i : Instance') (idx : Nat)
    (r : BitVec 192)
    (bs : List Byte) (c : Option (BitVec 28)) : (stageOut s b i idx r bs c).after fun t => Memory.wf t.mem = true := by
  cases c with
  | some c => exact h
  | none =>
    simp only [stageOut]
    split
    · exact stageCopy_memWf h _ _ _ _
    · exact stageMatrix_memWf h _ _ _ _ _

@[simp] theorem stepStage_memWf {s : State} (h : Memory.wf s.mem = true) (b : Binding) (i : Instance')
    (idx : Nat)
    (r : BitVec 192) : Memory.wf (stepStage b i idx r s).mem = true := by
  simp only [stepStage]
  split
  · exact h
  · split
    · exact h
    · exact stagePass_memWf _ _ _ _ _ (stageOut_memWf h _ _ _ _ _ _)

@[simp] theorem stepStages_memWf {s : State} (h : Memory.wf s.mem = true) (b : Binding) (i : Instance')
    (x : Nat) (y : List (BitVec 192)) : Memory.wf (stepStages b i x y s).mem = true := by
  fun_induction stepStages <;> grind [stepStage_memWf, Memory.putBytes_wf]

@[simp] theorem bankEnqueue_memWf {s : State} (h : Memory.wf s.mem = true) (i : Instance') (b : Binding)
    (c : Consumer) (bs : List Byte) (code : Option (BitVec 28)) :
        Memory.wf (bankEnqueue s i b c bs code).mem = true := by
  simp only [bankEnqueue]
  grind [setInst_mem, → enqueueFor_memWf, Memory.putBytes_wf]

@[simp] theorem failOwed_memWf {s : State} (h : Memory.wf s.mem = true) (inst place n : Nat) :
    Memory.wf (failOwed inst place n s).mem = true := by
  induction n generalizing s with
  | zero => exact h
  | succ n ih =>
    simp only [failOwed]
    (repeat' split) <;> first | exact h | exact ih (bankEnqueue_memWf h _ _ _ _ _)

@[simp] theorem stageStep_memWf {s : State} (h : Memory.wf s.mem = true) (inst : Nat) (place : Nat) :
    Memory.wf (stageStep s inst place).mem = true := by
  simp only [stageStep]
  split
  · refine stepStages_memWf ?_ _ _ _ _
    split
    · split
      · exact failOwed_memWf (by simp [h]) _ _ _
      · exact h
    · exact h
  · exact h

@[simp] theorem writeRows_memWf {s : State} (h : Memory.wf s.mem = true) (x : List (Word × List Byte)) :
    Memory.wf (writeRows s x).mem = true := by
  fun_induction writeRows <;> simp_all

theorem execBankStageEnqueue_memWf {s : State} (h : Memory.wf s.mem = true) {post : State}
    (e : execBankStageEnqueue s = .next post) : Memory.wf post.mem = true := by
  simp only [execBankStageEnqueue] at e
  cases e
  (repeat' split) <;> simp [h]

/-- The state that a result leaves, written or failed. -/
theorem writeVia_memWf {s : State} (h : Memory.wf s.mem = true) (pages : List (Nat × Place)) (ea v : Nat) :
    (∀ t, writeVia s pages ea v = .ok t → Memory.wf t.mem = true)
    ∧ (∀ f, writeVia s pages ea v = .error f → Memory.wf f.1.mem = true) := by
  simp only [writeVia]
  split
  · exact ⟨fun _ e => by simp at e, fun f e => by cases e; exact h⟩
  · next p _ =>
    split
    · exact ⟨fun _ e => by simp at e, fun f e => by cases e; exact h⟩
    · next pa _ =>
      have hs := storeAt_memWf h pa 4 v p.layout
      split
      · next e1 => rw [e1] at hs; exact ⟨fun t e => by cases e; exact hs, fun _ e => by simp at e⟩
      · next e1 => rw [e1] at hs; exact ⟨fun _ e => by simp at e, fun f e => by cases e; exact hs⟩

theorem readVia_keeps (s : State) (pages : List (Nat × Place)) (ea n : Nat) : FailKeeps s (readVia s pages ea n) := by
  induction n generalizing ea with
  | zero => exact .ok s _
  | succ n ih =>
    simp only [readVia]
    split
    · exact .error rfl _
    · split
      · exact .error rfl _
      · split
        · exact .error (logEcc_mem _ _ _) _
        · exact (ih _).map _

theorem segRow_keeps (s : State) (i : Instance') (e : BitVec 512) (r : BitVec 192) (a : List MBlock) (row : Nat)
    (st : FEnv) : FailKeeps s (segRow s i e r a row st) := by
  unfold segRow
  refine .bind (readVia_keeps s _ _ _) fun bs => ?_
  dsimp only
  split
  · exact .bind (.ok s _) fun sc => .ok s _
  · exact .bind (readVia_keeps s _ _ _) fun sc => .ok s _

@[simp] theorem segRows_memWf {s : State} (h : Memory.wf s.mem = true) (i : Instance')
    (pages : List (Nat × Place)) (e : BitVec 512) (r : BitVec 192) (a : List MBlock) (x : Nat) (y : Nat) (z : Nat)
        (w : FEnv) : Memory.wf (segRows i pages e r a x y z s w).1.mem = true := by
  induction x generalizing y z s w with
  | zero => exact h
  | succ n ih =>
    have hr := segRow_keeps s i e r a y w
    simp only [segRows]
    split
    · next e1 => exact ih ((hr _ e1) ▸ h) _ _ _
    · next v st1 _ =>
      have hw := writeVia_memWf h pages z v
      split
      · next e2 => exact ih (hw.2 _ e2) _ _ _
      · next e2 => exact ih (hw.1 _ e2) _ _ _

@[simp] theorem consumeSegment_memWf {s : State} (h : Memory.wf s.mem = true) (inst : Nat) (place : Nat) :
    Memory.wf (consumeSegment s inst place).mem = true := by
  simp only [consumeSegment]
  (repeat' split) <;> simp [h]

@[simp] theorem placeImage_memWf {s : State} (h : Memory.wf s.mem = true) (i : Instance') (c : Consumer)
    (r : BitVec 192) : Memory.wf (placeImage s i c r).mem = true :=
  foldl_memWf _ (fun _ _ ht => loadSlot_memWf ht _ _ _ _) _ h

@[simp] theorem placeImages_memWf {s : State} (h : Memory.wf s.mem = true) (i : Instance') (x : List Consumer) :
    Memory.wf (placeImages i x s).mem = true := by
  fun_induction placeImages <;> grind [placeImage_memWf, Memory.putBytes_wf]

@[simp] theorem openGate_memWf {s : State} (h : Memory.wf s.mem = true) (i : Instance') :
    Memory.wf (openGate s i).mem = true := by
  simp only [openGate]
  (repeat' split) <;> simp [h]

@[simp] theorem tryGate_memWf {s : State} (h : Memory.wf s.mem = true) (i : Instance') :
    Memory.wf (tryGate s i).mem = true := by
  simp only [tryGate]
  (repeat' split) <;> simp [h]

@[simp] theorem startSegment_memWf {s : State} (h : Memory.wf s.mem = true) (i : Instance') :
    Memory.wf (startSegment s i).mem = true := by
  simp only [startSegment]
  (repeat' split) <;> simp [h]

theorem execSegmentStart_memWf {s : State} (h : Memory.wf s.mem = true) {post : State}
    (e : execSegmentStart s = .next post) : Memory.wf post.mem = true := by
  simp only [execSegmentStart] at e
  cases e
  (repeat' split) <;> simp [h]

theorem execGateDeadline_memWf {s : State} (h : Memory.wf s.mem = true) {post : State}
    (e : execGateDeadline s = .next post) : Memory.wf post.mem = true := by
  simp only [execGateDeadline] at e
  cases e
  (repeat' split) <;> simp [h]

@[simp] theorem consumeAll_memWf {s : State} (h : Memory.wf s.mem = true) (inst : Nat) (x : List Consumer) :
    Memory.wf (consumeAll inst x s).mem = true := by
  fun_induction consumeAll <;> grind [consumeSegment_memWf, Memory.putBytes_wf]

theorem execSegmentEnd_memWf {s : State} (h : Memory.wf s.mem = true) {post : State}
    (e : execSegmentEnd s = .next post) : Memory.wf post.mem = true := by
  simp only [execSegmentEnd] at e
  cases e
  (repeat' split) <;> simp [h]

@[simp] theorem rebindCores_memWf {s : State} (h : Memory.wf s.mem = true) (b : Binding) (stage : Nat)
    (x : List W32) : Memory.wf (rebindCores b stage x s).mem = true := by
  fun_induction rebindCores <;> simp_all

@[simp] theorem govern_memWf {s : State} (h : Memory.wf s.mem = true) (samples : Nat) (x : List Nat)
    (y : List Nat) (z : Binding) : Memory.wf (govern samples x y z s).2.mem = true := by
  fun_induction govern <;> simp_all

@[simp] theorem governAll_memWf {s : State} (h : Memory.wf s.mem = true) (samples : Nat) (x : List Binding) :
    Memory.wf (governAll samples x s).mem = true := by
  fun_induction governAll <;> grind [govern_memWf, Memory.putBytes_wf]

theorem execGovernorSample_memWf {s : State} (h : Memory.wf s.mem = true) {post : State}
    (e : execGovernorSample s = .next post) : Memory.wf post.mem = true := by
  unfold execGovernorSample at e
  have e1 := Host.Outcome.next.inj e
  clear e
  revert e1
  generalize s.event = ev
  rcases ev with _ | m
  · rintro rfl; exact h
  · cases m <;> rintro rfl <;> first | exact h | exact holdEvent_memWf h _ | (show Memory.wf (armGovernor (governAll _ _ _)).mem = true; rw [armGovernor_mem]; refine governAll_memWf ?_ _ _; exact h)

end Sys2Proof.Machine
end

