-- ==== Sys2Proof/Laws/KeepExchange.lean ====
section
/-!
SUPPORT. Every operation of Machine/Exchange.lean keeps the canonical form of memory.
-/

namespace Sys2Proof.Machine

@[simp] theorem setPhase_mem (s : State) (p : Phase) : (setPhase s p).mem = s.mem := by simp [setPhase]

@[simp] theorem modRuns_mem (s : State) (f : Run → Run) : (modRuns s f).mem = s.mem := by simp [modRuns]

@[simp] theorem endXph_memWf {s : State} (h : Memory.wf s.mem = true) (who : Option (BitVec 36 × BitVec 5))
    (w : Word) : Memory.wf (endXph s who w).mem = true := by
  simp only [endXph]
  (repeat' split) <;> simp [h]

@[simp] theorem failGather_memWf {s : State} (h : Memory.wf s.mem = true) (gid : BitVec 12) (detail : BitVec 28)
    (notice : Bool) : Memory.wf (failGather s gid detail notice).mem = true := by
  simp only [failGather]
  (repeat' split) <;> simp [h]

@[simp] theorem applyRelease_memWf {s : State} (h : Memory.wf s.mem = true) (gid : BitVec 12) (tick : Nat)
    (seq : BitVec 32) (fail : BitVec 28) : Memory.wf (applyRelease s gid tick seq fail).mem = true := by
  simp only [applyRelease]
  (repeat' split) <;> simp [h]

@[simp] theorem decidePhase_memWf {s : State} (h : Memory.wf s.mem = true) (rec : Nat) (gid : BitVec 12) :
    Memory.wf (decidePhase s rec gid).mem = true := by
  simp only [decidePhase]
  (repeat' split) <;> simp [h]

@[simp] theorem leaderArrive_memWf {s : State} (h : Memory.wf s.mem = true) (rec : Nat) (gid : BitVec 12)
    (dev : BitVec 12) (len : Nat) (sc : Bool) (scope : Word) (breach : Bool) :
        Memory.wf (leaderArrive s rec gid dev len sc scope breach).mem = true := by
  simp only [leaderArrive]
  (repeat' split) <;> simp [h]

@[simp] theorem moduleArrive_memWf {s : State} (h : Memory.wf s.mem = true) (rec : Nat) (gid : BitVec 12) :
    Memory.wf (moduleArrive s rec gid).mem = true := by
  simp only [moduleArrive]
  (repeat' split) <;> simp [h]

@[simp] theorem countXph_memWf {s : State} (h : Memory.wf s.mem = true) (rec : Nat) (gid : BitVec 12)
    (who : Option (BitVec 36 × BitVec 5)) (len : Nat) (sc : Bool) (scope : Word) :
        Memory.wf (countXph s rec gid who len sc scope).mem = true := by
  simp only [countXph]
  (repeat' split) <;> simp [h]

theorem execXph_memWf {s : State} (h : Memory.wf s.mem = true) (d : BitVec 5) (a : BitVec 5) (b : BitVec 5)
    {post : State} (e : execXph d a b s = .next post) : Memory.wf post.mem = true := by
  simp only [execXph] at e
  cases e
  (repeat' split) <;> simp [h]

theorem execPhaseArrival_memWf {s : State} (h : Memory.wf s.mem = true) {post : State}
    (e : execPhaseArrival s = .next post) : Memory.wf post.mem = true := by
  simp only [execPhaseArrival] at e
  cases e
  (repeat' split) <;> simp [h]

theorem execPhaseRelease_memWf {s : State} (h : Memory.wf s.mem = true) {post : State}
    (e : execPhaseRelease s = .next post) : Memory.wf post.mem = true := by
  simp only [execPhaseRelease] at e
  cases e
  (repeat' split) <;> simp [h]

theorem execArrivalTimeout_memWf {s : State} (h : Memory.wf s.mem = true) {post : State}
    (e : execArrivalTimeout s = .next post) : Memory.wf post.mem = true := by
  simp only [execArrivalTimeout] at e
  cases e
  (repeat' split) <;> simp [h]

@[simp] theorem startRun_memWf {s : State} (h : Memory.wf s.mem = true) (r : Run) :
    Memory.wf (startRun s r).mem = true := by
  simp only [startRun]
  (repeat' split) <;> simp [h]

theorem execStartTick_memWf {s : State} (h : Memory.wf s.mem = true) {post : State}
    (e : execStartTick s = .next post) : Memory.wf post.mem = true := by
  simp only [execStartTick] at e
  cases e
  (repeat' split) <;> simp [h]

theorem execPhaseEnd_mem {s : State} {post : State} (e : execPhaseEnd s = .next post) : post.mem = s.mem := by
  simp only [execPhaseEnd] at e
  cases e
  (repeat' split) <;> simp

theorem execFailureNotice_memWf {s : State} (h : Memory.wf s.mem = true) {post : State}
    (e : execFailureNotice s = .next post) : Memory.wf post.mem = true := by
  simp only [execFailureNotice] at e
  cases e
  (repeat' split) <;> simp [h]

@[simp] theorem setEntry_mem (s : State) (x : Entry) : (setEntry s x).mem = s.mem := by simp [setEntry]

@[simp] theorem markMet_mem (s : State) (w : XWord) : (markMet w s).mem = s.mem := by
  refine foldl_mem _ (fun t sel => ?_) _ _
  dsimp only
  split
  · rfl
  · split <;> simp

@[simp] theorem takeOutput_mem (s : State) (k : Word) (p : BitVec 5) (w : XWord) :
    (takeOutput s k p w).1.mem = s.mem := by
  simp only [takeOutput]
  split
  · rfl
  · split
    · rfl
    · dsimp only
      rw [foldl_mem _ (fun t o => by simp)]
      simp

@[simp] theorem takePath_mem (s : State) (x : List (Word × BitVec 5)) (y : XWord) :
    (takePath x s y).1.mem = s.mem := by
  fun_induction takePath <;> grind [takeOutput_mem]

@[simp] theorem toEntry_mem (s : State) (e : Word) (port : Nat) (w : XWord) :
    (toEntry s e port w).mem = s.mem := by
  simp [toEntry]

@[simp] theorem emit_mem (s : State) (e : Word) (w : XWord) (port : Nat) : (emit s e w port).mem = s.mem := by
  simp only [emit]
  (repeat' split) <;> simp

@[simp] theorem emitAll_mem (s : State) (e : Word) (mask : Nat) (w : XWord) :
    (emitAll e mask w s).mem = s.mem :=
  foldl_mem _ (fun t p => emit_mem t e w p) _ _

@[simp] theorem inward_mem (s : State) (e : Word) (ws : List (Nat × XWord)) : (inward s e ws).mem = s.mem := by
  have h1 (c : Prop) [Decidable c] (g d) : (if c then failRun s g d else s).mem = s.mem := by split <;> simp
  simp only [inward]
  split
  · rfl
  · split
    · exact h1 _ _ _
    · split
      · simp [h1]
      · split
        · rw [foldl_mem _ (fun t p => emitAll_mem t _ _ _)]
          exact h1 _ _ _
        · split
          · simp [h1]
          · split <;> simp [h1]

@[simp] theorem reachEntry_mem (s : State) (e : Word) (port : BitVec 5) (w : XWord) :
    (reachEntry s e port w).mem = s.mem := by
  simp only [reachEntry]
  (repeat' split) <;> simp

theorem execCombine_mem {s : State} {post : State} (e : execCombine s = .next post) : post.mem = s.mem := by
  simp only [execCombine] at e
  cases e
  (repeat' split) <;> simp

theorem execMarkerStep_mem {s : State} {post : State} (e : execMarkerStep s = .next post) :
    post.mem = s.mem := by
  simp only [execMarkerStep] at e
  cases e
  (repeat' split) <;> simp

theorem execWordDelivery_mem {s : State} {post : State} (e : execWordDelivery s = .next post) :
    post.mem = s.mem := by
  simp only [execWordDelivery] at e
  cases e
  (repeat' split) <;> simp

@[simp] theorem countWord_mem (s : State) : (countWord s).mem = s.mem := by simp [countWord]

@[simp] theorem inject_mem (s : State) (value : Word) (route : Word) (marker : Bool) :
    (inject s value route marker).mem = s.mem := by
  simp only [inject]
  (repeat' split) <;> simp

theorem sendAt_memWf {s : State} (h : Memory.wf s.mem = true) (cycle : Nat) (value route : Word) (marker : Bool)
    (done : State → Word → State) (hd : ∀ t x, Memory.wf t.mem = true → Memory.wf (done t x).mem = true) :
    Memory.wf (sendAt s cycle value route marker done).mem = true := by
  simp only [sendAt]
  (repeat' split) <;> simp [h, hd]

theorem execXsnd_memWf {s : State} (h : Memory.wf s.mem = true) (d : BitVec 5) (a : BitVec 5) (b : BitVec 5)
    (c : BitVec 5) {post : State} (e : execXsnd d a b c s = .next post) : Memory.wf post.mem = true := by
  simp only [execXsnd] at e
  grind [wg_mem, trap_memWf, sendAt_memWf, Memory.putBytes_wf]

theorem execXmrk_memWf {s : State} (h : Memory.wf s.mem = true) (a : BitVec 5) (b : BitVec 5) {post : State}
    (e : execXmrk a b s = .next post) : Memory.wf post.mem = true := by
  simp only [execXmrk] at e
  grind [trap_memWf, sendAt_memWf, Memory.putBytes_wf]

theorem execXrcv_memWf {s : State} (h : Memory.wf s.mem = true) (d : BitVec 5) (a : BitVec 5) (b : BitVec 5)
    (c : BitVec 5) {post : State} (e : execXrcv d a b c s = .next post) : Memory.wf post.mem = true := by
  simp only [execXrcv] at e
  cases e
  (repeat' split) <;> simp [h]

theorem execXend_memWf {s : State} (h : Memory.wf s.mem = true) (d : BitVec 5) {post : State}
    (e : execXend d s = .next post) : Memory.wf post.mem = true := by
  simp only [execXend] at e
  cases e
  (repeat' split) <;> simp [h]

theorem execXvs_memWf {s : State} (h : Memory.wf s.mem = true) (a b : BitVec 5) {post : State}
    (e : execXvs a b s = .next post) : Memory.wf post.mem = true := by
  have hc := checkSpan_mem .read 64 2 s (gv s b)
  simp only [execXvs, Host.Outcome.next.injEq] at e
  subst e
  split
  · simp [h]
  split
  · simp [h]
  split
  · next e => rw [e] at hc; exact trap_memWf (hc ▸ h) _ _
  · next e => rw [e] at hc; rw [stall_mem]; exact hc ▸ h
  · next s1 pas e =>
    rw [e] at hc
    have h1 : Memory.wf s1.mem = true := hc ▸ h
    (repeat' split) <;> simp [h1]

theorem execEntryReplace_mem {s : State} {post : State} (e : execEntryReplace s = .next post) :
    post.mem = s.mem := by
  simp only [execEntryReplace] at e
  cases e
  (repeat' split) <;> simp

end Sys2Proof.Machine
end

