-- ==== Sys2Proof/Laws/KeepBell.lean ====
section
/-!
SUPPORT. Every operation of Machine/Bell.lean keeps the canonical form of memory.
-/

namespace Sys2Proof.Machine

@[simp] theorem failAllRuns_mem (s : State) (detail : BitVec 28) : (failAllRuns detail s).mem = s.mem :=
  foldl_mem _ (fun t _ => failRun_mem t _ _) _ _

@[simp] theorem armEpoch_mem (s : State) : (armEpoch s).mem = s.mem := by
  simp only [armEpoch]
  (repeat' split) <;> simp

@[simp] theorem changeClock_mem (s : State) (n : Nat) : (changeClock s n).mem = s.mem := by
  simp only [changeClock]
  (repeat' split) <;> simp

@[simp] theorem applyCeil_mem (s : State) (r : BitVec 6) : (applyCeil s r).mem = s.mem := by
  simp only [applyCeil]
  (repeat' split) <;> simp

@[simp] theorem applyDue_mem (s : State) (k : Nat) (x : List (BitVec 6 × Nat)) :
    (applyDue k x s).mem = s.mem := by
  fun_induction applyDue <;> simp_all

@[simp] theorem clearGroups_mem (s : State) : (clearGroups s).mem = s.mem := by simp [clearGroups]

@[simp] theorem applyJoins_mem (s : State) (k : Nat) : (applyJoins k s).mem = s.mem := by
  simp only [applyJoins]
  (repeat' split) <;> simp

@[simp] theorem applyLeaves_mem (s : State) (k : Nat) : (applyLeaves k s).mem = s.mem := by
  simp only [applyLeaves]
  (repeat' split) <;> simp

@[simp] theorem dropAlong_mem (s : State) (x : List (Word × Nat)) : (dropAlong x s).mem = s.mem := by
  induction x generalizing s with
  | nil => rfl
  | cons x l ih =>
    simp only [dropAlong]
    (repeat' split) <;> simp [ih]

@[simp] theorem dropMember_mem (s : State) (dev : BitVec 12) : (dropMember s dev).mem = s.mem :=
  foldl_mem _ (fun t _ => dropAlong_mem t _) _ _

@[simp] theorem applySilence_mem (s : State) : (applySilence s).mem = s.mem := by
  simp only [applySilence]
  split
  · rfl
  · rw [failAllRuns_mem, foldl_mem _ (fun t d => dropMember_mem t d)]

theorem execEpochBoundary_mem {s : State} {post : State} (e : execEpochBoundary s = .next post) :
    post.mem = s.mem := by
  simp only [execEpochBoundary] at e
  cases e
  (repeat' split) <;> simp

@[simp] theorem takeResult_mem (s : State) (r : BitVec 6) (j : Nat) : (takeResult s r j).mem = s.mem := by
  simp [takeResult]

theorem execContributionCutoff_mem {s : State} {post : State} (e : execContributionCutoff s = .next post) :
    post.mem = s.mem := by
  simp only [execContributionCutoff] at e
  cases e
  (repeat' split) <;> simp

theorem execBellResult_mem {s : State} {post : State} (e : execBellResult s = .next post) :
    post.mem = s.mem := by
  simp only [execBellResult] at e
  cases e
  (repeat' split) <;> simp

theorem execClockSettle_mem {s : State} {post : State} (e : execClockSettle s = .next post) :
    post.mem = s.mem := by
  simp only [execClockSettle] at e
  cases e
  (repeat' split) <;> simp

theorem execJoin_mem {s : State} {post : State} (e : execJoin s = .next post) : post.mem = s.mem := by
  simp only [execJoin] at e
  cases e
  (repeat' split) <;> simp

theorem execLeave_mem {s : State} {post : State} (e : execLeave s = .next post) : post.mem = s.mem := by
  simp only [execLeave] at e
  cases e
  (repeat' split) <;> simp

@[simp] theorem breachTo_mem (s : State) (limit : BitVec 6) : (breachTo s limit).mem = s.mem := by
  simp only [breachTo]
  (repeat' split) <;> simp

@[simp] theorem controlN_mem (s : State) (limit : BitVec 6) : (controlN s limit).mem = s.mem := by
  simp only [controlN]
  (repeat' split) <;> simp

theorem execBreach_mem {s : State} {post : State} (e : execBreach s = .next post) : post.mem = s.mem := by
  simp only [execBreach] at e
  cases e
  (repeat' split) <;> simp

end Sys2Proof.Machine
end

