-- ==== Sys2Proof/Laws/KeepFabric.lean ====
section
/-!
SUPPORT. Every operation of Machine/Fabric.lean keeps the canonical form of memory.
-/

namespace Sys2Proof.Machine

theorem execHostAccess_memWf {s : State} (h : Memory.wf s.mem = true) {post : State}
    (e : execHostAccess s = .next post) : Memory.wf post.mem = true := by
  simp only [execHostAccess] at e
  grind [send_mem, out_mem, homeStep_memWf, engineLost_mem, engineServed_mem, Memory.putBytes_wf]

@[simp] theorem setPort_mem (s : State) (p : BitVec 5) (x : Port) : (setPort s p x).mem = s.mem := by
  simp [setPort]

@[simp] theorem failLink_mem (s : State) : (failLink s).mem = s.mem :=
  foldl_mem _ (fun t r => by split <;> simp) _ _

@[simp] theorem loseXvs_mem (s : State) (p : BitVec 5) (l : List (Fin 11)) : (loseXvs p l s).mem = s.mem := by
  induction l generalizing s with
  | nil => rfl
  | cons i l ih =>
    simp only [loseXvs]
    rw [ih]
    (repeat' split) <;> simp

@[simp] theorem loseCopies_mem (s : State) (p : BitVec 5) (l : List Job) : (loseCopies p l s).mem = s.mem := by
  induction l generalizing s with
  | nil => rfl
  | cons j l ih =>
    simp only [loseCopies]
    rw [ih]
    (repeat' split) <;> simp

@[simp] theorem portError_mem (s : State) (p : BitVec 5) : (portError s p).mem = s.mem := by
  simp only [portError]
  (repeat' split) <;> simp

@[simp] theorem portFault_mem (s : State) (p : BitVec 5) : (portFault s p).mem = s.mem := by
  simp only [portFault]
  (repeat' split) <;> simp

@[simp] theorem deliverFlits_mem (s : State) (p : BitVec 5) (x : List Flit) :
    (deliverFlits p x s).mem = s.mem := by
  fun_induction deliverFlits <;> simp_all

@[simp] theorem takeTag_mem (s : State) (p : BitVec 5) (x : Port) (tag : BitVec 128) :
    (takeTag s p x tag).mem = s.mem := by
  simp only [takeTag]
  (repeat' split) <;> simp

@[simp] theorem putFlit_mem (s : State) (p : BitVec 5) (vc : BitVec 3) (payload : BitVec 256)
    (tag : Option (BitVec 128)) : (putFlit s p vc payload tag).mem = s.mem := by
  simp [putFlit]

@[simp] theorem putTag_mem (s : State) (p : BitVec 5) (vc : BitVec 3) : (putTag s p vc).mem = s.mem := by
  simp [putTag]

@[simp] theorem sendOn_mem (s : State) (p : BitVec 5) (vc : BitVec 3) (payload : BitVec 256) (last : Bool) :
    (sendOn s p vc payload last).mem = s.mem := by
  simp only [sendOn]
  (repeat' split) <;> simp

@[simp] theorem sendFlit_mem (s : State) (p : BitVec 5) (vc : BitVec 3) (payload : BitVec 256) (last : Bool) :
    (sendFlit s p vc payload last).mem = s.mem := by
  simp only [sendFlit]
  (repeat' split) <;> simp

theorem execFlitReceive_mem {s : State} {post : State} (e : execFlitReceive s = .next post) :
    post.mem = s.mem := by
  simp only [execFlitReceive] at e
  cases e
  (repeat' split) <;> simp

@[simp] theorem resend_mem (s : State) (p : BitVec 5) (x : List Flit) : (resend p x s).mem = s.mem := by
  fun_induction resend <;> simp_all

theorem execReplayRequest_mem {s : State} {post : State} (e : execReplayRequest s = .next post) :
    post.mem = s.mem := by
  simp only [execReplayRequest] at e
  cases e
  (repeat' split) <;> simp

theorem execFecLockLoss_mem {s : State} {post : State} (e : execFecLockLoss s = .next post) :
    post.mem = s.mem := by
  simp only [execFecLockLoss] at e
  cases e
  (repeat' split) <;> simp

theorem execKeyExhaustion_mem {s : State} {post : State} (e : execKeyExhaustion s = .next post) :
    post.mem = s.mem := by
  simp only [execKeyExhaustion] at e
  cases e
  (repeat' split) <;> simp

theorem execLock_mem {s : State} {post : State} (e : execLock s = .next post) : post.mem = s.mem := by
  simp only [execLock] at e
  cases e
  (repeat' split) <;> simp

theorem execStart_mem {s : State} {post : State} (e : execStart s = .next post) : post.mem = s.mem := by
  simp only [execStart] at e
  cases e
  (repeat' split) <;> simp

theorem execManagementReset_mem {s : State} {post : State} (e : execManagementReset s = .next post) :
    post.mem = s.mem := by
  simp only [execManagementReset] at e
  cases e
  (repeat' split) <;> simp

theorem execLinkTraining_mem {s : State} {post : State} (e : execLinkTraining s = .next post) :
    post.mem = s.mem := by
  simp only [execLinkTraining] at e
  cases e
  (repeat' split) <;> simp

theorem execPortConfigurationWrite_mem {s : State} {post : State}
    (e : execPortConfigurationWrite s = .next post) : post.mem = s.mem := by
  simp only [execPortConfigurationWrite] at e
  cases e
  (repeat' split) <;> simp

@[simp] theorem alarmOne_mem (s : State) : (alarmOne s).mem = s.mem := by simp [alarmOne]

@[simp] theorem spdmStep_mem (s : State) (p : BitVec 5) (k : Nat) (ok : Bool) :
    (spdmStep s p k ok).mem = s.mem := by
  simp only [spdmStep]
  (repeat' split) <;> simp

theorem execGetVersion_mem {s : State} {post : State} (e : execGetVersion s = .next post) :
    post.mem = s.mem := by
  simp only [execGetVersion] at e
  cases e
  (repeat' split) <;> simp

theorem execGetCapabilities_mem {s : State} {post : State} (e : execGetCapabilities s = .next post) :
    post.mem = s.mem := by
  simp only [execGetCapabilities] at e
  cases e
  (repeat' split) <;> simp

theorem execNegotiateAlgorithms_mem {s : State} {post : State} (e : execNegotiateAlgorithms s = .next post) :
    post.mem = s.mem := by
  simp only [execNegotiateAlgorithms] at e
  cases e
  (repeat' split) <;> simp

theorem execGetDigests_mem {s : State} {post : State} (e : execGetDigests s = .next post) :
    post.mem = s.mem := by
  simp only [execGetDigests] at e
  cases e
  (repeat' split) <;> simp

theorem execGetCertificate_mem {s : State} {post : State} (e : execGetCertificate s = .next post) :
    post.mem = s.mem := by
  simp only [execGetCertificate] at e
  cases e
  (repeat' split) <;> simp

theorem execChallenge_mem {s : State} {post : State} (e : execChallenge s = .next post) : post.mem = s.mem := by
  simp only [execChallenge] at e
  cases e
  (repeat' split) <;> simp

theorem execGetMeasurements_mem {s : State} {post : State} (e : execGetMeasurements s = .next post) :
    post.mem = s.mem := by
  simp only [execGetMeasurements] at e
  cases e
  (repeat' split) <;> simp

theorem execKeyExchange_mem {s : State} {post : State} (e : execKeyExchange s = .next post) :
    post.mem = s.mem := by
  simp only [execKeyExchange] at e
  cases e
  (repeat' split) <;> simp

theorem execFinish_mem {s : State} {post : State} (e : execFinish s = .next post) : post.mem = s.mem := by
  simp only [execFinish] at e
  cases e
  (repeat' split) <;> simp

theorem execKeyUpdate_mem {s : State} {post : State} (e : execKeyUpdate s = .next post) : post.mem = s.mem := by
  simp only [execKeyUpdate] at e
  cases e
  (repeat' split) <;> simp

end Sys2Proof.Machine
end

