-- ==== Sys2Proof/Laws/KeepAgents.lean ====
section
/-!
SUPPORT. Every operation of Machine/Agents.lean keeps the canonical form of memory.
-/

namespace Sys2Proof.Machine

theorem execPageWalk_mem {s : State} {post : State} (e : execPageWalk s = .next post) : post.mem = s.mem := by
  simp only [execPageWalk] at e
  cases e
  (repeat' split) <;> simp

theorem execTlbInvalidation_mem {s : State} {post : State} (e : execTlbInvalidation s = .next post) :
    post.mem = s.mem := by
  simp only [execTlbInvalidation] at e
  cases e
  (repeat' split) <;> simp

@[simp] theorem notice_memWf {s : State} (h : Memory.wf s.mem = true) (page : Word) :
    Memory.wf (notice s page).mem = true := by
  simp [notice, h]

theorem execCompletionNotice_memWf {s : State} (h : Memory.wf s.mem = true) {post : State}
    (e : execCompletionNotice s = .next post) : Memory.wf post.mem = true := by
  simp only [execCompletionNotice] at e
  cases e
  (repeat' split) <;> simp [h]

@[simp] theorem setMig_memWf {s : State} (h : Memory.wf s.mem = true) (p : MigPage) :
    Memory.wf (setMig s p).mem = true := by
  simp only [setMig]
  (repeat' split) <;> simp [h]

theorem migCopy_memWf {s : State} (h : Memory.wf s.mem = true) (p : MigPage) (toDevice : Bool) {post : State}
    (e : migCopy s p toDevice = some post) : Memory.wf post.mem = true := by
  simp only [migCopy] at e
  (repeat' split at e) <;> cases e <;> simp_all

@[simp] theorem remoteMap_memWf {s : State} (h : Memory.wf s.mem = true) (p : MigPage) :
    Memory.wf (remoteMap s p).mem = true := by
  simp only [remoteMap]
  (repeat' split) <;> simp [h]

@[simp] theorem movePage_memWf {s : State} (h : Memory.wf s.mem = true) (p : MigPage) (toDevice : Bool) :
    Memory.wf (movePage s p toDevice).mem = true := by
  simp only [movePage]
  grind [setMig_memWf, → migCopy_memWf, Memory.putBytes_wf]

@[simp] theorem migrateOne_memWf {s : State} (h : Memory.wf s.mem = true) (p : MigPage) (toDevice : Bool) :
    Memory.wf (migrateOne s p toDevice).mem = true := by
  simp only [migrateOne]
  (repeat' split) <;> simp [h]

@[simp] theorem migNotice_mem (s : State) (va : Word) (x : Agent) : (migNotice s va x).mem = s.mem := by
  simp only [migNotice]
  (repeat' split) <;> simp

@[simp] theorem migrate_memWf {s : State} (h : Memory.wf s.mem = true) (va : Word) (src : Agent) (pte : Word)
    (place : Word) : Memory.wf (migrate s va src pte place).mem = true := by
  simp only [migrate]
  (repeat' split) <;> simp [h]

theorem execMigrationRequest_memWf {s : State} (h : Memory.wf s.mem = true) {post : State}
    (e : execMigrationRequest s = .next post) : Memory.wf post.mem = true := by
  simp only [execMigrationRequest] at e
  cases e
  (repeat' split) <;> simp [h]

theorem execPinrExpiry_memWf {s : State} (h : Memory.wf s.mem = true) {post : State}
    (e : execPinrExpiry s = .next post) : Memory.wf post.mem = true := by
  simp only [execPinrExpiry] at e
  cases e
  (repeat' split) <;> simp [h]

@[simp] theorem setLease_mem (s : State) (l : Lease) : (setLease s l).mem = s.mem := by simp [setLease]

@[simp] theorem demotionEvent_memWf {s : State} (h : Memory.wf s.mem = true) (core : BitVec 32) (id : BitVec 12)
    (done : Bool) (failed bitmap : Nat) : Memory.wf (demotionEvent s core id done failed bitmap).mem = true := by
  simp only [demotionEvent]
  (repeat' split) <;> simp [h]

@[simp] theorem leaseEvent_memWf {s : State} (h : Memory.wf s.mem = true) (l : Lease) (done : Bool) :
    Memory.wf (leaseEvent s l done).mem = true :=
  demotionEvent_memWf h _ _ _ _ _

theorem execLeaseSetup_mem {s : State} {post : State} (e : execLeaseSetup s = .next post) :
    post.mem = s.mem := by
  simp only [execLeaseSetup] at e
  cases e
  (repeat' split) <;> simp

@[simp] theorem demoteFrom_mem (s : State) (id : BitVec 12) (total : Nat) (x : Nat) (y : Nat) :
    (demoteFrom id total x y s).mem = s.mem := by
  fun_induction demoteFrom <;> simp_all

@[simp] theorem clearBitmap_memWf {s : State} (h : Memory.wf s.mem = true) (l : Lease) :
    Memory.wf (clearBitmap s l).mem = true := by
  simp only [clearBitmap]
  (repeat' split) <;> simp [h]

@[simp] theorem failPage_memWf {s : State} (h : Memory.wf s.mem = true) (l : Lease) (page : Nat) :
    Memory.wf (failPage s l page).mem = true := by
  simp only [failPage]
  (repeat' split) <;> simp [h]

theorem execReclaim_memWf {s : State} (h : Memory.wf s.mem = true) {post : State}
    (e : execReclaim s = .next post) : Memory.wf post.mem = true := by
  simp only [execReclaim] at e
  cases e
  (repeat' split) <;> simp [h]

theorem copyPage_memWf {s : State} (h : Memory.wf s.mem = true) (l : Lease) (page : Nat) {post : State}
    (e : copyPage s l page = some post) : Memory.wf post.mem = true := by
  simp only [copyPage] at e
  (repeat' split at e) <;> cases e <;> simp_all

theorem execDemotionPageCopy_memWf {s : State} (h : Memory.wf s.mem = true) {post : State}
    (e : execDemotionPageCopy s = .next post) : Memory.wf post.mem = true := by
  simp only [execDemotionPageCopy] at e
  grind [send_mem, out_mem, setLease_mem, leaseEvent_memWf, demoteFrom_mem, failPage_memWf, → copyPage_memWf,
      Memory.putBytes_wf]

theorem execLeaseAcknowledgement_mem {s : State} {post : State} (e : execLeaseAcknowledgement s = .next post) :
    post.mem = s.mem := by
  simp only [execLeaseAcknowledgement] at e
  cases e
  (repeat' split) <;> simp

theorem execBoundReached_mem {s : State} {post : State} (e : execBoundReached s = .next post) :
    post.mem = s.mem := by
  simp only [execBoundReached] at e
  cases e
  (repeat' split) <;> simp

end Sys2Proof.Machine
end

