-- ==== Sys2Proof/Laws/KeepInterrupt.lean ====
section
/-!
SUPPORT. Every operation of Machine/Interrupt.lean keeps the canonical form of memory.
-/

namespace Sys2Proof.Machine

theorem execFetchCheck_memWf {s : State} (h : Memory.wf s.mem = true) {post : State}
    (e : execFetchCheck s = .next post) : Memory.wf post.mem = true := by
  simp only [execFetchCheck] at e
  cases e
  (repeat' split) <;> simp [h]

theorem execIllegalInstructionWord_memWf {s : State} (h : Memory.wf s.mem = true) {post : State}
    (e : execIllegalInstructionWord s = .next post) : Memory.wf post.mem = true := by
  cases e
  simp [h]

@[simp] theorem enterUpcall_memWf {s : State} (h : Memory.wf s.mem = true) (cause : Word) (tval : Word)
    (slot : Nat) : Memory.wf (enterUpcall s cause tval slot).mem = true := by
  simp [enterUpcall, h]

@[simp] theorem dropEvent_memWf {s : State} (h : Memory.wf s.mem = true) :
    Memory.wf (dropEvent s).mem = true := by
  simp only [dropEvent]
  split <;> simp [h]

@[simp] theorem takeUpcall_memWf {s0 : State} (h : Memory.wf s0.mem = true) :
    Memory.wf (takeUpcall s0).mem = true := by
  simp only [takeUpcall]
  (repeat' split) <;> simp [h]

theorem execTakeUpcall_memWf {s : State} (h : Memory.wf s.mem = true) {post : State}
    (e : execTakeUpcall s = .next post) : Memory.wf post.mem = true := by
  cases e
  simp [h]

@[simp] theorem leaveXph_mem (s : State) (i : Fin 11) : (leaveXph s i).mem = s.mem := by
  simp only [leaveXph]
  (repeat' split) <;> simp

@[simp] theorem leaveAll_mem (s : State) (l : List (Fin 11)) : (leaveAll l s).mem = s.mem :=
  (foldl_mem endLlk endLlk_mem l _).trans (foldl_mem leaveXph leaveXph_mem l s)

@[simp] theorem preemptSaved_memWf {s : State} (h : Memory.wf s.mem = true) :
    Memory.wf (preemptSaved s).mem = true := by
  simp only [preemptSaved]
  split
  · next t e =>
    obtain ⟨u, hu, ht⟩ := Option.bind_eq_some_iff.mp e
    simp [writeHeader_memWf (writeFrames_memWf h _ hu) _ ht]
  · exact machineCheck_memWf h _ _ _

@[simp] theorem preemptNow_memWf {s : State} (h : Memory.wf s.mem = true) :
    Memory.wf (preemptNow s).mem = true := by
  simp [preemptNow, h]

theorem execPreempt_memWf {s : State} (h : Memory.wf s.mem = true) {post : State}
    (e : execPreempt s = .next post) : Memory.wf post.mem = true := by
  simp only [execPreempt] at e
  cases e
  (repeat' split) <;> simp [h]

theorem readHeader_mem {s : State} {post : State} (e : readHeader s = some post) : post.mem = s.mem := by
  obtain ⟨pa, -, rfl⟩ := Option.map_eq_some_iff.mp e
  simp

@[simp] theorem reloadFrames_memWf {s : State} (h : Memory.wf s.mem = true) (x : List (Fin 11)) :
    Memory.wf (reloadFrames x s).mem = true := by
  fun_induction reloadFrames <;> grind [reloadFrame_memWf, Memory.putBytes_wf]

@[simp] theorem resumeCore_memWf {s : State} (h : Memory.wf s.mem = true) :
    Memory.wf (resumeCore s).mem = true := by
  simp only [resumeCore]
  (repeat' split) <;> simp [h]

theorem execResume_memWf {s : State} (h : Memory.wf s.mem = true) {post : State}
    (e : execResume s = .next post) : Memory.wf post.mem = true := by
  simp only [execResume] at e
  grind [out_mem, machineCheck_memWf, → readHeader_mem, reloadFrames_memWf, resumeCore_memWf,
      Memory.putBytes_wf]

theorem execSresume_memWf {s : State} (h : Memory.wf s.mem = true) {post : State}
    (e : execSresume s = .next post) : Memory.wf post.mem = true := by
  simp only [execSresume] at e
  cases e
  (repeat' split) <;> simp [h]

@[simp] theorem holdSlot_memWf {s : State} (h : Memory.wf s.mem = true) (i : Fin 11) :
    Memory.wf (holdSlot s i).mem = true := by
  simp only [holdSlot]
  grind [State.setAt_mem, send_mem, → writeFrame_memWf, endLlk_mem, machineCheck_memWf, failPhase_mem,
      leaveXph_mem, Memory.putBytes_wf]

theorem execHold_memWf {s : State} (h : Memory.wf s.mem = true) {post : State} (e : execHold s = .next post) :
    Memory.wf post.mem = true := by
  simp only [execHold] at e
  cases e
  (repeat' split) <;> simp [h]

@[simp] theorem unholdSlot_memWf {s : State} (h : Memory.wf s.mem = true) (i : Fin 11) :
    Memory.wf (unholdSlot s i).mem = true := by
  simp [unholdSlot, h]

theorem execUnhold_memWf {s : State} (h : Memory.wf s.mem = true) {post : State}
    (e : execUnhold s = .next post) : Memory.wf post.mem = true := by
  simp only [execUnhold] at e
  cases e
  (repeat' split) <;> simp [h]

theorem execRestart_memWf {s : State} (h : Memory.wf s.mem = true) {post : State}
    (e : execRestart s = .next post) : Memory.wf post.mem = true := by
  simp only [execRestart] at e
  grind [State.modCore_mem, machineCheck_memWf, enterSystem_memWf, reloadFrame_memWf, → readHeader_mem,
      reloadFrames_memWf, resumeCore_memWf, Memory.putBytes_wf]

end Sys2Proof.Machine
end

