-- ==== Sys2Proof/Laws/KeepService.lean ====
section
/-!
SUPPORT. Every operation of Machine/Service.lean keeps the canonical form of memory.
-/

namespace Sys2Proof.Machine

@[simp] theorem fenced_mem (s : State) (u : FenceUnit) : (fenced s u).mem = s.mem := by
  simp only [fenced]
  (repeat' split) <;> simp

@[simp] theorem failConsumer_memWf {s : State} (h : Memory.wf s.mem = true) (i : Instance') (c : Consumer) :
    Memory.wf (failConsumer i c s).mem = true := by
  simp [failConsumer, h]

@[simp] theorem failEnd_memWf {s : State} (h : Memory.wf s.mem = true) (i : Instance') (code : BitVec 28) :
    Memory.wf (failEnd s i code).mem = true := by
  simp only [failEnd]
  (repeat' split) <;> simp [h]

@[simp] theorem failInstances_memWf {s : State} (h : Memory.wf s.mem = true) (c : Nat) (l : List Instance') :
    Memory.wf (failInstances c l s).mem = true := by
  induction l generalizing s with
  | nil => exact h
  | cons i l ih =>
    have h1 : Memory.wf (i.consumers.foldl (fun t x => failConsumer i x t) s).mem = true :=
      foldl_memWf _ (fun t x ht => failConsumer_memWf ht _ _) _ h
    simp only [failInstances]
    split
    · refine ih (failEnd_memWf ?_ _ _)
      split
      · simpa using h1
      · exact h1
    · exact ih h

@[simp] theorem startFence_memWf {s : State} (h : Memory.wf s.mem = true) (u : FenceUnit) :
    Memory.wf (startFence s u).mem = true := by
  cases u with
  | core n => simpa [startFence] using h
  | cluster m =>
    simp only [startFence]
    rw [foldl_mem _ (fun t k => by split <;> simp)]
    simpa using h
  | channel c => simp [startFence, h]
  | port p =>
    simp only [startFence]
    split <;> simp [h]

@[simp] theorem clusterToo_memWf {s : State} (h : Memory.wf s.mem = true) (u : FenceUnit) :
    Memory.wf (clusterToo s u).mem = true := by
  unfold clusterToo
  split
  · dsimp only
    split <;> simp [h]
  · exact h

@[simp] theorem clearFault_mem (s : State) : (clearFault s).mem = s.mem := by simp [clearFault]

theorem execUnitFence_memWf {s : State} (h : Memory.wf s.mem = true) {post : State}
    (e : execUnitFence s = .next post) : Memory.wf post.mem = true := by
  simp only [execUnitFence] at e
  cases e
  (repeat' split) <;> simp [h]

theorem execUnfence_mem {s : State} {post : State} (e : execUnfence s = .next post) : post.mem = s.mem := by
  simp only [execUnfence] at e
  cases e
  (repeat' split) <;> simp

@[simp] theorem failObls_mem (s : State) (code : BitVec 28) (x : List Obl) :
    (failObls code x s).mem = s.mem := by
  fun_induction failObls <;> simp_all

@[simp] theorem holdRest_mem (s : State) (l : List (Fin 11)) : (holdRest l s).mem = s.mem := by
  induction l generalizing s with
  | nil => rfl
  | cons i l ih =>
    simp only [holdRest]
    rw [ih]
    split <;> simp

@[simp] theorem preemptRest_mem (s : State) : (preemptRest s).mem = s.mem := by
  unfold preemptRest
  split <;> simp

@[simp] theorem failHelper_mem (s : State) (i : Fin 11) : (failHelper s i).mem = s.mem := by
  simp only [failHelper]
  (repeat' split) <;> simp

theorem execFenceDeadline_mem {s : State} {post : State} (e : execFenceDeadline s = .next post) :
    post.mem = s.mem := by
  cases e
  split
  · split
    · rfl
    · split
      · simp
      · split
        · rw [fenced_mem, foldl_mem _ (fun t i => failHelper_mem t i)]
        · simp
  · rfl

@[simp] theorem zeroRange_memWf {s : State} (h : Memory.wf s.mem = true) (lo : Nat) (n : Nat) :
    Memory.wf (zeroRange s lo n).mem = true := by
  simp [zeroRange, h]

@[simp] theorem freshCluster_memWf {s : State} (h : Memory.wf s.mem = true) :
    Memory.wf (freshCluster s).mem = true := by
  simp [freshCluster, h]

theorem execSpareAssign_memWf {s : State} (h : Memory.wf s.mem = true) {post : State}
    (e : execSpareAssign s = .next post) : Memory.wf post.mem = true := by
  simp only [execSpareAssign] at e
  cases e
  (repeat' split) <;> simp [h]

theorem execRowRepair_mem {s : State} {post : State} (e : execRowRepair s = .next post) : post.mem = s.mem := by
  simp only [execRowRepair] at e
  cases e
  (repeat' split) <;> simp

@[simp] theorem settleModule_mem (s : State) : (settleModule s).mem = s.mem := by
  simp only [settleModule]
  rw [foldl_mem _ (fun t o => by split <;> simp)]
  simp

@[simp] theorem homePage_memWf {s : State} (h : Memory.wf s.mem = true) (p : MigPage) :
    Memory.wf (homePage s p).mem = true := by
  have h1 : Memory.wf (if p.onDevice then (migCopy s p false).getD s else s).mem = true := by
    split
    · cases e : migCopy s p false with
      | none => exact h
      | some t => exact migCopy_memWf h p false e
    · exact h
  exact setMig_memWf h1 _

@[simp] theorem returnLease_memWf {s : State} (h : Memory.wf s.mem = true) (l : Lease) :
    Memory.wf (returnLease s l).mem = true := by
  have hp (cs : List Host.Cell) (m : List (Nat × Byte)) (f : Host.Cell → Nat) (hm : Memory.wf m = true) :
      Memory.wf (cs.foldl (fun m c => Memory.put m (f c) c.2) m) = true := by
    induction cs generalizing m with
    | nil => exact hm
    | cons c cs ih => exact ih _ (Memory.put_wf hm _ _)
  simp only [returnLease, out_mem, setLease_mem]
  exact hp _ _ _ (zeroRange_memWf (by simpa using h) _ _)

@[simp] theorem leaveStep_memWf {s : State} (h : Memory.wf s.mem = true) (step : Nat) :
    Memory.wf (leaveStep s step).mem = true := by
  unfold leaveStep
  split
  · exact h
  · exact h
  · exact foldl_memWf _ (fun t l ht => by split <;> simp [ht]) _ h
  · exact foldl_memWf _ (fun t p ht => homePage_memWf ht p) _ h
  · simp [h]
  · split <;> simp [h]
  · rw [foldl_mem _ (fun t p => by simp)]; exact h

theorem execModuleLeave_memWf {s : State} (h : Memory.wf s.mem = true) {post : State}
    (e : execModuleLeave s = .next post) : Memory.wf post.mem = true := by
  simp only [execModuleLeave] at e
  cases e
  (repeat' split) <;> simp [h]

@[simp] theorem countCorrected_mem (s : State) (unit : BitVec 16) (addr : Word) :
    (countCorrected s unit addr).mem = s.mem := by
  simp only [countCorrected]
  (repeat' split) <;> simp

theorem execScrub_mem {s : State} {post : State} (e : execScrub s = .next post) : post.mem = s.mem := by
  simp only [execScrub] at e
  cases e
  (repeat' split) <;> simp

@[simp] theorem modControl_mem (s : State) (f : Control → Control) : (modControl s f).mem = s.mem := by
  simp [modControl]

@[simp] theorem bootFlash_mem (s : State) : (bootFlash s).mem = s.mem := by
  simp only [bootFlash]
  split <;> simp

theorem execBoot_mem {s : State} {post : State} (e : execBoot s = .next post) : post.mem = s.mem := by
  simp only [execBoot] at e
  cases e
  (repeat' split) <;> simp

theorem execFirmwareUpdate_mem {s : State} {post : State} (e : execFirmwareUpdate s = .next post) :
    post.mem = s.mem := by
  simp only [execFirmwareUpdate] at e
  cases e
  (repeat' split) <;> simp

theorem execControllerRestart_mem {s : State} {post : State} (e : execControllerRestart s = .next post) :
    post.mem = s.mem := by
  simp only [execControllerRestart] at e
  cases e
  (repeat' split) <;> simp

theorem execPowerFail_memWf {s : State} (h : Memory.wf s.mem = true) {post : State}
    (e : execPowerFail s = .next post) : Memory.wf post.mem = true := by
  simp only [execPowerFail] at e
  cases e
  (repeat' split) <;> simp [h]

theorem execRecovery_mem {s : State} {post : State} (e : execRecovery s = .next post) : post.mem = s.mem := by
  simp only [execRecovery] at e
  cases e
  (repeat' split) <;> simp

@[simp] theorem erasePorts_mem (s : State) : (erasePorts s).mem = s.mem := by
  rw [erasePorts, foldl_mem _ (fun t p => by simp)]

@[simp] theorem failFarWaits_mem (s : State) (l : List (Fin 11)) : (failFarWaits l s).mem = s.mem := by
  induction l generalizing s with
  | nil => rfl
  | cons i l ih =>
    simp only [failFarWaits]
    rw [ih]
    (repeat' split) <;> simp

@[simp] theorem endReducing_memWf {s : State} (h : Memory.wf s.mem = true) (x : List Job) :
    Memory.wf (endReducing x s).mem = true := by
  fun_induction endReducing <;> grind [send_mem, endJob_memWf, Memory.putBytes_wf]

theorem execSecurityAlarm_memWf {s : State} (h : Memory.wf s.mem = true) {post : State}
    (e : execSecurityAlarm s = .next post) : Memory.wf post.mem = true := by
  simp only [execSecurityAlarm] at e
  cases e
  (repeat' split) <;> simp [h]

@[simp] theorem lowerBudget_mem (s : State) (d : PowerDomain) (atOnce : Bool) :
    (lowerBudget s d atOnce).mem = s.mem := by
  simp only [lowerBudget]
  (repeat' split) <;> simp

theorem execThermalLimit_mem {s : State} {post : State} (e : execThermalLimit s = .next post) :
    post.mem = s.mem := by
  simp only [execThermalLimit] at e
  cases e
  (repeat' split) <;> simp

@[simp] theorem placeCore_mem (s : State) : (placeCore s).mem = s.mem := by
  simp only [placeCore, out_mem]
  rw [foldl_mem _ (fun t i => by simp)]
  simp

@[simp] theorem trainLinks_mem (s : State) (x : List Nat) : (trainLinks s x).mem = s.mem := by
  fun_induction trainLinks <;> simp_all

@[simp] theorem freshFabric_mem (s : State) : (freshFabric s).mem = s.mem := by simp [freshFabric]

@[simp] theorem placeCabling_memWf {s : State} (h : Memory.wf s.mem = true) :
    Memory.wf (placeCabling s).mem = true :=
  foldl_memWf _ (fun _ _ ht => writeNat_memWf (writeNat_memWf (writeNat_memWf ht _ _ _) _ _ _) _ _ _) _ h

@[simp] theorem repairStacks_mem (s : State) : (repairStacks s).mem = s.mem := rfl

@[simp] theorem selfTest_mem (s : State) : (selfTest s).mem = s.mem := foldl_mem _ (fun t _ => by simp) _ _

@[simp] theorem bringUp_memWf {s : State} (h : Memory.wf s.mem = true) (step : Nat) :
    Memory.wf (bringUp s step).mem = true := by
  simp only [bringUp]
  (repeat' split) <;> simp [h]

theorem execPowerOn_memWf {s : State} (h : Memory.wf s.mem = true) {post : State}
    (e : execPowerOn s = .next post) : Memory.wf post.mem = true := by
  simp only [execPowerOn] at e
  cases e
  (repeat' split) <;> simp [h]

end Sys2Proof.Machine
end

