-- ==== Sys2Proof/Laws/KeepDispatch.lean ====
section
/-!
SUPPORT. Every operation of Machine/Dispatch.lean keeps the canonical form of memory.
-/

namespace Sys2Proof.Machine

/-- No instruction and no event breaks the canonical form of memory. -/
theorem exec_memWf {s : State} (hm : Memory.wf s.mem = true) (i : Instr) {post : State}
    (e : exec i s = .next post) : Memory.wf post.mem = true := by
  cases i with
  | nop => exact (congrArg Memory.wf (execNop_mem e)).trans hm
  | halt => exact execHalt_memWf hm e
  | idle => exact execIdle_memWf hm e
  | eret => exact execEret_memWf hm e
  | trap code => exact execTrap_memWf hm code e
  | brk code => exact execBrk_memWf hm code e
  | yield => exact (congrArg Memory.wf (execYield_mem e)).trans hm
  | fencei => exact (congrArg Memory.wf (execFencei_mem e)).trans hm
  | mfc g n => exact execMfc_memWf hm g n e
  | mtc g n => exact execMtc_memWf hm g n e
  | mxc g n => exact execMxc_memWf hm g n e
  | mset g n => exact execMset_memWf hm g n e
  | mclr g n => exact execMclr_memWf hm g n e
  | add d a b => exact (congrArg Memory.wf (execAdd_mem d a b e)).trans hm
  | sub d a b => exact (congrArg Memory.wf (execSub_mem d a b e)).trans hm
  | and d a b => exact (congrArg Memory.wf (execAnd_mem d a b e)).trans hm
  | or d a b => exact (congrArg Memory.wf (execOr_mem d a b e)).trans hm
  | xor d a b => exact (congrArg Memory.wf (execXor_mem d a b e)).trans hm
  | andn d a b => exact (congrArg Memory.wf (execAndn_mem d a b e)).trans hm
  | orn d a b => exact (congrArg Memory.wf (execOrn_mem d a b e)).trans hm
  | shl d a b => exact (congrArg Memory.wf (execShl_mem d a b e)).trans hm
  | shr d a b => exact (congrArg Memory.wf (execShr_mem d a b e)).trans hm
  | sar d a b => exact (congrArg Memory.wf (execSar_mem d a b e)).trans hm
  | rol d a b => exact (congrArg Memory.wf (execRol_mem d a b e)).trans hm
  | min d a b => exact (congrArg Memory.wf (execMin_mem d a b e)).trans hm
  | max d a b => exact (congrArg Memory.wf (execMax_mem d a b e)).trans hm
  | minw d a b => exact (congrArg Memory.wf (execMinw_mem d a b e)).trans hm
  | maxw d a b => exact (congrArg Memory.wf (execMaxw_mem d a b e)).trans hm
  | slt d a b => exact (congrArg Memory.wf (execSlt_mem d a b e)).trans hm
  | sltw d a b => exact (congrArg Memory.wf (execSltw_mem d a b e)).trans hm
  | seq d a b => exact (congrArg Memory.wf (execSeq_mem d a b e)).trans hm
  | sne d a b => exact (congrArg Memory.wf (execSne_mem d a b e)).trans hm
  | cmov d a b c => exact (congrArg Memory.wf (execCmov_mem d a b c e)).trans hm
  | mul d a b => exact (congrArg Memory.wf (execMul_mem d a b e)).trans hm
  | mulh d a b => exact (congrArg Memory.wf (execMulh_mem d a b e)).trans hm
  | mulhw d a b => exact (congrArg Memory.wf (execMulhw_mem d a b e)).trans hm
  | mulw d a b => exact (congrArg Memory.wf (execMulw_mem d a b e)).trans hm
  | div d a b => exact (congrArg Memory.wf (execDiv_mem d a b e)).trans hm
  | divw d a b => exact (congrArg Memory.wf (execDivw_mem d a b e)).trans hm
  | rem d a b => exact (congrArg Memory.wf (execRem_mem d a b e)).trans hm
  | remw d a b => exact (congrArg Memory.wf (execRemw_mem d a b e)).trans hm
  | clz d a => exact (congrArg Memory.wf (execClz_mem d a e)).trans hm
  | ctz d a => exact (congrArg Memory.wf (execCtz_mem d a e)).trans hm
  | popc d a => exact (congrArg Memory.wf (execPopc_mem d a e)).trans hm
  | brev d a => exact (congrArg Memory.wf (execBrev_mem d a e)).trans hm
  | bswap d a => exact (congrArg Memory.wf (execBswap_mem d a e)).trans hm
  | sext d a h n => exact (congrArg Memory.wf (execSext_mem d a h n e)).trans hm
  | zext d a h n => exact (congrArg Memory.wf (execZext_mem d a h n e)).trans hm
  | bext d a b => exact (congrArg Memory.wf (execBext_mem d a b e)).trans hm
  | bins d a b => exact (congrArg Memory.wf (execBins_mem d a b e)).trans hm
  | addi d a k => exact (congrArg Memory.wf (execAddi_mem d a k e)).trans hm
  | andi d a k => exact (congrArg Memory.wf (execAndi_mem d a k e)).trans hm
  | ori d a k => exact (congrArg Memory.wf (execOri_mem d a k e)).trans hm
  | xori d a k => exact (congrArg Memory.wf (execXori_mem d a k e)).trans hm
  | shli d a sv => exact (congrArg Memory.wf (execShli_mem d a sv e)).trans hm
  | shri d a sv => exact (congrArg Memory.wf (execShri_mem d a sv e)).trans hm
  | sari d a sv => exact (congrArg Memory.wf (execSari_mem d a sv e)).trans hm
  | roli d a sv => exact (congrArg Memory.wf (execRoli_mem d a sv e)).trans hm
  | slti d a k => exact (congrArg Memory.wf (execSlti_mem d a k e)).trans hm
  | sltwi d a k => exact (congrArg Memory.wf (execSltwi_mem d a k e)).trans hm
  | movk d pos keep k => exact (congrArg Memory.wf (execMovk_mem d pos keep k e)).trans hm
  | lea d a b sc disp => exact (congrArg Memory.wf (execLea_mem d a b sc disp e)).trans hm
  | gcoord d a => exact (congrArg Memory.wf (execGcoord_mem d a e)).trans hm
  | widf d f => exact (congrArg Memory.wf (execWidf_mem d f e)).trans hm
  | self d => exact (congrArg Memory.wf (execSelf_mem d e)).trans hm
  | cload d => exact (congrArg Memory.wf (execCload_mem d e)).trans hm
  | beq a b nul disp => exact (congrArg Memory.wf (execBeq_mem a b nul disp e)).trans hm
  | bne a b nul disp => exact (congrArg Memory.wf (execBne_mem a b nul disp e)).trans hm
  | blt a b nul disp => exact (congrArg Memory.wf (execBlt_mem a b nul disp e)).trans hm
  | bge a b nul disp => exact (congrArg Memory.wf (execBge_mem a b nul disp e)).trans hm
  | bltw a b nul disp => exact (congrArg Memory.wf (execBltw_mem a b nul disp e)).trans hm
  | bgew a b nul disp => exact (congrArg Memory.wf (execBgew_mem a b nul disp e)).trans hm
  | bbs a b nul disp => exact (congrArg Memory.wf (execBbs_mem a b nul disp e)).trans hm
  | bbc a b nul disp => exact (congrArg Memory.wf (execBbc_mem a b nul disp e)).trans hm
  | j disp => exact (congrArg Memory.wf (execJ_mem disp e)).trans hm
  | call disp => exact (congrArg Memory.wf (execCall_mem disp e)).trans hm
  | jr a => exact (congrArg Memory.wf (execJr_mem a e)).trans hm
  | callr a => exact (congrArg Memory.wf (execCallr_mem a e)).trans hm
  | ret => exact (congrArg Memory.wf (execRet_mem e)).trans hm
  | rpt n count sd sa sb => exact execRpt_memWf hm n count sd sa sb e
  | hstart d a b c => exact execHstart_memWf hm d a b c e
  | hexit => exact execHexit_memWf hm e
  | cpack d a b => exact execCpack_memWf hm d a b e
  | cresume d a => exact execCresume_memWf hm d a e
  | migrate d a b => exact execMigrate_memWf hm d a b e
  | hstat d slot => exact execHstat_memWf hm d slot e
  | onew d a b kind => exact execOnew_memWf hm d a b kind e
  | ofree a => exact (congrArg Memory.wf (execOfree_mem a e)).trans hm
  | oblig d a => exact (congrArg Memory.wf (execOblig_mem d a e)).trans hm
  | osig a => exact execOsig_memWf hm a e
  | orel a => exact execOrel_memWf hm a e
  | osend d a b c => exact execOsend_memWf hm d a b c e
  | ofail a b => exact execOfail_memWf hm a b e
  | otrn a b kind => exact execOtrn_memWf hm a b kind e
  | oseize d a => exact execOseize_memWf hm d a e
  | rsplit a b => exact execRsplit_memWf hm a b e
  | wait d a => exact execWait_memWf hm d a e
  | barw d a => exact execBarw_memWf hm d a e
  | poll d a => exact execPoll_memWf hm d a e
  | oqry d a field => exact (congrArg Memory.wf (execOqry_mem d a field e)).trans hm
  | ld d a w disp => exact execLd_memWf hm d a w disp e
  | st sv a rel z disp => exact execSt_memWf hm sv a rel z disp e
  | aadd d a b ord z => exact execAadd_memWf hm d a b ord z e
  | aand d a b ord z => exact execAand_memWf hm d a b ord z e
  | aor d a b ord z => exact execAor_memWf hm d a b ord z e
  | axor d a b ord z => exact execAxor_memWf hm d a b ord z e
  | amin d a b ord z => exact execAmin_memWf hm d a b ord z e
  | amax d a b ord z => exact execAmax_memWf hm d a b ord z e
  | aminw d a b ord z => exact execAminw_memWf hm d a b ord z e
  | amaxw d a b ord z => exact execAmaxw_memWf hm d a b ord z e
  | aswp d a b ord z => exact execAswp_memWf hm d a b ord z e
  | acas d a b ord z => exact execAcas_memWf hm d a b ord z e
  | afadd d a b ord z => exact execAfadd_memWf hm d a b ord z e
  | llk d a z => exact execLlk_memWf hm d a z e
  | sul d a b z => exact execSul_memWf hm d a b z e
  | sun d a => exact (congrArg Memory.wf (execSun_mem d a e)).trans hm
  | fence a => exact execFence_memWf hm a e
  | fencea a => exact execFencea_memWf hm a e
  | fencer a => exact execFencer_memWf hm a e
  | bfence => exact (congrArg Memory.wf (execBfence_mem e)).trans hm
  | qfence => exact (congrArg Memory.wf (execQfence_mem e)).trans hm
  | efence => exact (congrArg Memory.wf (execEfence_mem e)).trans hm
  | mst sv a rel z disp => exact execMst_memWf hm sv a rel z disp e
  | vld v a disp => exact execVld_memWf hm v a disp e
  | vst v a disp => exact execVst_memWf hm v a disp e
  | qld q a b z => exact execQld_memWf hm q a b z e
  | qst q a b z => exact execQst_memWf hm q a b z e
  | qgat q a x z => exact execQgat_memWf hm q a x z e
  | qsct q a x z => exact execQsct_memWf hm q a x z e
  | cpy d a b c => exact execCpy_memWf hm d a b c e
  | cpy2 d a b c => exact execCpy2_memWf hm d a b c e
  | cpy3 d a b c => exact execCpy3_memWf hm d a b c e
  | cpyi d a b c => exact execCpyi_memWf hm d a b c e
  | cpyr d a b c => exact execCpyr_memWf hm d a b c e
  | cpyrs d a b c => exact execCpyrs_memWf hm d a b c e
  | sopen d a sv cls => exact execSopen_memWf hm d a sv cls e
  | sclose d sv cls => exact (congrArg Memory.wf (execSclose_mem d sv cls e)).trans hm
  | sstat d sv cls => exact (congrArg Memory.wf (execSstat_mem d sv cls e)).trans hm
  | vadd d a b m t => exact (congrArg Memory.wf (execVadd_mem d a b m t e)).trans hm
  | vsub d a b m t => exact (congrArg Memory.wf (execVsub_mem d a b m t e)).trans hm
  | vmul d a b m t => exact (congrArg Memory.wf (execVmul_mem d a b m t e)).trans hm
  | vmulh d a b m t => exact (congrArg Memory.wf (execVmulh_mem d a b m t e)).trans hm
  | vmin d a b m t => exact (congrArg Memory.wf (execVmin_mem d a b m t e)).trans hm
  | vmax d a b m t => exact (congrArg Memory.wf (execVmax_mem d a b m t e)).trans hm
  | vand d a b m t => exact (congrArg Memory.wf (execVand_mem d a b m t e)).trans hm
  | vor d a b m t => exact (congrArg Memory.wf (execVor_mem d a b m t e)).trans hm
  | vxor d a b m t => exact (congrArg Memory.wf (execVxor_mem d a b m t e)).trans hm
  | vshl d a b m t => exact (congrArg Memory.wf (execVshl_mem d a b m t e)).trans hm
  | vshr d a b m t => exact (congrArg Memory.wf (execVshr_mem d a b m t e)).trans hm
  | vsar d a b m t => exact (congrArg Memory.wf (execVsar_mem d a b m t e)).trans hm
  | vsel d a b m t => exact (congrArg Memory.wf (execVsel_mem d a b m t e)).trans hm
  | vabs d a m t => exact (congrArg Memory.wf (execVabs_mem d a m t e)).trans hm
  | vcmp d a b m t cond => exact (congrArg Memory.wf (execVcmp_mem d a b m t cond e)).trans hm
  | vfadd d a b m t => exact (congrArg Memory.wf (execVfadd_mem d a b m t e)).trans hm
  | vfsub d a b m t => exact (congrArg Memory.wf (execVfsub_mem d a b m t e)).trans hm
  | vfmul d a b m t => exact (congrArg Memory.wf (execVfmul_mem d a b m t e)).trans hm
  | vfma d a b m t => exact (congrArg Memory.wf (execVfma_mem d a b m t e)).trans hm
  | vfms d a b m t => exact (congrArg Memory.wf (execVfms_mem d a b m t e)).trans hm
  | vfmin d a b m t => exact (congrArg Memory.wf (execVfmin_mem d a b m t e)).trans hm
  | vfmax d a b m t => exact (congrArg Memory.wf (execVfmax_mem d a b m t e)).trans hm
  | vfabs d a m t => exact (congrArg Memory.wf (execVfabs_mem d a m t e)).trans hm
  | vfneg d a m t => exact (congrArg Memory.wf (execVfneg_mem d a m t e)).trans hm
  | vfcmp d a b m t cond => exact (congrArg Memory.wf (execVfcmp_mem d a b m t cond e)).trans hm
  | vcvt d a src m t => exact (congrArg Memory.wf (execVcvt_mem d a src m t e)).trans hm
  | vqnt d a f t => exact (congrArg Memory.wf (execVqnt_mem d a f t e)).trans hm
  | vdq d a f t => exact (congrArg Memory.wf (execVdq_mem d a f t e)).trans hm
  | vshuf d a b m t => exact (congrArg Memory.wf (execVshuf_mem d a b m t e)).trans hm
  | vperm d a b m t => exact (congrArg Memory.wf (execVperm_mem d a b m t e)).trans hm
  | vbc d a m t => exact (congrArg Memory.wf (execVbc_mem d a m t e)).trans hm
  | vext d a lane t => exact (congrArg Memory.wf (execVext_mem d a lane t e)).trans hm
  | vins d a lane t => exact (congrArg Memory.wf (execVins_mem d a lane t e)).trans hm
  | vmovk d a => exact (congrArg Memory.wf (execVmovk_mem d a e)).trans hm
  | vexp2 d a m t => exact (congrArg Memory.wf (execVexp2_mem d a m t e)).trans hm
  | vlog2 d a m t => exact (congrArg Memory.wf (execVlog2_mem d a m t e)).trans hm
  | vrcp d a m t => exact (congrArg Memory.wf (execVrcp_mem d a m t e)).trans hm
  | vrsq d a m t => exact (congrArg Memory.wf (execVrsq_mem d a m t e)).trans hm
  | vsin d a m t => exact (congrArg Memory.wf (execVsin_mem d a m t e)).trans hm
  | vcos d a m t => exact (congrArg Memory.wf (execVcos_mem d a m t e)).trans hm
  | vtanh d a m t => exact (congrArg Memory.wf (execVtanh_mem d a m t e)).trans hm
  | vsigm d a m t => exact (congrArg Memory.wf (execVsigm_mem d a m t e)).trans hm
  | vrsum d a m t int => exact (congrArg Memory.wf (execVrsum_mem d a m t int e)).trans hm
  | vrmax d a m t int => exact (congrArg Memory.wf (execVrmax_mem d a m t int e)).trans hm
  | vrmin d a m t int => exact (congrArg Memory.wf (execVrmin_mem d a m t int e)).trans hm
  | res d word k => exact execRes_memWf hm d word k e
  | vdot p d a b c m => exact (congrArg Memory.wf (execVdot_mem p d a b c m e)).trans hm
  | qdot p d a b c => exact (congrArg Memory.wf (execQdot_mem p d a b c e)).trans hm
  | mxa p d a b c => exact (congrArg Memory.wf (execMxa_mem p d a b c e)).trans hm
  | bmv p d a b c => exact execBmv_memWf hm p d a b c e
  | qdop d a b => exact (congrArg Memory.wf (execQdop_mem d a b e)).trans hm
  | vlong => exact (congrArg Memory.wf (execVlong_mem e)).trans hm
  | vshort => exact (congrArg Memory.wf (execVshort_mem e)).trans hm
  | qmov d a => exact (congrArg Memory.wf (execQmov_mem d a e)).trans hm
  | qsplat d a z => exact (congrArg Memory.wf (execQsplat_mem d a z e)).trans hm
  | qxv d a b => exact (congrArg Memory.wf (execQxv_mem d a b e)).trans hm
  | qxq d a b => exact (congrArg Memory.wf (execQxq_mem d a b e)).trans hm
  | qfadd d a b t => exact (congrArg Memory.wf (execQfadd_mem d a b t e)).trans hm
  | qfmul d a b t => exact (congrArg Memory.wf (execQfmul_mem d a b t e)).trans hm
  | qfma d a b t => exact (congrArg Memory.wf (execQfma_mem d a b t e)).trans hm
  | qfmin d a b t => exact (congrArg Memory.wf (execQfmin_mem d a b t e)).trans hm
  | qfmax d a b t => exact (congrArg Memory.wf (execQfmax_mem d a b t e)).trans hm
  | qcvt d a src t => exact (congrArg Memory.wf (execQcvt_mem d a src t e)).trans hm
  | qsel d a b t => exact (congrArg Memory.wf (execQsel_mem d a b t e)).trans hm
  | qfcmp d a b t cond => exact (congrArg Memory.wf (execQfcmp_mem d a b t cond e)).trans hm
  | qadd d a b t => exact (congrArg Memory.wf (execQadd_mem d a b t e)).trans hm
  | qsub d a b t => exact (congrArg Memory.wf (execQsub_mem d a b t e)).trans hm
  | qmul d a b t => exact (congrArg Memory.wf (execQmul_mem d a b t e)).trans hm
  | qand d a b t => exact (congrArg Memory.wf (execQand_mem d a b t e)).trans hm
  | qor d a b t => exact (congrArg Memory.wf (execQor_mem d a b t e)).trans hm
  | qxor d a b t => exact (congrArg Memory.wf (execQxor_mem d a b t e)).trans hm
  | qshl d a b t => exact (congrArg Memory.wf (execQshl_mem d a b t e)).trans hm
  | qshr d a b t => exact (congrArg Memory.wf (execQshr_mem d a b t e)).trans hm
  | qmin d a b t => exact (congrArg Memory.wf (execQmin_mem d a b t e)).trans hm
  | qmax d a b t => exact (congrArg Memory.wf (execQmax_mem d a b t e)).trans hm
  | qcmp d a b t cond => exact (congrArg Memory.wf (execQcmp_mem d a b t cond e)).trans hm
  | qrsum d a t int => exact (congrArg Memory.wf (execQrsum_mem d a t int e)).trans hm
  | qrmax d a t int => exact (congrArg Memory.wf (execQrmax_mem d a t int e)).trans hm
  | qrmin d a t int => exact (congrArg Memory.wf (execQrmin_mem d a t int e)).trans hm
  | mxb d a b => exact (congrArg Memory.wf (execMxb_mem d a b e)).trans hm
  | mxj d a => exact execMxj_memWf hm d a e
  | mxcap d a b => exact execMxcap_memWf hm d a b e
  | mxst d a => exact (congrArg Memory.wf (execMxst_mem d a e)).trans hm
  | bvld d a b => exact (congrArg Memory.wf (execBvld_mem d a b e)).trans hm
  | bvrd d a b => exact (congrArg Memory.wf (execBvrd_mem d a b e)).trans hm
  | bcfg d a => exact (congrArg Memory.wf (execBcfg_mem d a e)).trans hm
  | bstat d a => exact (congrArg Memory.wf (execBstat_mem d a e)).trans hm
  | pbind d a => exact execPbind_memWf hm d a e
  | pfree d a => exact (congrArg Memory.wf (execPfree_mem d a e)).trans hm
  | pstat d a => exact (congrArg Memory.wf (execPstat_mem d a e)).trans hm
  | enq d a => exact execEnq_memWf hm d a e
  | deq d a => exact execDeq_memWf hm d a e
  | xph d a b => exact execXph_memWf hm d a b e
  | xsnd d a b c => exact execXsnd_memWf hm d a b c e
  | xrcv d a b c => exact execXrcv_memWf hm d a b c e
  | xend d => exact execXend_memWf hm d e
  | xmrk a b => exact execXmrk_memWf hm a b e
  | xvs a b => exact execXvs_memWf hm a b e
  | codeObjectLoad => exact execCodeObjectLoad_memWf hm e
  | launchMessage => exact (congrArg Memory.wf (execLaunchMessage_mem e)).trans hm
  | placementDecision => exact (congrArg Memory.wf (execPlacementDecision_mem e)).trans hm
  | itemDelivery => exact execItemDelivery_memWf hm e
  | launchAging => exact (congrArg Memory.wf (execLaunchAging_mem e)).trans hm
  | waitRequest => exact (congrArg Memory.wf (execWaitRequest_mem e)).trans hm
  | discharge => exact (congrArg Memory.wf (execDischarge_mem e)).trans hm
  | homeOperation => exact (congrArg Memory.wf (execHomeOperation_mem e)).trans hm
  | homeAnswer => exact execHomeAnswer_memWf hm e
  | wake => exact execWake_memWf hm e
  | cancel => exact (congrArg Memory.wf (execCancel_mem e)).trans hm
  | obligationTransfer => exact execObligationTransfer_memWf hm e
  | hostRegistration => exact (congrArg Memory.wf (execHostRegistration_mem e)).trans hm
  | hostLost => exact (congrArg Memory.wf (execHostLost_mem e)).trans hm
  | refill => exact execRefill_memWf hm e
  | continuationMessage => exact execContinuationMessage_memWf hm e
  | spillRedelivery => exact execSpillRedelivery_memWf hm e
  | clustldUpdate => exact (congrArg Memory.wf (execClustldUpdate_mem e)).trans hm
  | governorSample => exact execGovernorSample_memWf hm e
  | takeUpcall => exact execTakeUpcall_memWf hm e
  | resultArrival => exact execResultArrival_memWf hm e
  | streamRefill => exact (congrArg Memory.wf (execStreamRefill_mem e)).trans hm
  | lockRetry => exact execLockRetry_memWf hm e
  | llkLapse => exact (congrArg Memory.wf (execLlkLapse_mem e)).trans hm
  | pageWalk => exact (congrArg Memory.wf (execPageWalk_mem e)).trans hm
  | tlbInvalidation => exact (congrArg Memory.wf (execTlbInvalidation_mem e)).trans hm
  | completionNotice => exact execCompletionNotice_memWf hm e
  | migrationRequest => exact execMigrationRequest_memWf hm e
  | pinrExpiry => exact execPinrExpiry_memWf hm e
  | mstStamp => exact (congrArg Memory.wf (execMstStamp_mem e)).trans hm
  | mstApply => exact execMstApply_memWf hm e
  | leaseSetup => exact (congrArg Memory.wf (execLeaseSetup_mem e)).trans hm
  | reclaim => exact execReclaim_memWf hm e
  | demotionPageCopy => exact execDemotionPageCopy_memWf hm e
  | leaseAcknowledgement => exact (congrArg Memory.wf (execLeaseAcknowledgement_mem e)).trans hm
  | boundReached => exact (congrArg Memory.wf (execBoundReached_mem e)).trans hm
  | copyStart => exact (congrArg Memory.wf (execCopyStart_mem e)).trans hm
  | copyComplete => exact execCopyComplete_memWf hm e
  | cpyrAckTimeout => exact execCpyrAckTimeout_memWf hm e
  | mxbStart => exact (congrArg Memory.wf (execMxbStart_mem e)).trans hm
  | mxbComplete => exact execMxbComplete_memWf hm e
  | computeJobStart => exact (congrArg Memory.wf (execComputeJobStart_mem e)).trans hm
  | computeJobComplete => exact execComputeJobComplete_memWf hm e
  | mxcapArrival => exact execMxcapArrival_memWf hm e
  | mxcapTimeout => exact execMxcapTimeout_memWf hm e
  | bankJobComplete => exact execBankJobComplete_memWf hm e
  | lvuEntryComplete => exact execLvuEntryComplete_memWf hm e
  | segmentStart => exact execSegmentStart_memWf hm e
  | gateDeadline => exact execGateDeadline_memWf hm e
  | segmentEnd => exact execSegmentEnd_memWf hm e
  | bankStageEnqueue => exact execBankStageEnqueue_memWf hm e
  | hostAccess => exact execHostAccess_memWf hm e
  | flitReceive => exact (congrArg Memory.wf (execFlitReceive_mem e)).trans hm
  | replayRequest => exact (congrArg Memory.wf (execReplayRequest_mem e)).trans hm
  | fecLockLoss => exact (congrArg Memory.wf (execFecLockLoss_mem e)).trans hm
  | keyExhaustion => exact (congrArg Memory.wf (execKeyExhaustion_mem e)).trans hm
  | lock => exact (congrArg Memory.wf (execLock_mem e)).trans hm
  | start => exact (congrArg Memory.wf (execStart_mem e)).trans hm
  | managementReset => exact (congrArg Memory.wf (execManagementReset_mem e)).trans hm
  | getVersion => exact (congrArg Memory.wf (execGetVersion_mem e)).trans hm
  | getCapabilities => exact (congrArg Memory.wf (execGetCapabilities_mem e)).trans hm
  | negotiateAlgorithms => exact (congrArg Memory.wf (execNegotiateAlgorithms_mem e)).trans hm
  | getDigests => exact (congrArg Memory.wf (execGetDigests_mem e)).trans hm
  | getCertificate => exact (congrArg Memory.wf (execGetCertificate_mem e)).trans hm
  | challenge => exact (congrArg Memory.wf (execChallenge_mem e)).trans hm
  | getMeasurements => exact (congrArg Memory.wf (execGetMeasurements_mem e)).trans hm
  | keyExchange => exact (congrArg Memory.wf (execKeyExchange_mem e)).trans hm
  | finish => exact (congrArg Memory.wf (execFinish_mem e)).trans hm
  | keyUpdate => exact (congrArg Memory.wf (execKeyUpdate_mem e)).trans hm
  | phaseArrival => exact execPhaseArrival_memWf hm e
  | phaseRelease => exact execPhaseRelease_memWf hm e
  | arrivalTimeout => exact execArrivalTimeout_memWf hm e
  | startTick => exact execStartTick_memWf hm e
  | phaseEnd => exact (congrArg Memory.wf (execPhaseEnd_mem e)).trans hm
  | failureNotice => exact execFailureNotice_memWf hm e
  | wordDelivery => exact (congrArg Memory.wf (execWordDelivery_mem e)).trans hm
  | combine => exact (congrArg Memory.wf (execCombine_mem e)).trans hm
  | markerStep => exact (congrArg Memory.wf (execMarkerStep_mem e)).trans hm
  | entryReplace => exact (congrArg Memory.wf (execEntryReplace_mem e)).trans hm
  | epochBoundary => exact (congrArg Memory.wf (execEpochBoundary_mem e)).trans hm
  | contributionCutoff => exact (congrArg Memory.wf (execContributionCutoff_mem e)).trans hm
  | bellResult => exact (congrArg Memory.wf (execBellResult_mem e)).trans hm
  | clockSettle => exact (congrArg Memory.wf (execClockSettle_mem e)).trans hm
  | join => exact (congrArg Memory.wf (execJoin_mem e)).trans hm
  | leave => exact (congrArg Memory.wf (execLeave_mem e)).trans hm
  | breach => exact (congrArg Memory.wf (execBreach_mem e)).trans hm
  | preempt => exact execPreempt_memWf hm e
  | resume => exact execResume_memWf hm e
  | sresume => exact execSresume_memWf hm e
  | hold => exact execHold_memWf hm e
  | unhold => exact execUnhold_memWf hm e
  | restart => exact execRestart_memWf hm e
  | unitFence => exact execUnitFence_memWf hm e
  | unfence => exact (congrArg Memory.wf (execUnfence_mem e)).trans hm
  | fenceDeadline => exact (congrArg Memory.wf (execFenceDeadline_mem e)).trans hm
  | spareAssign => exact execSpareAssign_memWf hm e
  | moduleLeave => exact execModuleLeave_memWf hm e
  | scrub => exact (congrArg Memory.wf (execScrub_mem e)).trans hm
  | boot => exact (congrArg Memory.wf (execBoot_mem e)).trans hm
  | firmwareUpdate => exact (congrArg Memory.wf (execFirmwareUpdate_mem e)).trans hm
  | recovery => exact (congrArg Memory.wf (execRecovery_mem e)).trans hm
  | securityAlarm => exact execSecurityAlarm_memWf hm e
  | thermalLimit => exact (congrArg Memory.wf (execThermalLimit_mem e)).trans hm
  | powerOn => exact execPowerOn_memWf hm e
  | illegalInstructionWord => exact execIllegalInstructionWord_memWf hm e
  | fetchCheck => exact execFetchCheck_memWf hm e
  | accessAtHome => exact execAccessAtHome_memWf hm e
  | storeAcknowledgement => exact (congrArg Memory.wf (execStoreAcknowledgement_mem e)).trans hm
  | millraceRequest => exact execMillraceRequest_memWf hm e
  | lvuArbitration => exact (congrArg Memory.wf (execLvuArbitration_mem e)).trans hm
  | linkTraining => exact (congrArg Memory.wf (execLinkTraining_mem e)).trans hm
  | portConfigurationWrite => exact (congrArg Memory.wf (execPortConfigurationWrite_mem e)).trans hm
  | powerFail => exact execPowerFail_memWf hm e
  | controllerRestart => exact (congrArg Memory.wf (execControllerRestart_mem e)).trans hm
  | rowRepair => exact (congrArg Memory.wf (execRowRepair_mem e)).trans hm
  | codeObjectUnload => exact (congrArg Memory.wf (execCodeObjectUnload_mem e)).trans hm

end Sys2Proof.Machine
end

