-- ==== Sys2Proof/Laws/KeepIssue.lean ====
section
/-!
SUPPORT. Every operation of Machine/Issue.lean keeps the canonical form of memory.
-/

namespace Sys2Proof.Machine

@[simp] theorem tickClock_mem (s : State) : (tickClock s).mem = s.mem := by
  simp only [tickClock]
  split <;> simp

/-- Handling a message keeps memory canonical. -/
theorem handle_memWf {s : State} (h : Memory.wf s.mem = true) (m : Msg) {post : State}
    (e : handle m s = .next post) : Memory.wf post.mem = true := by
  simp only [handle] at e
  split at e
  · next t ht =>
    have w := exec_memWf (s := { s with event := some m }) h _ ht
    cases e
    exact w
  · next o ho => exact absurd e (ho post)

@[simp] theorem focus_mem (s : State) (k : Fin 11) : (focus s k).mem = s.mem := by
  simp only [focus]
  (repeat' split) <;> simp

@[simp] theorem popFault_memWf {s : State} (h : Memory.wf s.mem = true) (rs : List Reg) (cause : Cause)
    (addr : Word) : Memory.wf (popFault s rs cause addr).mem = true := by
  simp only [popFault]
  (repeat' split) <;> simp [h]

theorem popAndRun_memWf {s : State} (h : Memory.wf s.mem = true) (i : Instr) {post : State}
    (e : popAndRun i s = .next post) : Memory.wf post.mem = true := by
  simp only [popAndRun] at e
  split at e
  · cases e; simp [h]
  · next s2 h2 =>
    refine exec_memWf ?_ i e
    rw [popAll_mem _ _ h2]
    simpa using h

theorem runInstr_memWf {s : State} (h : Memory.wf s.mem = true) (i : Instr) {post : State}
    (e : runInstr i s = .next post) : Memory.wf post.mem = true := by
  simp only [runInstr] at e
  split at e
  · cases e; simp [h]
  · split at e
    · cases e; simp [h]
    · split at e
      · cases e; simp [h]
      · exact popAndRun_memWf h i e

theorem issueWord_memWf {s : State} (h : Memory.wf s.mem = true) {post : State}
    (e : issueWord s = .next post) : Memory.wf post.mem = true := by
  simp only [issueWord] at e
  grind [State.mod_mem, captureCheck_memWf, captureIll_memWf, breakpointTrap_memWf, exec_memWf, runInstr_memWf]

@[simp] theorem takeLongError_memWf {s : State} (h : Memory.wf s.mem = true) (x : Level × Cause × Word) :
    Memory.wf (takeLongError s x).mem = true := by
  simp [takeLongError, h]

theorem issueDue_memWf {s : State} (h : Memory.wf s.mem = true) {post : State}
    (e : issueDue s = .next post) : Memory.wf post.mem = true := by
  simp only [issueDue] at e
  split at e
  · cases e; simp [h]
  · exact issueWord_memWf h e

theorem tryIssue_memWf {s : State} (h : Memory.wf s.mem = true) (k : Fin 11) {t : State}
    (e : tryIssue s k = some (.next t)) : Memory.wf t.mem = true := by
  have hp : Memory.wf (focus s k).mem = true := by simpa using h
  simp only [tryIssue] at e
  split at e
  · cases e
  · split at e
    · cases e
    · generalize hd : issueDue (focus s k) = o at e
      cases o with
      | next u =>
        simp only [unlessStalled] at e
        split at e
        · cases e
        · have w := issueDue_memWf hp hd
          cases e
          exact w
      | fault f => cases e
      | refused f => cases e

@[simp] theorem passYields_mem (s : State) (k : Fin 11) (l : List (Fin 11)) :
    (passYields k l s).mem = s.mem := by
  fun_induction passYields <;> grind [State.setAt_mem]

@[simp] theorem decided_mem (s : State) (p : Pick) : (decided s p).mem = s.mem := by simp [decided]

@[simp] theorem llkStalls_memWf {t : State} (h : Memory.wf t.mem = true) (s : State) (k : Option (Fin 11))
    (l : List (Fin 11)) : Memory.wf (llkStalls s k l t).mem = true := by
  induction l generalizing t with
  | nil => exact h
  | cons j l ih =>
    rw [llkStalls]
    apply ih
    (repeat' split) <;> simp [h]

@[simp] theorem llkCount_memWf (s : State) {t : State} (h : Memory.wf t.mem = true) (k : Fin 11) :
    Memory.wf (llkCount s t k).mem = true := by
  simp only [llkCount]
  (repeat' split) <;> simp [h]

@[simp] theorem joinWaiters_mem (l : List (Fin 11)) (s : State) : (joinWaiters l s).mem = s.mem := by
  induction l generalizing s with
  | nil => rfl
  | cons k l ih =>
    rw [joinWaiters, ih]
    split <;> simp

@[simp] theorem noteWaiters_mem (s : State) : (noteWaiters s).mem = s.mem := by simp [noteWaiters]

@[simp] theorem idleCycle_memWf {s : State} (h : Memory.wf s.mem = true) (c : Bool) :
    Memory.wf (idleCycle s c).mem = true := by
  rw [idleCycle, tickClock_mem, noteWaiters_mem, State.modCore_mem]
  exact llkStalls_memWf h s none slots

theorem finishCycle_memWf {s : State} (h : Memory.wf s.mem = true) (p : Pick)
    (r : Option (Host.Outcome State Fault Refusal))
    (hr : ∀ t, r = some (.next t) → Memory.wf t.mem = true) {post : State}
    (e : finishCycle s p r = .next post) : Memory.wf post.mem = true := by
  rcases r with _ | t | f | f
  · rw [← Host.Outcome.next.inj e]
    exact idleCycle_memWf (by rw [decided_mem]; exact h) _
  · rw [← Host.Outcome.next.inj e, tickClock_mem, noteWaiters_mem]
    exact llkStalls_memWf (llkCount_memWf s (hr t rfl) _) s _ _
  · cases e
  · cases e

theorem issueCycle_memWf {s : State} (h : Memory.wf s.mem = true) (p : Pick) {post : State}
    (e : issueCycle s p = .next post) : Memory.wf post.mem = true :=
  finishCycle_memWf h p _ (fun _ ht => tryIssue_memWf (by rw [decided_mem]; exact h) p.slot ht) e

theorem cycleOf_memWf {s : State} (h : Memory.wf s.mem = true) (c : Option Pick × Bool) {post : State}
    (e : cycleOf s c = .next post) : Memory.wf post.mem = true := by
  rcases c with ⟨_ | p, b⟩
  · rw [← Host.Outcome.next.inj e]
    exact idleCycle_memWf h b
  · simp only [cycleOf] at e
    split at e
    · exact exec_memWf (by rw [decided_mem]; exact h) _ e
    · exact issueCycle_memWf h p e

/-- A cycle of the core keeps memory canonical. -/
theorem coreCycle_memWf {s : State} (h : Memory.wf s.mem = true) {post : State}
    (e : coreCycle s = .next post) : Memory.wf post.mem = true := by
  rw [coreCycle] at e
  split at e
  · cases e
    simpa using h
  · exact cycleOf_memWf h _ e

/-! Choosing the next message leaves memory alone. -/

theorem takeMsg_mem {s : State} {n : Nat} {m : Msg} {t : State} (e : takeMsg s n = some (m, t)) :
    t.mem = s.mem := by
  obtain ⟨x, -, hx⟩ := Option.map_eq_some_iff.mp e
  cases hx
  rfl

theorem takeTimer_mem {s : State} {n : Nat} {m : Msg} {t : State} (e : takeTimer s n = some (m, t)) :
    t.mem = s.mem := by
  obtain ⟨x, -, hx⟩ := Option.map_eq_some_iff.mp e
  cases hx
  rfl

theorem forced_mem {s : State} {m : Msg} {t : State} (e : forced s = some (m, t)) : t.mem = s.mem := by
  simp only [forced] at e
  split at e
  · exact takeMsg_mem e
  · split at e
    · exact takeTimer_mem e
    · cases e

theorem candidates_mem {s : State} {m : Msg} {t : State} (e : (m, t) ∈ candidates s) : t.mem = s.mem := by
  obtain ⟨n, -, hn⟩ := List.mem_filterMap.mp e
  exact takeMsg_mem hn

theorem nextEvent_mem {s : State} {m : Msg} {t : State} (e : nextEvent s = some (m, t)) : t.mem = s.mem := by
  simp only [nextEvent] at e
  split at e
  · next x hx => cases e; exact forced_mem hx
  · split at e
    · cases e
    · next c cs hc => exact candidates_mem (hc ▸ List.mem_of_getElem? e)

end Sys2Proof.Machine
end

