-- ==== Sys2Proof/Laws/PerInstr.lean ====
section
/-!
SUPPORT. What the layouts of R109 hold in each field, the decoder of each major opcode on a packed word, and
for every instruction that its word decodes to it.
-/

namespace Sys2Proof.Laws

set_option Elab.async false

/-! Fields of a concatenation. -/

theorem append_high {m n : Nat} (x : BitVec m) (y : BitVec n) (k l : Nat) :
    (x ++ y).extractLsb' (n + k) l = x.extractLsb' k l := by
  apply BitVec.eq_of_getLsbD_eq
  intro i hi
  simp only [BitVec.getLsbD_extractLsb', hi, decide_true, Bool.true_and, BitVec.getLsbD_append]
  rw [if_neg (by omega)]
  congr 1
  omega

theorem append_low {m n : Nat} (x : BitVec m) (y : BitVec n) (k l : Nat) (h : k + l ≤ n) :
    (x ++ y).extractLsb' k l = y.extractLsb' k l := by
  apply BitVec.eq_of_getLsbD_eq
  intro i hi
  simp only [BitVec.getLsbD_extractLsb', hi, decide_true, Bool.true_and, BitVec.getLsbD_append]
  rw [if_pos (by omega)]

theorem whole {n : Nat} (x : BitVec n) : x.extractLsb' 0 n = x := by
  apply BitVec.eq_of_getLsbD_eq
  intro i hi
  simp [hi]

/-- Two neighbouring fields make up the field of both. -/
theorem join_fields {n : Nat} (x : BitVec n) (k l m : Nat) :
    x.extractLsb' (k + l) m ++ x.extractLsb' k l = x.extractLsb' k (m + l) := by
  apply BitVec.eq_of_getLsbD_eq
  intro i hi
  simp only [BitVec.getLsbD_extractLsb', BitVec.getLsbD_append]
  by_cases h : i < l
  · simp [h, hi]
  · simp [h, hi, show i - l < m by omega, show k + l + (i - l) = k + i by omega]

/-! The layouts of R109, field by field. -/

theorem packR_op (op : BitVec 6) (d : BitVec 5) (a : BitVec 5) (b : BitVec 5) (fn : BitVec 6) (c : BitVec 5) :
    (packR op d a b fn c).extractLsb' 26 6 = op :=
  ((append_high _ _ 21 6).trans ((append_high _ _ 15 6).trans ((append_high _ _ 10 6).trans ((append_high _ _ 5 6).trans ((append_high _ _ 0 6).trans (whole _))))))

theorem packR_d (op : BitVec 6) (d : BitVec 5) (a : BitVec 5) (b : BitVec 5) (fn : BitVec 6) (c : BitVec 5) :
    (packR op d a b fn c).extractLsb' 21 5 = d :=
  ((append_high _ _ 16 5).trans ((append_high _ _ 10 5).trans ((append_high _ _ 5 5).trans ((append_high _ _ 0 5).trans ((append_low _ _ 0 5 (by decide)).trans (whole _))))))

theorem packR_a (op : BitVec 6) (d : BitVec 5) (a : BitVec 5) (b : BitVec 5) (fn : BitVec 6) (c : BitVec 5) :
    (packR op d a b fn c).extractLsb' 16 5 = a :=
  ((append_high _ _ 11 5).trans ((append_high _ _ 5 5).trans ((append_high _ _ 0 5).trans ((append_low _ _ 0 5 (by decide)).trans (whole _)))))

theorem packR_b (op : BitVec 6) (d : BitVec 5) (a : BitVec 5) (b : BitVec 5) (fn : BitVec 6) (c : BitVec 5) :
    (packR op d a b fn c).extractLsb' 11 5 = b :=
  ((append_high _ _ 6 5).trans ((append_high _ _ 0 5).trans ((append_low _ _ 0 5 (by decide)).trans (whole _))))

theorem packR_fn (op : BitVec 6) (d : BitVec 5) (a : BitVec 5) (b : BitVec 5) (fn : BitVec 6) (c : BitVec 5) :
    (packR op d a b fn c).extractLsb' 5 6 = fn :=
  ((append_high _ _ 0 6).trans ((append_low _ _ 0 6 (by decide)).trans (whole _)))

theorem packR_c (op : BitVec 6) (d : BitVec 5) (a : BitVec 5) (b : BitVec 5) (fn : BitVec 6) (c : BitVec 5) :
    (packR op d a b fn c).extractLsb' 0 5 = c :=
  ((append_low _ _ 0 5 (by decide)).trans (whole _))

theorem packI_op (op : BitVec 6) (d : BitVec 5) (a : BitVec 5) (k : BitVec 16) :
    (packI op d a k).extractLsb' 26 6 = op :=
  ((append_high _ _ 10 6).trans ((append_high _ _ 5 6).trans ((append_high _ _ 0 6).trans (whole _))))

theorem packI_d (op : BitVec 6) (d : BitVec 5) (a : BitVec 5) (k : BitVec 16) :
    (packI op d a k).extractLsb' 21 5 = d :=
  ((append_high _ _ 5 5).trans ((append_high _ _ 0 5).trans ((append_low _ _ 0 5 (by decide)).trans (whole _))))

theorem packI_a (op : BitVec 6) (d : BitVec 5) (a : BitVec 5) (k : BitVec 16) :
    (packI op d a k).extractLsb' 16 5 = a :=
  ((append_high _ _ 0 5).trans ((append_low _ _ 0 5 (by decide)).trans (whole _)))

theorem packI_k (op : BitVec 6) (d : BitVec 5) (a : BitVec 5) (k : BitVec 16) :
    (packI op d a k).extractLsb' 0 16 = k :=
  ((append_low _ _ 0 16 (by decide)).trans (whole _))

theorem packL_op (op : BitVec 6) (d : BitVec 5) (a : BitVec 5) (b : BitVec 5) (sc : BitVec 2) (disp : BitVec 9) :
    (packL op d a b sc disp).extractLsb' 26 6 = op :=
  ((append_high _ _ 17 6).trans ((append_high _ _ 15 6).trans ((append_high _ _ 10 6).trans ((append_high _ _ 5 6).trans ((append_high _ _ 0 6).trans (whole _))))))

theorem packL_d (op : BitVec 6) (d : BitVec 5) (a : BitVec 5) (b : BitVec 5) (sc : BitVec 2) (disp : BitVec 9) :
    (packL op d a b sc disp).extractLsb' 21 5 = d :=
  ((append_high _ _ 12 5).trans ((append_high _ _ 10 5).trans ((append_high _ _ 5 5).trans ((append_high _ _ 0 5).trans ((append_low _ _ 0 5 (by decide)).trans (whole _))))))

theorem packL_a (op : BitVec 6) (d : BitVec 5) (a : BitVec 5) (b : BitVec 5) (sc : BitVec 2) (disp : BitVec 9) :
    (packL op d a b sc disp).extractLsb' 16 5 = a :=
  ((append_high _ _ 7 5).trans ((append_high _ _ 5 5).trans ((append_high _ _ 0 5).trans ((append_low _ _ 0 5 (by decide)).trans (whole _)))))

theorem packL_b (op : BitVec 6) (d : BitVec 5) (a : BitVec 5) (b : BitVec 5) (sc : BitVec 2) (disp : BitVec 9) :
    (packL op d a b sc disp).extractLsb' 11 5 = b :=
  ((append_high _ _ 2 5).trans ((append_high _ _ 0 5).trans ((append_low _ _ 0 5 (by decide)).trans (whole _))))

theorem packL_sc (op : BitVec 6) (d : BitVec 5) (a : BitVec 5) (b : BitVec 5) (sc : BitVec 2) (disp : BitVec 9) :
    (packL op d a b sc disp).extractLsb' 9 2 = sc :=
  ((append_high _ _ 0 2).trans ((append_low _ _ 0 2 (by decide)).trans (whole _)))

theorem packL_disp (op : BitVec 6) (d : BitVec 5) (a : BitVec 5) (b : BitVec 5) (sc : BitVec 2) (disp : BitVec 9) :
    (packL op d a b sc disp).extractLsb' 0 9 = disp :=
  ((append_low _ _ 0 9 (by decide)).trans (whole _))

theorem packB_op (op : BitVec 6) (a : BitVec 5) (b : BitVec 5) (cc : BitVec 3) (nul : BitVec 2) (disp : BitVec 11) :
    (packB op a b cc nul disp).extractLsb' 26 6 = op :=
  ((append_high _ _ 15 6).trans ((append_high _ _ 13 6).trans ((append_high _ _ 10 6).trans ((append_high _ _ 5 6).trans ((append_high _ _ 0 6).trans (whole _))))))

theorem packB_a (op : BitVec 6) (a : BitVec 5) (b : BitVec 5) (cc : BitVec 3) (nul : BitVec 2) (disp : BitVec 11) :
    (packB op a b cc nul disp).extractLsb' 21 5 = a :=
  ((append_high _ _ 10 5).trans ((append_high _ _ 8 5).trans ((append_high _ _ 5 5).trans ((append_high _ _ 0 5).trans ((append_low _ _ 0 5 (by decide)).trans (whole _))))))

theorem packB_b (op : BitVec 6) (a : BitVec 5) (b : BitVec 5) (cc : BitVec 3) (nul : BitVec 2) (disp : BitVec 11) :
    (packB op a b cc nul disp).extractLsb' 16 5 = b :=
  ((append_high _ _ 5 5).trans ((append_high _ _ 3 5).trans ((append_high _ _ 0 5).trans ((append_low _ _ 0 5 (by decide)).trans (whole _)))))

theorem packB_cc (op : BitVec 6) (a : BitVec 5) (b : BitVec 5) (cc : BitVec 3) (nul : BitVec 2) (disp : BitVec 11) :
    (packB op a b cc nul disp).extractLsb' 13 3 = cc :=
  ((append_high _ _ 2 3).trans ((append_high _ _ 0 3).trans ((append_low _ _ 0 3 (by decide)).trans (whole _))))

theorem packB_nul (op : BitVec 6) (a : BitVec 5) (b : BitVec 5) (cc : BitVec 3) (nul : BitVec 2) (disp : BitVec 11) :
    (packB op a b cc nul disp).extractLsb' 11 2 = nul :=
  ((append_high _ _ 0 2).trans ((append_low _ _ 0 2 (by decide)).trans (whole _)))

theorem packB_disp (op : BitVec 6) (a : BitVec 5) (b : BitVec 5) (cc : BitVec 3) (nul : BitVec 2) (disp : BitVec 11) :
    (packB op a b cc nul disp).extractLsb' 0 11 = disp :=
  ((append_low _ _ 0 11 (by decide)).trans (whole _))

theorem packJ_op (op : BitVec 6) (disp : BitVec 26) :
    (packJ op disp).extractLsb' 26 6 = op :=
  ((append_high _ _ 0 6).trans (whole _))

theorem packJ_disp (op : BitVec 6) (disp : BitVec 26) :
    (packJ op disp).extractLsb' 0 26 = disp :=
  ((append_low _ _ 0 26 (by decide)).trans (whole _))

theorem packM_op (op : BitVec 6) (d : BitVec 5) (a : BitVec 5) (w : BitVec 4) (disp : BitVec 12) :
    (packM op d a w disp).extractLsb' 26 6 = op :=
  ((append_high _ _ 14 6).trans ((append_high _ _ 10 6).trans ((append_high _ _ 5 6).trans ((append_high _ _ 0 6).trans (whole _)))))

theorem packM_d (op : BitVec 6) (d : BitVec 5) (a : BitVec 5) (w : BitVec 4) (disp : BitVec 12) :
    (packM op d a w disp).extractLsb' 21 5 = d :=
  ((append_high _ _ 9 5).trans ((append_high _ _ 5 5).trans ((append_high _ _ 0 5).trans ((append_low _ _ 0 5 (by decide)).trans (whole _)))))

theorem packM_a (op : BitVec 6) (d : BitVec 5) (a : BitVec 5) (w : BitVec 4) (disp : BitVec 12) :
    (packM op d a w disp).extractLsb' 16 5 = a :=
  ((append_high _ _ 4 5).trans ((append_high _ _ 0 5).trans ((append_low _ _ 0 5 (by decide)).trans (whole _))))

theorem packM_w (op : BitVec 6) (d : BitVec 5) (a : BitVec 5) (w : BitVec 4) (disp : BitVec 12) :
    (packM op d a w disp).extractLsb' 12 4 = w :=
  ((append_high _ _ 0 4).trans ((append_low _ _ 0 4 (by decide)).trans (whole _)))

theorem packM_disp (op : BitVec 6) (d : BitVec 5) (a : BitVec 5) (w : BitVec 4) (disp : BitVec 12) :
    (packM op d a w disp).extractLsb' 0 12 = disp :=
  ((append_low _ _ 0 12 (by decide)).trans (whole _))

theorem packF_op (op : BitVec 6) (n : BitVec 4) (count : BitVec 10) (sd : BitVec 2) (sa : BitVec 2) (sb : BitVec 2) :
    (packF op n count sd sa sb).extractLsb' 26 6 = op :=
  ((append_high _ _ 20 6).trans ((append_high _ _ 18 6).trans ((append_high _ _ 16 6).trans ((append_high _ _ 14 6).trans ((append_high _ _ 4 6).trans ((append_high _ _ 0 6).trans (whole _)))))))

theorem packF_n (op : BitVec 6) (n : BitVec 4) (count : BitVec 10) (sd : BitVec 2) (sa : BitVec 2) (sb : BitVec 2) :
    (packF op n count sd sa sb).extractLsb' 22 4 = n :=
  ((append_high _ _ 16 4).trans ((append_high _ _ 14 4).trans ((append_high _ _ 12 4).trans ((append_high _ _ 10 4).trans ((append_high _ _ 0 4).trans ((append_low _ _ 0 4 (by decide)).trans (whole _)))))))

theorem packF_count (op : BitVec 6) (n : BitVec 4) (count : BitVec 10) (sd : BitVec 2) (sa : BitVec 2) (sb : BitVec 2) :
    (packF op n count sd sa sb).extractLsb' 12 10 = count :=
  ((append_high _ _ 6 10).trans ((append_high _ _ 4 10).trans ((append_high _ _ 2 10).trans ((append_high _ _ 0 10).trans ((append_low _ _ 0 10 (by decide)).trans (whole _))))))

theorem packF_sd (op : BitVec 6) (n : BitVec 4) (count : BitVec 10) (sd : BitVec 2) (sa : BitVec 2) (sb : BitVec 2) :
    (packF op n count sd sa sb).extractLsb' 10 2 = sd :=
  ((append_high _ _ 4 2).trans ((append_high _ _ 2 2).trans ((append_high _ _ 0 2).trans ((append_low _ _ 0 2 (by decide)).trans (whole _)))))

theorem packF_sa (op : BitVec 6) (n : BitVec 4) (count : BitVec 10) (sd : BitVec 2) (sa : BitVec 2) (sb : BitVec 2) :
    (packF op n count sd sa sb).extractLsb' 8 2 = sa :=
  ((append_high _ _ 2 2).trans ((append_high _ _ 0 2).trans ((append_low _ _ 0 2 (by decide)).trans (whole _))))

theorem packF_sb (op : BitVec 6) (n : BitVec 4) (count : BitVec 10) (sd : BitVec 2) (sa : BitVec 2) (sb : BitVec 2) :
    (packF op n count sd sa sb).extractLsb' 6 2 = sb :=
  ((append_high _ _ 0 2).trans ((append_low _ _ 0 2 (by decide)).trans (whole _)))

theorem packF_z (op : BitVec 6) (n : BitVec 4) (count : BitVec 10) (sd : BitVec 2) (sa : BitVec 2) (sb : BitVec 2) :
    (packF op n count sd sa sb).extractLsb' 0 6 = 0 :=
  ((append_low _ _ 0 6 (by decide)).trans (whole _))

theorem packC_op (op : BitVec 6) (g : BitVec 5) (n : BitVec 12) (fn : BitVec 3) :
    (packC op g n fn).extractLsb' 26 6 = op :=
  ((append_high _ _ 20 6).trans ((append_high _ _ 17 6).trans ((append_high _ _ 5 6).trans ((append_high _ _ 0 6).trans (whole _)))))

theorem packC_g (op : BitVec 6) (g : BitVec 5) (n : BitVec 12) (fn : BitVec 3) :
    (packC op g n fn).extractLsb' 21 5 = g :=
  ((append_high _ _ 15 5).trans ((append_high _ _ 12 5).trans ((append_high _ _ 0 5).trans ((append_low _ _ 0 5 (by decide)).trans (whole _)))))

theorem packC_n (op : BitVec 6) (g : BitVec 5) (n : BitVec 12) (fn : BitVec 3) :
    (packC op g n fn).extractLsb' 9 12 = n :=
  ((append_high _ _ 3 12).trans ((append_high _ _ 0 12).trans ((append_low _ _ 0 12 (by decide)).trans (whole _))))

theorem packC_fn (op : BitVec 6) (g : BitVec 5) (n : BitVec 12) (fn : BitVec 3) :
    (packC op g n fn).extractLsb' 6 3 = fn :=
  ((append_high _ _ 0 3).trans ((append_low _ _ 0 3 (by decide)).trans (whole _)))

theorem packC_z (op : BitVec 6) (g : BitVec 5) (n : BitVec 12) (fn : BitVec 3) :
    (packC op g n fn).extractLsb' 0 6 = 0 :=
  ((append_low _ _ 0 6 (by decide)).trans (whole _))

theorem packV_op (op : BitVec 6) (d : BitVec 5) (a : BitVec 5) (b : BitVec 5) (k : BitVec 3) (t : BitVec 3) (fn : BitVec 5) :
    (packV op d a b k t fn).extractLsb' 26 6 = op :=
  ((append_high _ _ 21 6).trans ((append_high _ _ 18 6).trans ((append_high _ _ 15 6).trans ((append_high _ _ 10 6).trans ((append_high _ _ 5 6).trans ((append_high _ _ 0 6).trans (whole _)))))))

theorem packV_d (op : BitVec 6) (d : BitVec 5) (a : BitVec 5) (b : BitVec 5) (k : BitVec 3) (t : BitVec 3) (fn : BitVec 5) :
    (packV op d a b k t fn).extractLsb' 21 5 = d :=
  ((append_high _ _ 16 5).trans ((append_high _ _ 13 5).trans ((append_high _ _ 10 5).trans ((append_high _ _ 5 5).trans ((append_high _ _ 0 5).trans ((append_low _ _ 0 5 (by decide)).trans (whole _)))))))

theorem packV_a (op : BitVec 6) (d : BitVec 5) (a : BitVec 5) (b : BitVec 5) (k : BitVec 3) (t : BitVec 3) (fn : BitVec 5) :
    (packV op d a b k t fn).extractLsb' 16 5 = a :=
  ((append_high _ _ 11 5).trans ((append_high _ _ 8 5).trans ((append_high _ _ 5 5).trans ((append_high _ _ 0 5).trans ((append_low _ _ 0 5 (by decide)).trans (whole _))))))

theorem packV_b (op : BitVec 6) (d : BitVec 5) (a : BitVec 5) (b : BitVec 5) (k : BitVec 3) (t : BitVec 3) (fn : BitVec 5) :
    (packV op d a b k t fn).extractLsb' 11 5 = b :=
  ((append_high _ _ 6 5).trans ((append_high _ _ 3 5).trans ((append_high _ _ 0 5).trans ((append_low _ _ 0 5 (by decide)).trans (whole _)))))

theorem packV_k (op : BitVec 6) (d : BitVec 5) (a : BitVec 5) (b : BitVec 5) (k : BitVec 3) (t : BitVec 3) (fn : BitVec 5) :
    (packV op d a b k t fn).extractLsb' 8 3 = k :=
  ((append_high _ _ 3 3).trans ((append_high _ _ 0 3).trans ((append_low _ _ 0 3 (by decide)).trans (whole _))))

theorem packV_t (op : BitVec 6) (d : BitVec 5) (a : BitVec 5) (b : BitVec 5) (k : BitVec 3) (t : BitVec 3) (fn : BitVec 5) :
    (packV op d a b k t fn).extractLsb' 5 3 = t :=
  ((append_high _ _ 0 3).trans ((append_low _ _ 0 3 (by decide)).trans (whole _)))

theorem packV_fn (op : BitVec 6) (d : BitVec 5) (a : BitVec 5) (b : BitVec 5) (k : BitVec 3) (t : BitVec 3) (fn : BitVec 5) :
    (packV op d a b k t fn).extractLsb' 0 5 = fn :=
  ((append_low _ _ 0 5 (by decide)).trans (whole _))

theorem packD_op (op : BitVec 6) (d : BitVec 5) (a : BitVec 5) (b : BitVec 5) (c : BitVec 4) (k : BitVec 3) (fn : BitVec 4) :
    (packD op d a b c k fn).extractLsb' 26 6 = op :=
  ((append_high _ _ 22 6).trans ((append_high _ _ 19 6).trans ((append_high _ _ 15 6).trans ((append_high _ _ 10 6).trans ((append_high _ _ 5 6).trans ((append_high _ _ 0 6).trans (whole _)))))))

theorem packD_d (op : BitVec 6) (d : BitVec 5) (a : BitVec 5) (b : BitVec 5) (c : BitVec 4) (k : BitVec 3) (fn : BitVec 4) :
    (packD op d a b c k fn).extractLsb' 21 5 = d :=
  ((append_high _ _ 17 5).trans ((append_high _ _ 14 5).trans ((append_high _ _ 10 5).trans ((append_high _ _ 5 5).trans ((append_high _ _ 0 5).trans ((append_low _ _ 0 5 (by decide)).trans (whole _)))))))

theorem packD_a (op : BitVec 6) (d : BitVec 5) (a : BitVec 5) (b : BitVec 5) (c : BitVec 4) (k : BitVec 3) (fn : BitVec 4) :
    (packD op d a b c k fn).extractLsb' 16 5 = a :=
  ((append_high _ _ 12 5).trans ((append_high _ _ 9 5).trans ((append_high _ _ 5 5).trans ((append_high _ _ 0 5).trans ((append_low _ _ 0 5 (by decide)).trans (whole _))))))

theorem packD_b (op : BitVec 6) (d : BitVec 5) (a : BitVec 5) (b : BitVec 5) (c : BitVec 4) (k : BitVec 3) (fn : BitVec 4) :
    (packD op d a b c k fn).extractLsb' 11 5 = b :=
  ((append_high _ _ 7 5).trans ((append_high _ _ 4 5).trans ((append_high _ _ 0 5).trans ((append_low _ _ 0 5 (by decide)).trans (whole _)))))

theorem packD_c (op : BitVec 6) (d : BitVec 5) (a : BitVec 5) (b : BitVec 5) (c : BitVec 4) (k : BitVec 3) (fn : BitVec 4) :
    (packD op d a b c k fn).extractLsb' 7 4 = c :=
  ((append_high _ _ 3 4).trans ((append_high _ _ 0 4).trans ((append_low _ _ 0 4 (by decide)).trans (whole _))))

theorem packD_k (op : BitVec 6) (d : BitVec 5) (a : BitVec 5) (b : BitVec 5) (c : BitVec 4) (k : BitVec 3) (fn : BitVec 4) :
    (packD op d a b c k fn).extractLsb' 4 3 = k :=
  ((append_high _ _ 0 3).trans ((append_low _ _ 0 3 (by decide)).trans (whole _)))

theorem packD_fn (op : BitVec 6) (d : BitVec 5) (a : BitVec 5) (b : BitVec 5) (c : BitVec 4) (k : BitVec 3) (fn : BitVec 4) :
    (packD op d a b c k fn).extractLsb' 0 4 = fn :=
  ((append_low _ _ 0 4 (by decide)).trans (whole _))

theorem packD_low (op : BitVec 6) (d a b : BitVec 5) (c : BitVec 4) (k : BitVec 3) (fn : BitVec 4) :
    (packD op d a b c k fn).extractLsb' 26 3 = op.extractLsb' 0 3 :=
  (append_high _ _ 22 3).trans ((append_high _ _ 19 3).trans ((append_high _ _ 15 3).trans
    ((append_high _ _ 10 3).trans ((append_high _ _ 5 3).trans (append_high _ _ 0 3)))))

theorem movk_fields (op : BitVec 6) (d : BitVec 5) (pos : BitVec 2) (keep : BitVec 1) (k : BitVec 16) :
    (packI op d (pos ++ keep ++ 0#2) k).extractLsb' 16 2 = 0
    ∧ (packI op d (pos ++ keep ++ 0#2) k).extractLsb' 18 1 = keep
    ∧ (packI op d (pos ++ keep ++ 0#2) k).extractLsb' 19 2 = pos :=
  ⟨(append_high _ _ 0 2).trans ((append_low _ _ 0 2 (by decide)).trans (append_low _ _ 0 2 (by decide))),
    (append_high _ _ 2 1).trans ((append_low _ _ 2 1 (by decide)).trans ((append_high _ _ 0 1).trans
      ((append_low _ _ 0 1 (by decide)).trans (whole _)))),
    (append_high _ _ 3 2).trans ((append_low _ _ 3 2 (by decide)).trans ((append_high _ _ 1 2).trans
      ((append_high _ _ 0 2).trans (whole _))))⟩

theorem res_fields (op : BitVec 6) (d : BitVec 5) (word : BitVec 3) (k : BitVec 16) :
    (packI op d (0#2 ++ word) k).extractLsb' 19 2 = 0 ∧ (packI op d (0#2 ++ word) k).extractLsb' 16 3 = word :=
  ⟨(append_high _ _ 3 2).trans ((append_low _ _ 3 2 (by decide)).trans (append_high _ _ 0 2)),
    (append_high _ _ 0 3).trans ((append_low _ _ 0 3 (by decide)).trans ((append_low _ _ 0 3 (by decide)).trans
      (whole _)))⟩

theorem store_fields (op : BitVec 6) (d a : BitVec 5) (rel : BitVec 1) (z : BitVec 2) (disp : BitVec 12) :
    (packM op d a (rel ++ 0#1 ++ z) disp).extractLsb' 15 1 = rel
    ∧ (packM op d a (rel ++ 0#1 ++ z) disp).extractLsb' 12 2 = z :=
  ⟨(append_high _ _ 3 1).trans ((append_low _ _ 3 1 (by decide)).trans ((append_high _ _ 1 1).trans
      ((append_high _ _ 0 1).trans (whole _)))),
    (append_high _ _ 0 2).trans ((append_low _ _ 0 2 (by decide)).trans ((append_low _ _ 0 2 (by decide)).trans
      (whole _)))⟩

theorem vld_fields (op : BitVec 6) (v a : BitVec 5) (w : BitVec 4) (h : BitVec 1) (disp : BitVec 11) :
    (packM op v a w (h ++ disp)).extractLsb' 11 1 = h ∧ (packM op v a w (h ++ disp)).extractLsb' 0 11 = disp :=
  ⟨(append_low _ _ 11 1 (by decide)).trans ((append_high _ _ 0 1).trans (whole _)),
    (append_low _ _ 0 11 (by decide)).trans ((append_low _ _ 0 11 (by decide)).trans (whole _))⟩

theorem shift_fields (h : BitVec 8) (t : BitVec 2) (n : BitVec 6) :
    (h ++ t ++ n).extractLsb' 8 8 = h ∧ (h ++ t ++ n).extractLsb' 6 2 = t ∧ (h ++ t ++ n).extractLsb' 0 6 = n :=
  ⟨(append_high _ _ 2 8).trans ((append_high _ _ 0 8).trans (whole _)),
    (append_high _ _ 0 2).trans ((append_low _ _ 0 2 (by decide)).trans (whole _)),
    (append_low _ _ 0 6 (by decide)).trans (whole _)⟩

theorem code_fields (code : BitVec 15) :
    code.extractLsb' 10 5 ++ code.extractLsb' 5 5 ++ code.extractLsb' 0 5 = code := by
  rw [show code.extractLsb' 10 5 ++ code.extractLsb' 5 5 = code.extractLsb' 5 10 from join_fields code 5 5 5]
  exact (join_fields code 0 5 10).trans (whole code)

theorem bit_of_field (x : W32) (h : BitVec 1) (e : x.extractLsb' 11 1 = h) : x[11] = h[0] := by
  rw [← e]
  simp

/-! The decoder of each major opcode on a packed word (R119). -/

theorem raw_01 (d a b : BitVec 5) (fn : BitVec 6) (c : BitVec 5) :
    decodeRaw (packR 0x01 d a b fn c) = decodeSys d a b fn c := by
  simp [decodeRaw, packR_op, packR_d, packR_a, packR_b, packR_fn, packR_c]

theorem raw_03 (d a b : BitVec 5) (fn : BitVec 6) (c : BitVec 5) :
    decodeRaw (packR 0x03 d a b fn c) = decodeAlu d a b fn c := by
  simp [decodeRaw, packR_op, packR_d, packR_a, packR_b, packR_fn, packR_c]

theorem raw_04 (d a b : BitVec 5) (fn : BitVec 6) (c : BitVec 5) :
    decodeRaw (packR 0x04 d a b fn c) = decodeMul d a b fn c := by
  simp [decodeRaw, packR_op, packR_d, packR_a, packR_b, packR_fn, packR_c]

theorem raw_05 (d a b : BitVec 5) (fn : BitVec 6) (c : BitVec 5) :
    decodeRaw (packR 0x05 d a b fn c) = decodeBit d a b fn c := by
  simp [decodeRaw, packR_op, packR_d, packR_a, packR_b, packR_fn, packR_c]

theorem raw_0f (d a b : BitVec 5) (fn : BitVec 6) (c : BitVec 5) :
    decodeRaw (packR 0x0F d a b fn c) = decodeAdr d a b fn c := by
  simp [decodeRaw, packR_op, packR_d, packR_a, packR_b, packR_fn, packR_c]

theorem raw_13 (d a b : BitVec 5) (fn : BitVec 6) (c : BitVec 5) :
    decodeRaw (packR 0x13 d a b fn c) = decodeJr d a b fn c := by
  simp [decodeRaw, packR_op, packR_d, packR_a, packR_b, packR_fn, packR_c]

theorem raw_15 (d a b : BitVec 5) (fn : BitVec 6) (c : BitVec 5) :
    decodeRaw (packR 0x15 d a b fn c) = decodeCtx d a b fn c := by
  simp [decodeRaw, packR_op, packR_d, packR_a, packR_b, packR_fn, packR_c]

theorem raw_16 (d a b : BitVec 5) (fn : BitVec 6) (c : BitVec 5) :
    decodeRaw (packR 0x16 d a b fn c) = decodeObl d a b fn c := by
  simp [decodeRaw, packR_op, packR_d, packR_a, packR_b, packR_fn, packR_c]

theorem raw_17 (d a b : BitVec 5) (fn : BitVec 6) (c : BitVec 5) :
    decodeRaw (packR 0x17 d a b fn c) = decodeWt d a b fn c := by
  simp [decodeRaw, packR_op, packR_d, packR_a, packR_b, packR_fn, packR_c]

theorem raw_1a (d a b : BitVec 5) (fn : BitVec 6) (c : BitVec 5) :
    decodeRaw (packR 0x1A d a b fn c) = decodeAtom d a b fn c := by
  simp [decodeRaw, packR_op, packR_d, packR_a, packR_b, packR_fn, packR_c]

theorem raw_1b (d a b : BitVec 5) (fn : BitVec 6) (c : BitVec 5) :
    decodeRaw (packR 0x1B d a b fn c) = decodeLlk d a b fn c := by
  simp [decodeRaw, packR_op, packR_d, packR_a, packR_b, packR_fn, packR_c]

theorem raw_1c (d a b : BitVec 5) (fn : BitVec 6) (c : BitVec 5) :
    decodeRaw (packR 0x1C d a b fn c) = decodeFen d a b fn c := by
  simp [decodeRaw, packR_op, packR_d, packR_a, packR_b, packR_fn, packR_c]

theorem raw_1f (d a b : BitVec 5) (fn : BitVec 6) (c : BitVec 5) :
    decodeRaw (packR 0x1F d a b fn c) = decodeQmem d a b fn c := by
  simp [decodeRaw, packR_op, packR_d, packR_a, packR_b, packR_fn, packR_c]

theorem raw_20 (d a b : BitVec 5) (fn : BitVec 6) (c : BitVec 5) :
    decodeRaw (packR 0x20 d a b fn c) = decodeCpy d a b fn c := by
  simp [decodeRaw, packR_op, packR_d, packR_a, packR_b, packR_fn, packR_c]

theorem raw_21 (d a b : BitVec 5) (fn : BitVec 6) (c : BitVec 5) :
    decodeRaw (packR 0x21 d a b fn c) = decodeStm d a b fn c := by
  simp [decodeRaw, packR_op, packR_d, packR_a, packR_b, packR_fn, packR_c]

theorem raw_22 (d a b : BitVec 5) (k t : BitVec 3) (fn : BitVec 5) :
    decodeRaw (packV 0x22 d a b k t fn) = decodeVi d a b k t fn := by
  simp [decodeRaw, packV_op, packV_d, packV_a, packV_b, packV_k, packV_t, packV_fn]

theorem raw_23 (d a b : BitVec 5) (k t : BitVec 3) (fn : BitVec 5) :
    decodeRaw (packV 0x23 d a b k t fn) = decodeVf d a b k t fn := by
  simp [decodeRaw, packV_op, packV_d, packV_a, packV_b, packV_k, packV_t, packV_fn]

theorem raw_24 (d a b : BitVec 5) (k t : BitVec 3) (fn : BitVec 5) :
    decodeRaw (packV 0x24 d a b k t fn) = decodeVx d a b k t fn := by
  simp [decodeRaw, packV_op, packV_d, packV_a, packV_b, packV_k, packV_t, packV_fn]

theorem raw_25 (d a b : BitVec 5) (k t : BitVec 3) (fn : BitVec 5) :
    decodeRaw (packV 0x25 d a b k t fn) = decodeVs d a b k t fn := by
  simp [decodeRaw, packV_op, packV_d, packV_a, packV_b, packV_k, packV_t, packV_fn]

theorem raw_26 (d a b : BitVec 5) (k t : BitVec 3) (fn : BitVec 5) :
    decodeRaw (packV 0x26 d a b k t fn) = decodeVr d a b k t fn := by
  simp [decodeRaw, packV_op, packV_d, packV_a, packV_b, packV_k, packV_t, packV_fn]

theorem raw_30 (d a b : BitVec 5) (fn : BitVec 6) (c : BitVec 5) :
    decodeRaw (packR 0x30 d a b fn c) = decodeQm d a b fn c := by
  simp [decodeRaw, packR_op, packR_d, packR_a, packR_b, packR_fn, packR_c]

theorem raw_31 (d a b : BitVec 5) (k t : BitVec 3) (fn : BitVec 5) :
    decodeRaw (packV 0x31 d a b k t fn) = decodeQf d a b k t fn := by
  simp [decodeRaw, packV_op, packV_d, packV_a, packV_b, packV_k, packV_t, packV_fn]

theorem raw_32 (d a b : BitVec 5) (k t : BitVec 3) (fn : BitVec 5) :
    decodeRaw (packV 0x32 d a b k t fn) = decodeQi d a b k t fn := by
  simp [decodeRaw, packV_op, packV_d, packV_a, packV_b, packV_k, packV_t, packV_fn]

theorem raw_33 (d a b : BitVec 5) (k t : BitVec 3) (fn : BitVec 5) :
    decodeRaw (packV 0x33 d a b k t fn) = decodeQr d a b k t fn := by
  simp [decodeRaw, packV_op, packV_d, packV_a, packV_b, packV_k, packV_t, packV_fn]

theorem raw_34 (d a b : BitVec 5) (fn : BitVec 6) (c : BitVec 5) :
    decodeRaw (packR 0x34 d a b fn c) = decodeMx d a b fn c := by
  simp [decodeRaw, packR_op, packR_d, packR_a, packR_b, packR_fn, packR_c]

theorem raw_35 (d a b : BitVec 5) (fn : BitVec 6) (c : BitVec 5) :
    decodeRaw (packR 0x35 d a b fn c) = decodeBk d a b fn c := by
  simp [decodeRaw, packR_op, packR_d, packR_a, packR_b, packR_fn, packR_c]

theorem raw_36 (d a b : BitVec 5) (fn : BitVec 6) (c : BitVec 5) :
    decodeRaw (packR 0x36 d a b fn c) = decodePl d a b fn c := by
  simp [decodeRaw, packR_op, packR_d, packR_a, packR_b, packR_fn, packR_c]

theorem raw_37 (d a b : BitVec 5) (fn : BitVec 6) (c : BitVec 5) :
    decodeRaw (packR 0x37 d a b fn c) = decodeXc d a b fn c := by
  simp [decodeRaw, packR_op, packR_d, packR_a, packR_b, packR_fn, packR_c]

theorem raw_02 (g : BitVec 5) (n : BitVec 12) (fn : BitVec 3) :
    decodeRaw (packC 0x02 g n fn) = decodeCr g n fn 0 := by
  simp [decodeRaw, packC_op, packC_g, packC_n, packC_fn, packC_z]

theorem raw_10 (a b : BitVec 5) (cc : BitVec 3) (nul : BitVec 2) (disp : BitVec 11) :
    decodeRaw (packB 0x10 a b cc nul disp) = .ok (decodeBc a b cc nul disp) := by
  simp [decodeRaw, packB_op, packB_a, packB_b, packB_cc, packB_nul, packB_disp]

theorem raw_0a (d a : BitVec 5) (k : BitVec 16) : decodeRaw (packI 0x0A d a k) = decodeShi d a k := by
  simp [decodeRaw, packI_op, packI_d, packI_a, packI_k]

theorem raw_pair (p : BitVec 3) (d a b : BitVec 5) (c : BitVec 4) (k : BitVec 3) (fn : BitVec 4) :
    decodeRaw (packD (5#3 ++ p) d a b c k fn) = decodeDot p d a b c k fn := by
  have hp : ∀ q : BitVec 3, q = 0 ∨ q = 1 ∨ q = 2 ∨ q = 3 ∨ q = 4 ∨ q = 5 ∨ q = 6 ∨ q = 7 := by decide
  rcases hp p with e | e | e | e | e | e | e | e <;> subst e <;>
    simp [decodeRaw, packD_op, packD_d, packD_a, packD_b, packD_c, packD_k, packD_fn, packD_low]

/-! Small fields. -/

theorem low1 : ∀ z : BitVec 1, (0#4 ++ z).extractLsb' 1 4 = 0 ∧ (0#4 ++ z).extractLsb' 0 1 = z := by decide

theorem low2 : ∀ z : BitVec 2, (0#3 ++ z).extractLsb' 2 3 = 0 ∧ (0#3 ++ z).extractLsb' 0 2 = z := by decide

theorem cond_field : ∀ x : BitVec 3, (2#2 ++ x).extractLsb' 0 3 = x ∧ (2#2 ++ x).toNat = 16 + x.toNat := by decide

theorem order_field : ∀ x : BitVec 2, ∀ f : BitVec 4,
    (x ++ f).extractLsb' 4 2 = x ∧ (x ++ f).extractLsb' 0 4 = f := by decide

theorem store_bit : ∀ rel : BitVec 1, ∀ z : BitVec 2, (rel ++ 0#1 ++ z)[2] = false := by decide

end Sys2Proof.Laws

namespace Sys2Proof.Laws.F

set_option Elab.async false

/-- The word of a well-formed instruction decodes to it. -/
def Statement (i : Instr) : Prop := ∀ w, i.wellFormed = true → encode i = some w → decodeWord w = .ok i

theorem of_raw {i : Instr} {w : W32} (he : encode i = some w) (hr : decodeRaw w = .ok i) : Statement i := by
  intro v hi hv
  obtain rfl := Option.some.inj (he.symm.trans hv)
  simp [decodeWord, hr, Option.isNone_iff_eq_none.mp hi]

theorem of_none {i : Instr} (he : encode i = none) : Statement i := by
  intro v _ hv
  rw [he] at hv
  cases hv

theorem nop : Statement .nop :=
  of_raw rfl ((raw_01 _ _ _ _ _).trans rfl)

theorem halt : Statement .halt :=
  of_raw rfl ((raw_01 _ _ _ _ _).trans rfl)

theorem idle : Statement .idle :=
  of_raw rfl ((raw_01 _ _ _ _ _).trans rfl)

theorem eret : Statement .eret :=
  of_raw rfl ((raw_01 _ _ _ _ _).trans rfl)

theorem trap (code : BitVec 15) : Statement (.trap code) := by
  refine of_raw rfl ((raw_01 _ _ _ _ _).trans ?_)
  simp [decodeSys, mbz, code_fields]

theorem brk (code : BitVec 15) : Statement (.brk code) := by
  refine of_raw rfl ((raw_01 _ _ _ _ _).trans ?_)
  simp [decodeSys, mbz, code_fields]

theorem yield : Statement .yield :=
  of_raw rfl ((raw_01 _ _ _ _ _).trans rfl)

theorem fencei : Statement .fencei :=
  of_raw rfl ((raw_01 _ _ _ _ _).trans rfl)

theorem mfc (g : BitVec 5) (n : BitVec 12) : Statement (.mfc g n) :=
  of_raw rfl ((raw_02 _ _ _).trans rfl)

theorem mtc (g : BitVec 5) (n : BitVec 12) : Statement (.mtc g n) :=
  of_raw rfl ((raw_02 _ _ _).trans rfl)

theorem mxc (g : BitVec 5) (n : BitVec 12) : Statement (.mxc g n) :=
  of_raw rfl ((raw_02 _ _ _).trans rfl)

theorem mset (g : BitVec 5) (n : BitVec 12) : Statement (.mset g n) :=
  of_raw rfl ((raw_02 _ _ _).trans rfl)

theorem mclr (g : BitVec 5) (n : BitVec 12) : Statement (.mclr g n) :=
  of_raw rfl ((raw_02 _ _ _).trans rfl)

theorem add (d : BitVec 5) (a : BitVec 5) (b : BitVec 5) : Statement (.add d a b) :=
  of_raw rfl ((raw_03 _ _ _ _ _).trans rfl)

theorem sub (d : BitVec 5) (a : BitVec 5) (b : BitVec 5) : Statement (.sub d a b) :=
  of_raw rfl ((raw_03 _ _ _ _ _).trans rfl)

theorem and (d : BitVec 5) (a : BitVec 5) (b : BitVec 5) : Statement (.and d a b) :=
  of_raw rfl ((raw_03 _ _ _ _ _).trans rfl)

theorem or (d : BitVec 5) (a : BitVec 5) (b : BitVec 5) : Statement (.or d a b) :=
  of_raw rfl ((raw_03 _ _ _ _ _).trans rfl)

theorem xor (d : BitVec 5) (a : BitVec 5) (b : BitVec 5) : Statement (.xor d a b) :=
  of_raw rfl ((raw_03 _ _ _ _ _).trans rfl)

theorem andn (d : BitVec 5) (a : BitVec 5) (b : BitVec 5) : Statement (.andn d a b) :=
  of_raw rfl ((raw_03 _ _ _ _ _).trans rfl)

theorem orn (d : BitVec 5) (a : BitVec 5) (b : BitVec 5) : Statement (.orn d a b) :=
  of_raw rfl ((raw_03 _ _ _ _ _).trans rfl)

theorem shl (d : BitVec 5) (a : BitVec 5) (b : BitVec 5) : Statement (.shl d a b) :=
  of_raw rfl ((raw_03 _ _ _ _ _).trans rfl)

theorem shr (d : BitVec 5) (a : BitVec 5) (b : BitVec 5) : Statement (.shr d a b) :=
  of_raw rfl ((raw_03 _ _ _ _ _).trans rfl)

theorem sar (d : BitVec 5) (a : BitVec 5) (b : BitVec 5) : Statement (.sar d a b) :=
  of_raw rfl ((raw_03 _ _ _ _ _).trans rfl)

theorem rol (d : BitVec 5) (a : BitVec 5) (b : BitVec 5) : Statement (.rol d a b) :=
  of_raw rfl ((raw_03 _ _ _ _ _).trans rfl)

theorem min (d : BitVec 5) (a : BitVec 5) (b : BitVec 5) : Statement (.min d a b) :=
  of_raw rfl ((raw_03 _ _ _ _ _).trans rfl)

theorem max (d : BitVec 5) (a : BitVec 5) (b : BitVec 5) : Statement (.max d a b) :=
  of_raw rfl ((raw_03 _ _ _ _ _).trans rfl)

theorem minw (d : BitVec 5) (a : BitVec 5) (b : BitVec 5) : Statement (.minw d a b) :=
  of_raw rfl ((raw_03 _ _ _ _ _).trans rfl)

theorem maxw (d : BitVec 5) (a : BitVec 5) (b : BitVec 5) : Statement (.maxw d a b) :=
  of_raw rfl ((raw_03 _ _ _ _ _).trans rfl)

theorem slt (d : BitVec 5) (a : BitVec 5) (b : BitVec 5) : Statement (.slt d a b) :=
  of_raw rfl ((raw_03 _ _ _ _ _).trans rfl)

theorem sltw (d : BitVec 5) (a : BitVec 5) (b : BitVec 5) : Statement (.sltw d a b) :=
  of_raw rfl ((raw_03 _ _ _ _ _).trans rfl)

theorem seq (d : BitVec 5) (a : BitVec 5) (b : BitVec 5) : Statement (.seq d a b) :=
  of_raw rfl ((raw_03 _ _ _ _ _).trans rfl)

theorem sne (d : BitVec 5) (a : BitVec 5) (b : BitVec 5) : Statement (.sne d a b) :=
  of_raw rfl ((raw_03 _ _ _ _ _).trans rfl)

theorem cmov (d : BitVec 5) (a : BitVec 5) (b : BitVec 5) (c : BitVec 5) : Statement (.cmov d a b c) :=
  of_raw rfl ((raw_03 _ _ _ _ _).trans rfl)

theorem mul (d : BitVec 5) (a : BitVec 5) (b : BitVec 5) : Statement (.mul d a b) :=
  of_raw rfl ((raw_04 _ _ _ _ _).trans rfl)

theorem mulh (d : BitVec 5) (a : BitVec 5) (b : BitVec 5) : Statement (.mulh d a b) :=
  of_raw rfl ((raw_04 _ _ _ _ _).trans rfl)

theorem mulhw (d : BitVec 5) (a : BitVec 5) (b : BitVec 5) : Statement (.mulhw d a b) :=
  of_raw rfl ((raw_04 _ _ _ _ _).trans rfl)

theorem mulw (d : BitVec 5) (a : BitVec 5) (b : BitVec 5) : Statement (.mulw d a b) :=
  of_raw rfl ((raw_04 _ _ _ _ _).trans rfl)

theorem div (d : BitVec 5) (a : BitVec 5) (b : BitVec 5) : Statement (.div d a b) :=
  of_raw rfl ((raw_04 _ _ _ _ _).trans rfl)

theorem divw (d : BitVec 5) (a : BitVec 5) (b : BitVec 5) : Statement (.divw d a b) :=
  of_raw rfl ((raw_04 _ _ _ _ _).trans rfl)

theorem rem (d : BitVec 5) (a : BitVec 5) (b : BitVec 5) : Statement (.rem d a b) :=
  of_raw rfl ((raw_04 _ _ _ _ _).trans rfl)

theorem remw (d : BitVec 5) (a : BitVec 5) (b : BitVec 5) : Statement (.remw d a b) :=
  of_raw rfl ((raw_04 _ _ _ _ _).trans rfl)

theorem clz (d : BitVec 5) (a : BitVec 5) : Statement (.clz d a) :=
  of_raw rfl ((raw_05 _ _ _ _ _).trans rfl)

theorem ctz (d : BitVec 5) (a : BitVec 5) : Statement (.ctz d a) :=
  of_raw rfl ((raw_05 _ _ _ _ _).trans rfl)

theorem popc (d : BitVec 5) (a : BitVec 5) : Statement (.popc d a) :=
  of_raw rfl ((raw_05 _ _ _ _ _).trans rfl)

theorem brev (d : BitVec 5) (a : BitVec 5) : Statement (.brev d a) :=
  of_raw rfl ((raw_05 _ _ _ _ _).trans rfl)

theorem bswap (d : BitVec 5) (a : BitVec 5) : Statement (.bswap d a) :=
  of_raw rfl ((raw_05 _ _ _ _ _).trans rfl)

theorem sext (d : BitVec 5) (a : BitVec 5) (h : BitVec 1) (n : BitVec 5) : Statement (.sext d a h n) := by
  refine of_raw rfl ((raw_05 _ _ _ _ _).trans ?_)
  simp [decodeBit, mbz, low1]

theorem zext (d : BitVec 5) (a : BitVec 5) (h : BitVec 1) (n : BitVec 5) : Statement (.zext d a h n) := by
  refine of_raw rfl ((raw_05 _ _ _ _ _).trans ?_)
  simp [decodeBit, mbz, low1]

theorem bext (d : BitVec 5) (a : BitVec 5) (b : BitVec 5) : Statement (.bext d a b) :=
  of_raw rfl ((raw_05 _ _ _ _ _).trans rfl)

theorem bins (d : BitVec 5) (a : BitVec 5) (b : BitVec 5) : Statement (.bins d a b) :=
  of_raw rfl ((raw_05 _ _ _ _ _).trans rfl)

theorem addi (d : BitVec 5) (a : BitVec 5) (k : BitVec 16) : Statement (.addi d a k) := by
  refine of_raw rfl ?_
  simp [decodeRaw, packI_op, packI_d, packI_a, packI_k]

theorem andi (d : BitVec 5) (a : BitVec 5) (k : BitVec 16) : Statement (.andi d a k) := by
  refine of_raw rfl ?_
  simp [decodeRaw, packI_op, packI_d, packI_a, packI_k]

theorem ori (d : BitVec 5) (a : BitVec 5) (k : BitVec 16) : Statement (.ori d a k) := by
  refine of_raw rfl ?_
  simp [decodeRaw, packI_op, packI_d, packI_a, packI_k]

theorem xori (d : BitVec 5) (a : BitVec 5) (k : BitVec 16) : Statement (.xori d a k) := by
  refine of_raw rfl ?_
  simp [decodeRaw, packI_op, packI_d, packI_a, packI_k]

theorem shli (d : BitVec 5) (a : BitVec 5) (s : BitVec 6) : Statement (.shli d a s) := by
  refine of_raw rfl ((raw_0a _ _ _).trans ?_)
  obtain ⟨h1, h2, h3⟩ := shift_fields 0#8 0#2 s
  rw [decodeShi, h1, h2, h3]
  rfl

theorem shri (d : BitVec 5) (a : BitVec 5) (s : BitVec 6) : Statement (.shri d a s) := by
  refine of_raw rfl ((raw_0a _ _ _).trans ?_)
  obtain ⟨h1, h2, h3⟩ := shift_fields 0#8 1#2 s
  rw [decodeShi, h1, h2, h3]
  rfl

theorem sari (d : BitVec 5) (a : BitVec 5) (s : BitVec 6) : Statement (.sari d a s) := by
  refine of_raw rfl ((raw_0a _ _ _).trans ?_)
  obtain ⟨h1, h2, h3⟩ := shift_fields 0#8 2#2 s
  rw [decodeShi, h1, h2, h3]
  rfl

theorem roli (d : BitVec 5) (a : BitVec 5) (s : BitVec 6) : Statement (.roli d a s) := by
  refine of_raw rfl ((raw_0a _ _ _).trans ?_)
  obtain ⟨h1, h2, h3⟩ := shift_fields 0#8 3#2 s
  rw [decodeShi, h1, h2, h3]
  rfl

theorem slti (d : BitVec 5) (a : BitVec 5) (k : BitVec 16) : Statement (.slti d a k) := by
  refine of_raw rfl ?_
  simp [decodeRaw, packI_op, packI_d, packI_a, packI_k]

theorem sltwi (d : BitVec 5) (a : BitVec 5) (k : BitVec 16) : Statement (.sltwi d a k) := by
  refine of_raw rfl ?_
  simp [decodeRaw, packI_op, packI_d, packI_a, packI_k]

theorem movk (d : BitVec 5) (pos : BitVec 2) (keep : BitVec 1) (k : BitVec 16) : Statement (.movk d pos keep k) := by
  refine of_raw rfl ?_
  simp [decodeRaw, packI_op, packI_d, packI_k, movk_fields, mbz]

theorem lea (d : BitVec 5) (a : BitVec 5) (b : BitVec 5) (sc : BitVec 2) (disp : BitVec 9) : Statement (.lea d a b sc disp) := by
  refine of_raw rfl ?_
  simp [decodeRaw, packL_op, packL_d, packL_a, packL_b, packL_sc, packL_disp]

theorem gcoord (d : BitVec 5) (a : BitVec 5) : Statement (.gcoord d a) :=
  of_raw rfl ((raw_0f _ _ _ _ _).trans rfl)

theorem widf (d : BitVec 5) (f : BitVec 5) : Statement (.widf d f) :=
  of_raw rfl ((raw_0f _ _ _ _ _).trans rfl)

theorem self (d : BitVec 5) : Statement (.self d) :=
  of_raw rfl ((raw_0f _ _ _ _ _).trans rfl)

theorem cload (d : BitVec 5) : Statement (.cload d) :=
  of_raw rfl ((raw_0f _ _ _ _ _).trans rfl)

theorem beq (a : BitVec 5) (b : BitVec 5) (nul : BitVec 2) (disp : BitVec 11) : Statement (.beq a b nul disp) :=
  of_raw rfl ((raw_10 _ _ _ _ _).trans rfl)

theorem bne (a : BitVec 5) (b : BitVec 5) (nul : BitVec 2) (disp : BitVec 11) : Statement (.bne a b nul disp) :=
  of_raw rfl ((raw_10 _ _ _ _ _).trans rfl)

theorem blt (a : BitVec 5) (b : BitVec 5) (nul : BitVec 2) (disp : BitVec 11) : Statement (.blt a b nul disp) :=
  of_raw rfl ((raw_10 _ _ _ _ _).trans rfl)

theorem bge (a : BitVec 5) (b : BitVec 5) (nul : BitVec 2) (disp : BitVec 11) : Statement (.bge a b nul disp) :=
  of_raw rfl ((raw_10 _ _ _ _ _).trans rfl)

theorem bltw (a : BitVec 5) (b : BitVec 5) (nul : BitVec 2) (disp : BitVec 11) : Statement (.bltw a b nul disp) :=
  of_raw rfl ((raw_10 _ _ _ _ _).trans rfl)

theorem bgew (a : BitVec 5) (b : BitVec 5) (nul : BitVec 2) (disp : BitVec 11) : Statement (.bgew a b nul disp) :=
  of_raw rfl ((raw_10 _ _ _ _ _).trans rfl)

theorem bbs (a : BitVec 5) (b : BitVec 5) (nul : BitVec 2) (disp : BitVec 11) : Statement (.bbs a b nul disp) :=
  of_raw rfl ((raw_10 _ _ _ _ _).trans rfl)

theorem bbc (a : BitVec 5) (b : BitVec 5) (nul : BitVec 2) (disp : BitVec 11) : Statement (.bbc a b nul disp) :=
  of_raw rfl ((raw_10 _ _ _ _ _).trans rfl)

theorem j (disp : BitVec 26) : Statement (.j disp) := by
  refine of_raw rfl ?_
  simp [decodeRaw, packJ_op, packJ_disp]

theorem call (disp : BitVec 26) : Statement (.call disp) := by
  refine of_raw rfl ?_
  simp [decodeRaw, packJ_op, packJ_disp]

theorem jr (a : BitVec 5) : Statement (.jr a) :=
  of_raw rfl ((raw_13 _ _ _ _ _).trans rfl)

theorem callr (a : BitVec 5) : Statement (.callr a) :=
  of_raw rfl ((raw_13 _ _ _ _ _).trans rfl)

theorem ret : Statement .ret :=
  of_raw rfl ((raw_13 _ _ _ _ _).trans rfl)

theorem rpt (n : BitVec 4) (count : BitVec 10) (sd : BitVec 2) (sa : BitVec 2) (sb : BitVec 2) : Statement (.rpt n count sd sa sb) := by
  refine of_raw rfl ?_
  simp [decodeRaw, mbz, packF_op, packF_n, packF_count, packF_sd, packF_sa, packF_sb, packF_z]

theorem hstart (d : BitVec 5) (a : BitVec 5) (b : BitVec 5) (c : BitVec 5) : Statement (.hstart d a b c) :=
  of_raw rfl ((raw_15 _ _ _ _ _).trans rfl)

theorem hexit : Statement .hexit :=
  of_raw rfl ((raw_15 _ _ _ _ _).trans rfl)

theorem cpack (d : BitVec 5) (a : BitVec 5) (b : BitVec 5) : Statement (.cpack d a b) :=
  of_raw rfl ((raw_15 _ _ _ _ _).trans rfl)

theorem cresume (d : BitVec 5) (a : BitVec 5) : Statement (.cresume d a) :=
  of_raw rfl ((raw_15 _ _ _ _ _).trans rfl)

theorem migrate (d : BitVec 5) (a : BitVec 5) (b : BitVec 5) : Statement (.migrate d a b) :=
  of_raw rfl ((raw_15 _ _ _ _ _).trans rfl)

theorem hstat (d : BitVec 5) (slot : BitVec 5) : Statement (.hstat d slot) :=
  of_raw rfl ((raw_15 _ _ _ _ _).trans rfl)

theorem onew (d : BitVec 5) (a : BitVec 5) (b : BitVec 5) (kind : BitVec 5) : Statement (.onew d a b kind) :=
  of_raw rfl ((raw_16 _ _ _ _ _).trans rfl)

theorem ofree (a : BitVec 5) : Statement (.ofree a) :=
  of_raw rfl ((raw_16 _ _ _ _ _).trans rfl)

theorem oblig (d : BitVec 5) (a : BitVec 5) : Statement (.oblig d a) :=
  of_raw rfl ((raw_16 _ _ _ _ _).trans rfl)

theorem osig (a : BitVec 5) : Statement (.osig a) :=
  of_raw rfl ((raw_16 _ _ _ _ _).trans rfl)

theorem orel (a : BitVec 5) : Statement (.orel a) :=
  of_raw rfl ((raw_16 _ _ _ _ _).trans rfl)

theorem osend (d : BitVec 5) (a : BitVec 5) (b : BitVec 5) (c : BitVec 5) : Statement (.osend d a b c) :=
  of_raw rfl ((raw_16 _ _ _ _ _).trans rfl)

theorem ofail (a : BitVec 5) (b : BitVec 5) : Statement (.ofail a b) :=
  of_raw rfl ((raw_16 _ _ _ _ _).trans rfl)

theorem otrn (a : BitVec 5) (b : BitVec 5) (kind : BitVec 5) : Statement (.otrn a b kind) :=
  of_raw rfl ((raw_16 _ _ _ _ _).trans rfl)

theorem oseize (d : BitVec 5) (a : BitVec 5) : Statement (.oseize d a) :=
  of_raw rfl ((raw_16 _ _ _ _ _).trans rfl)

theorem rsplit (a : BitVec 5) (b : BitVec 5) : Statement (.rsplit a b) :=
  of_raw rfl ((raw_16 _ _ _ _ _).trans rfl)

theorem wait (d : BitVec 5) (a : BitVec 5) : Statement (.wait d a) :=
  of_raw rfl ((raw_17 _ _ _ _ _).trans rfl)

theorem barw (d : BitVec 5) (a : BitVec 5) : Statement (.barw d a) :=
  of_raw rfl ((raw_17 _ _ _ _ _).trans rfl)

theorem poll (d : BitVec 5) (a : BitVec 5) : Statement (.poll d a) :=
  of_raw rfl ((raw_17 _ _ _ _ _).trans rfl)

theorem oqry (d : BitVec 5) (a : BitVec 5) (field : BitVec 5) : Statement (.oqry d a field) :=
  of_raw rfl ((raw_17 _ _ _ _ _).trans rfl)

theorem ld (d : BitVec 5) (a : BitVec 5) (w : BitVec 4) (disp : BitVec 12) : Statement (.ld d a w disp) := by
  refine of_raw rfl ?_
  simp [decodeRaw, packM_op, packM_d, packM_a, packM_w, packM_disp]

theorem st (s : BitVec 5) (a : BitVec 5) (rel : BitVec 1) (z : BitVec 2) (disp : BitVec 12) : Statement (.st s a rel z disp) := by
  refine of_raw rfl ?_
  simp [decodeRaw, storeSize, mbz, store_fields, store_bit, packM_op, packM_d, packM_a, packM_w, packM_disp]

theorem aadd (d : BitVec 5) (a : BitVec 5) (b : BitVec 5) (ord : BitVec 2) (z : BitVec 1) : Statement (.aadd d a b ord z) := by
  refine of_raw rfl ((raw_1a _ _ _ _ _).trans ?_)
  simp [decodeAtom, low1, order_field]

theorem aand (d : BitVec 5) (a : BitVec 5) (b : BitVec 5) (ord : BitVec 2) (z : BitVec 1) : Statement (.aand d a b ord z) := by
  refine of_raw rfl ((raw_1a _ _ _ _ _).trans ?_)
  simp [decodeAtom, low1, order_field]

theorem aor (d : BitVec 5) (a : BitVec 5) (b : BitVec 5) (ord : BitVec 2) (z : BitVec 1) : Statement (.aor d a b ord z) := by
  refine of_raw rfl ((raw_1a _ _ _ _ _).trans ?_)
  simp [decodeAtom, low1, order_field]

theorem axor (d : BitVec 5) (a : BitVec 5) (b : BitVec 5) (ord : BitVec 2) (z : BitVec 1) : Statement (.axor d a b ord z) := by
  refine of_raw rfl ((raw_1a _ _ _ _ _).trans ?_)
  simp [decodeAtom, low1, order_field]

theorem amin (d : BitVec 5) (a : BitVec 5) (b : BitVec 5) (ord : BitVec 2) (z : BitVec 1) : Statement (.amin d a b ord z) := by
  refine of_raw rfl ((raw_1a _ _ _ _ _).trans ?_)
  simp [decodeAtom, low1, order_field]

theorem amax (d : BitVec 5) (a : BitVec 5) (b : BitVec 5) (ord : BitVec 2) (z : BitVec 1) : Statement (.amax d a b ord z) := by
  refine of_raw rfl ((raw_1a _ _ _ _ _).trans ?_)
  simp [decodeAtom, low1, order_field]

theorem aminw (d : BitVec 5) (a : BitVec 5) (b : BitVec 5) (ord : BitVec 2) (z : BitVec 1) : Statement (.aminw d a b ord z) := by
  refine of_raw rfl ((raw_1a _ _ _ _ _).trans ?_)
  simp [decodeAtom, low1, order_field]

theorem amaxw (d : BitVec 5) (a : BitVec 5) (b : BitVec 5) (ord : BitVec 2) (z : BitVec 1) : Statement (.amaxw d a b ord z) := by
  refine of_raw rfl ((raw_1a _ _ _ _ _).trans ?_)
  simp [decodeAtom, low1, order_field]

theorem aswp (d : BitVec 5) (a : BitVec 5) (b : BitVec 5) (ord : BitVec 2) (z : BitVec 1) : Statement (.aswp d a b ord z) := by
  refine of_raw rfl ((raw_1a _ _ _ _ _).trans ?_)
  simp [decodeAtom, low1, order_field]

theorem acas (d : BitVec 5) (a : BitVec 5) (b : BitVec 5) (ord : BitVec 2) (z : BitVec 1) : Statement (.acas d a b ord z) := by
  refine of_raw rfl ((raw_1a _ _ _ _ _).trans ?_)
  simp [decodeAtom, low1, order_field]

theorem afadd (d : BitVec 5) (a : BitVec 5) (b : BitVec 5) (ord : BitVec 2) (z : BitVec 1) : Statement (.afadd d a b ord z) := by
  refine of_raw rfl ((raw_1a _ _ _ _ _).trans ?_)
  simp [decodeAtom, low1, order_field]

theorem llk (d : BitVec 5) (a : BitVec 5) (z : BitVec 1) : Statement (.llk d a z) := by
  refine of_raw rfl ((raw_1b _ _ _ _ _).trans ?_)
  simp [decodeLlk, mbz, low1]

theorem sul (d : BitVec 5) (a : BitVec 5) (b : BitVec 5) (z : BitVec 1) : Statement (.sul d a b z) := by
  refine of_raw rfl ((raw_1b _ _ _ _ _).trans ?_)
  simp [decodeLlk, mbz, low1]

theorem sun (d : BitVec 5) (a : BitVec 5) : Statement (.sun d a) :=
  of_raw rfl ((raw_1b _ _ _ _ _).trans rfl)

theorem fence (a : BitVec 5) : Statement (.fence a) :=
  of_raw rfl ((raw_1c _ _ _ _ _).trans rfl)

theorem fencea (a : BitVec 5) : Statement (.fencea a) :=
  of_raw rfl ((raw_1c _ _ _ _ _).trans rfl)

theorem fencer (a : BitVec 5) : Statement (.fencer a) :=
  of_raw rfl ((raw_1c _ _ _ _ _).trans rfl)

theorem bfence : Statement .bfence :=
  of_raw rfl ((raw_1c _ _ _ _ _).trans rfl)

theorem qfence : Statement .qfence :=
  of_raw rfl ((raw_1c _ _ _ _ _).trans rfl)

theorem efence : Statement .efence :=
  of_raw rfl ((raw_1c _ _ _ _ _).trans rfl)

theorem mst (s : BitVec 5) (a : BitVec 5) (rel : BitVec 1) (z : BitVec 2) (disp : BitVec 12) : Statement (.mst s a rel z disp) := by
  refine of_raw rfl ?_
  simp [decodeRaw, storeSize, mbz, store_fields, store_bit, packM_op, packM_d, packM_a, packM_w, packM_disp]

theorem vld (v : BitVec 5) (a : BitVec 5) (disp : BitVec 11) : Statement (.vld v a disp) := by
  refine of_raw rfl ?_
  have hb := bit_of_field _ _ (vld_fields 30#6 v a 0#4 0#1 disp).1
  simp [decodeRaw, mbz, packM_op, packM_d, packM_a, packM_w, vld_fields, hb]

theorem vst (v : BitVec 5) (a : BitVec 5) (disp : BitVec 11) : Statement (.vst v a disp) := by
  refine of_raw rfl ?_
  have hb := bit_of_field _ _ (vld_fields 30#6 v a 0#4 1#1 disp).1
  simp [decodeRaw, mbz, packM_op, packM_d, packM_a, packM_w, vld_fields, hb]

theorem qld (q : BitVec 5) (a : BitVec 5) (b : BitVec 5) (z : BitVec 2) : Statement (.qld q a b z) := by
  refine of_raw rfl ((raw_1f _ _ _ _ _).trans ?_)
  simp [decodeQmem, mbz, low2]

theorem qst (q : BitVec 5) (a : BitVec 5) (b : BitVec 5) (z : BitVec 2) : Statement (.qst q a b z) := by
  refine of_raw rfl ((raw_1f _ _ _ _ _).trans ?_)
  simp [decodeQmem, mbz, low2]

theorem qgat (q : BitVec 5) (a : BitVec 5) (x : BitVec 5) (z : BitVec 2) : Statement (.qgat q a x z) := by
  refine of_raw rfl ((raw_1f _ _ _ _ _).trans ?_)
  simp [decodeQmem, mbz, low2]

theorem qsct (q : BitVec 5) (a : BitVec 5) (x : BitVec 5) (z : BitVec 2) : Statement (.qsct q a x z) := by
  refine of_raw rfl ((raw_1f _ _ _ _ _).trans ?_)
  simp [decodeQmem, mbz, low2]

theorem cpy (d : BitVec 5) (a : BitVec 5) (b : BitVec 5) (c : BitVec 5) : Statement (.cpy d a b c) :=
  of_raw rfl ((raw_20 _ _ _ _ _).trans rfl)

theorem cpy2 (d : BitVec 5) (a : BitVec 5) (b : BitVec 5) (c : BitVec 5) : Statement (.cpy2 d a b c) :=
  of_raw rfl ((raw_20 _ _ _ _ _).trans rfl)

theorem cpy3 (d : BitVec 5) (a : BitVec 5) (b : BitVec 5) (c : BitVec 5) : Statement (.cpy3 d a b c) :=
  of_raw rfl ((raw_20 _ _ _ _ _).trans rfl)

theorem cpyi (d : BitVec 5) (a : BitVec 5) (b : BitVec 5) (c : BitVec 5) : Statement (.cpyi d a b c) :=
  of_raw rfl ((raw_20 _ _ _ _ _).trans rfl)

theorem cpyr (d : BitVec 5) (a : BitVec 5) (b : BitVec 5) (c : BitVec 5) : Statement (.cpyr d a b c) :=
  of_raw rfl ((raw_20 _ _ _ _ _).trans rfl)

theorem cpyrs (d : BitVec 5) (a : BitVec 5) (b : BitVec 5) (c : BitVec 5) : Statement (.cpyrs d a b c) :=
  of_raw rfl ((raw_20 _ _ _ _ _).trans rfl)

theorem sopen (d : BitVec 5) (a : BitVec 5) (s : BitVec 5) (cls : BitVec 1) : Statement (.sopen d a s cls) := by
  refine of_raw rfl ((raw_21 _ _ _ _ _).trans ?_)
  simp [decodeStm, mbz, low1]

theorem sclose (d : BitVec 5) (s : BitVec 5) (cls : BitVec 1) : Statement (.sclose d s cls) := by
  refine of_raw rfl ((raw_21 _ _ _ _ _).trans ?_)
  simp [decodeStm, mbz, low1]

theorem sstat (d : BitVec 5) (s : BitVec 5) (cls : BitVec 1) : Statement (.sstat d s cls) := by
  refine of_raw rfl ((raw_21 _ _ _ _ _).trans ?_)
  simp [decodeStm, mbz, low1]

theorem vadd (d : BitVec 5) (a : BitVec 5) (b : BitVec 5) (m : BitVec 3) (t : BitVec 3) : Statement (.vadd d a b m t) :=
  of_raw rfl ((raw_22 _ _ _ _ _ _).trans rfl)

theorem vsub (d : BitVec 5) (a : BitVec 5) (b : BitVec 5) (m : BitVec 3) (t : BitVec 3) : Statement (.vsub d a b m t) :=
  of_raw rfl ((raw_22 _ _ _ _ _ _).trans rfl)

theorem vmul (d : BitVec 5) (a : BitVec 5) (b : BitVec 5) (m : BitVec 3) (t : BitVec 3) : Statement (.vmul d a b m t) :=
  of_raw rfl ((raw_22 _ _ _ _ _ _).trans rfl)

theorem vmulh (d : BitVec 5) (a : BitVec 5) (b : BitVec 5) (m : BitVec 3) (t : BitVec 3) : Statement (.vmulh d a b m t) :=
  of_raw rfl ((raw_22 _ _ _ _ _ _).trans rfl)

theorem vmin (d : BitVec 5) (a : BitVec 5) (b : BitVec 5) (m : BitVec 3) (t : BitVec 3) : Statement (.vmin d a b m t) :=
  of_raw rfl ((raw_22 _ _ _ _ _ _).trans rfl)

theorem vmax (d : BitVec 5) (a : BitVec 5) (b : BitVec 5) (m : BitVec 3) (t : BitVec 3) : Statement (.vmax d a b m t) :=
  of_raw rfl ((raw_22 _ _ _ _ _ _).trans rfl)

theorem vand (d : BitVec 5) (a : BitVec 5) (b : BitVec 5) (m : BitVec 3) (t : BitVec 3) : Statement (.vand d a b m t) :=
  of_raw rfl ((raw_22 _ _ _ _ _ _).trans rfl)

theorem vor (d : BitVec 5) (a : BitVec 5) (b : BitVec 5) (m : BitVec 3) (t : BitVec 3) : Statement (.vor d a b m t) :=
  of_raw rfl ((raw_22 _ _ _ _ _ _).trans rfl)

theorem vxor (d : BitVec 5) (a : BitVec 5) (b : BitVec 5) (m : BitVec 3) (t : BitVec 3) : Statement (.vxor d a b m t) :=
  of_raw rfl ((raw_22 _ _ _ _ _ _).trans rfl)

theorem vshl (d : BitVec 5) (a : BitVec 5) (b : BitVec 5) (m : BitVec 3) (t : BitVec 3) : Statement (.vshl d a b m t) :=
  of_raw rfl ((raw_22 _ _ _ _ _ _).trans rfl)

theorem vshr (d : BitVec 5) (a : BitVec 5) (b : BitVec 5) (m : BitVec 3) (t : BitVec 3) : Statement (.vshr d a b m t) :=
  of_raw rfl ((raw_22 _ _ _ _ _ _).trans rfl)

theorem vsar (d : BitVec 5) (a : BitVec 5) (b : BitVec 5) (m : BitVec 3) (t : BitVec 3) : Statement (.vsar d a b m t) :=
  of_raw rfl ((raw_22 _ _ _ _ _ _).trans rfl)

theorem vsel (d : BitVec 5) (a : BitVec 5) (b : BitVec 5) (m : BitVec 3) (t : BitVec 3) : Statement (.vsel d a b m t) :=
  of_raw rfl ((raw_22 _ _ _ _ _ _).trans rfl)

theorem vabs (d : BitVec 5) (a : BitVec 5) (m : BitVec 3) (t : BitVec 3) : Statement (.vabs d a m t) :=
  of_raw rfl ((raw_22 _ _ _ _ _ _).trans rfl)

theorem vcmp (d : BitVec 5) (a : BitVec 5) (b : BitVec 5) (m : BitVec 3) (t : BitVec 3) (cond : BitVec 3) : Statement (.vcmp d a b m t cond) := by
  refine of_raw rfl ((raw_22 _ _ _ _ _ _).trans ?_)
  have h : cond = 0 ∨ cond = 1 ∨ cond = 2 ∨ cond = 3 ∨ cond = 4 ∨ cond = 5 ∨ cond = 6 ∨ cond = 7 := by revert cond; decide
  rcases h with rfl | rfl | rfl | rfl | rfl | rfl | rfl | rfl <;> rfl

theorem vfadd (d : BitVec 5) (a : BitVec 5) (b : BitVec 5) (m : BitVec 3) (t : BitVec 3) : Statement (.vfadd d a b m t) :=
  of_raw rfl ((raw_23 _ _ _ _ _ _).trans rfl)

theorem vfsub (d : BitVec 5) (a : BitVec 5) (b : BitVec 5) (m : BitVec 3) (t : BitVec 3) : Statement (.vfsub d a b m t) :=
  of_raw rfl ((raw_23 _ _ _ _ _ _).trans rfl)

theorem vfmul (d : BitVec 5) (a : BitVec 5) (b : BitVec 5) (m : BitVec 3) (t : BitVec 3) : Statement (.vfmul d a b m t) :=
  of_raw rfl ((raw_23 _ _ _ _ _ _).trans rfl)

theorem vfma (d : BitVec 5) (a : BitVec 5) (b : BitVec 5) (m : BitVec 3) (t : BitVec 3) : Statement (.vfma d a b m t) :=
  of_raw rfl ((raw_23 _ _ _ _ _ _).trans rfl)

theorem vfms (d : BitVec 5) (a : BitVec 5) (b : BitVec 5) (m : BitVec 3) (t : BitVec 3) : Statement (.vfms d a b m t) :=
  of_raw rfl ((raw_23 _ _ _ _ _ _).trans rfl)

theorem vfmin (d : BitVec 5) (a : BitVec 5) (b : BitVec 5) (m : BitVec 3) (t : BitVec 3) : Statement (.vfmin d a b m t) :=
  of_raw rfl ((raw_23 _ _ _ _ _ _).trans rfl)

theorem vfmax (d : BitVec 5) (a : BitVec 5) (b : BitVec 5) (m : BitVec 3) (t : BitVec 3) : Statement (.vfmax d a b m t) :=
  of_raw rfl ((raw_23 _ _ _ _ _ _).trans rfl)

theorem vfabs (d : BitVec 5) (a : BitVec 5) (m : BitVec 3) (t : BitVec 3) : Statement (.vfabs d a m t) :=
  of_raw rfl ((raw_23 _ _ _ _ _ _).trans rfl)

theorem vfneg (d : BitVec 5) (a : BitVec 5) (m : BitVec 3) (t : BitVec 3) : Statement (.vfneg d a m t) :=
  of_raw rfl ((raw_23 _ _ _ _ _ _).trans rfl)

theorem vfcmp (d : BitVec 5) (a : BitVec 5) (b : BitVec 5) (m : BitVec 3) (t : BitVec 3) (cond : BitVec 3) : Statement (.vfcmp d a b m t cond) := by
  refine of_raw rfl ((raw_23 _ _ _ _ _ _).trans ?_)
  have h : cond = 0 ∨ cond = 1 ∨ cond = 2 ∨ cond = 3 ∨ cond = 4 ∨ cond = 5 ∨ cond = 6 ∨ cond = 7 := by revert cond; decide
  rcases h with rfl | rfl | rfl | rfl | rfl | rfl | rfl | rfl <;> rfl

theorem vcvt (d : BitVec 5) (a : BitVec 5) (src : BitVec 5) (m : BitVec 3) (t : BitVec 3) : Statement (.vcvt d a src m t) :=
  of_raw rfl ((raw_24 _ _ _ _ _ _).trans rfl)

theorem vqnt (d : BitVec 5) (a : BitVec 5) (f : BitVec 5) (t : BitVec 3) : Statement (.vqnt d a f t) :=
  of_raw rfl ((raw_24 _ _ _ _ _ _).trans rfl)

theorem vdq (d : BitVec 5) (a : BitVec 5) (f : BitVec 5) (t : BitVec 3) : Statement (.vdq d a f t) :=
  of_raw rfl ((raw_24 _ _ _ _ _ _).trans rfl)

theorem vshuf (d : BitVec 5) (a : BitVec 5) (b : BitVec 5) (m : BitVec 3) (t : BitVec 3) : Statement (.vshuf d a b m t) :=
  of_raw rfl ((raw_24 _ _ _ _ _ _).trans rfl)

theorem vperm (d : BitVec 5) (a : BitVec 5) (b : BitVec 5) (m : BitVec 3) (t : BitVec 3) : Statement (.vperm d a b m t) :=
  of_raw rfl ((raw_24 _ _ _ _ _ _).trans rfl)

theorem vbc (d : BitVec 5) (a : BitVec 5) (m : BitVec 3) (t : BitVec 3) : Statement (.vbc d a m t) :=
  of_raw rfl ((raw_24 _ _ _ _ _ _).trans rfl)

theorem vext (d : BitVec 5) (a : BitVec 5) (lane : BitVec 5) (t : BitVec 3) : Statement (.vext d a lane t) :=
  of_raw rfl ((raw_24 _ _ _ _ _ _).trans rfl)

theorem vins (d : BitVec 5) (a : BitVec 5) (lane : BitVec 5) (t : BitVec 3) : Statement (.vins d a lane t) :=
  of_raw rfl ((raw_24 _ _ _ _ _ _).trans rfl)

theorem vmovk (d : BitVec 5) (a : BitVec 5) : Statement (.vmovk d a) :=
  of_raw rfl ((raw_24 _ _ _ _ _ _).trans rfl)

theorem vexp2 (d : BitVec 5) (a : BitVec 5) (m : BitVec 3) (t : BitVec 3) : Statement (.vexp2 d a m t) :=
  of_raw rfl ((raw_25 _ _ _ _ _ _).trans rfl)

theorem vlog2 (d : BitVec 5) (a : BitVec 5) (m : BitVec 3) (t : BitVec 3) : Statement (.vlog2 d a m t) :=
  of_raw rfl ((raw_25 _ _ _ _ _ _).trans rfl)

theorem vrcp (d : BitVec 5) (a : BitVec 5) (m : BitVec 3) (t : BitVec 3) : Statement (.vrcp d a m t) :=
  of_raw rfl ((raw_25 _ _ _ _ _ _).trans rfl)

theorem vrsq (d : BitVec 5) (a : BitVec 5) (m : BitVec 3) (t : BitVec 3) : Statement (.vrsq d a m t) :=
  of_raw rfl ((raw_25 _ _ _ _ _ _).trans rfl)

theorem vsin (d : BitVec 5) (a : BitVec 5) (m : BitVec 3) (t : BitVec 3) : Statement (.vsin d a m t) :=
  of_raw rfl ((raw_25 _ _ _ _ _ _).trans rfl)

theorem vcos (d : BitVec 5) (a : BitVec 5) (m : BitVec 3) (t : BitVec 3) : Statement (.vcos d a m t) :=
  of_raw rfl ((raw_25 _ _ _ _ _ _).trans rfl)

theorem vtanh (d : BitVec 5) (a : BitVec 5) (m : BitVec 3) (t : BitVec 3) : Statement (.vtanh d a m t) :=
  of_raw rfl ((raw_25 _ _ _ _ _ _).trans rfl)

theorem vsigm (d : BitVec 5) (a : BitVec 5) (m : BitVec 3) (t : BitVec 3) : Statement (.vsigm d a m t) :=
  of_raw rfl ((raw_25 _ _ _ _ _ _).trans rfl)

theorem vrsum (d : BitVec 5) (a : BitVec 5) (m : BitVec 3) (t : BitVec 3) (int : BitVec 1) : Statement (.vrsum d a m t int) := by
  refine of_raw rfl ((raw_26 _ _ _ _ _ _).trans ?_)
  have h : int = 0 ∨ int = 1 := by revert int; decide
  rcases h with rfl | rfl <;> rfl

theorem vrmax (d : BitVec 5) (a : BitVec 5) (m : BitVec 3) (t : BitVec 3) (int : BitVec 1) : Statement (.vrmax d a m t int) := by
  refine of_raw rfl ((raw_26 _ _ _ _ _ _).trans ?_)
  have h : int = 0 ∨ int = 1 := by revert int; decide
  rcases h with rfl | rfl <;> rfl

theorem vrmin (d : BitVec 5) (a : BitVec 5) (m : BitVec 3) (t : BitVec 3) (int : BitVec 1) : Statement (.vrmin d a m t int) := by
  refine of_raw rfl ((raw_26 _ _ _ _ _ _).trans ?_)
  have h : int = 0 ∨ int = 1 := by revert int; decide
  rcases h with rfl | rfl <;> rfl

theorem res (d : BitVec 5) (word : BitVec 3) (k : BitVec 16) : Statement (.res d word k) := by
  refine of_raw rfl ?_
  simp [decodeRaw, packI_op, packI_d, packI_k, res_fields, mbz]

theorem vdot (p : BitVec 3) (d : BitVec 5) (a : BitVec 5) (b : BitVec 5) (c : BitVec 4) (m : BitVec 3) : Statement (.vdot p d a b c m) :=
  of_raw rfl ((raw_pair _ _ _ _ _ _ _).trans rfl)

theorem qdot (p : BitVec 3) (d : BitVec 5) (a : BitVec 5) (b : BitVec 5) (c : BitVec 4) : Statement (.qdot p d a b c) :=
  of_raw rfl ((raw_pair _ _ _ _ _ _ _).trans rfl)

theorem mxa (p : BitVec 3) (d : BitVec 5) (a : BitVec 5) (b : BitVec 5) (c : BitVec 4) : Statement (.mxa p d a b c) :=
  of_raw rfl ((raw_pair _ _ _ _ _ _ _).trans rfl)

theorem bmv (p : BitVec 3) (d : BitVec 5) (a : BitVec 5) (b : BitVec 5) (c : BitVec 4) : Statement (.bmv p d a b c) :=
  of_raw rfl ((raw_pair _ _ _ _ _ _ _).trans rfl)

theorem qdop (d : BitVec 5) (a : BitVec 5) (b : BitVec 5) : Statement (.qdop d a b) :=
  of_raw (w := packD (5#3 ++ 7#3) d a b 0 0 4) rfl ((raw_pair _ _ _ _ _ _ _).trans rfl)

theorem vlong : Statement .vlong :=
  of_raw rfl ((raw_30 _ _ _ _ _).trans rfl)

theorem vshort : Statement .vshort :=
  of_raw rfl ((raw_30 _ _ _ _ _).trans rfl)

theorem qmov (d : BitVec 5) (a : BitVec 5) : Statement (.qmov d a) :=
  of_raw rfl ((raw_30 _ _ _ _ _).trans rfl)

theorem qsplat (d : BitVec 5) (a : BitVec 5) (z : BitVec 2) : Statement (.qsplat d a z) := by
  refine of_raw rfl ((raw_30 _ _ _ _ _).trans ?_)
  simp [decodeQm, mbz, low2]

theorem qxv (d : BitVec 5) (a : BitVec 5) (b : BitVec 5) : Statement (.qxv d a b) :=
  of_raw rfl ((raw_30 _ _ _ _ _).trans rfl)

theorem qxq (d : BitVec 5) (a : BitVec 5) (b : BitVec 5) : Statement (.qxq d a b) :=
  of_raw rfl ((raw_30 _ _ _ _ _).trans rfl)

theorem qfadd (d : BitVec 5) (a : BitVec 5) (b : BitVec 5) (t : BitVec 3) : Statement (.qfadd d a b t) :=
  of_raw rfl ((raw_31 _ _ _ _ _ _).trans rfl)

theorem qfmul (d : BitVec 5) (a : BitVec 5) (b : BitVec 5) (t : BitVec 3) : Statement (.qfmul d a b t) :=
  of_raw rfl ((raw_31 _ _ _ _ _ _).trans rfl)

theorem qfma (d : BitVec 5) (a : BitVec 5) (b : BitVec 5) (t : BitVec 3) : Statement (.qfma d a b t) :=
  of_raw rfl ((raw_31 _ _ _ _ _ _).trans rfl)

theorem qfmin (d : BitVec 5) (a : BitVec 5) (b : BitVec 5) (t : BitVec 3) : Statement (.qfmin d a b t) :=
  of_raw rfl ((raw_31 _ _ _ _ _ _).trans rfl)

theorem qfmax (d : BitVec 5) (a : BitVec 5) (b : BitVec 5) (t : BitVec 3) : Statement (.qfmax d a b t) :=
  of_raw rfl ((raw_31 _ _ _ _ _ _).trans rfl)

theorem qcvt (d : BitVec 5) (a : BitVec 5) (src : BitVec 5) (t : BitVec 3) : Statement (.qcvt d a src t) :=
  of_raw rfl ((raw_31 _ _ _ _ _ _).trans rfl)

theorem qsel (d : BitVec 5) (a : BitVec 5) (b : BitVec 5) (t : BitVec 3) : Statement (.qsel d a b t) :=
  of_raw rfl ((raw_31 _ _ _ _ _ _).trans rfl)

theorem qfcmp (d : BitVec 5) (a : BitVec 5) (b : BitVec 5) (t : BitVec 3) (cond : BitVec 3) : Statement (.qfcmp d a b t cond) := by
  refine of_raw rfl ((raw_31 _ _ _ _ _ _).trans ?_)
  have h : cond = 0 ∨ cond = 1 ∨ cond = 2 ∨ cond = 3 ∨ cond = 4 ∨ cond = 5 ∨ cond = 6 ∨ cond = 7 := by revert cond; decide
  rcases h with rfl | rfl | rfl | rfl | rfl | rfl | rfl | rfl <;> rfl

theorem qadd (d : BitVec 5) (a : BitVec 5) (b : BitVec 5) (t : BitVec 3) : Statement (.qadd d a b t) :=
  of_raw rfl ((raw_32 _ _ _ _ _ _).trans rfl)

theorem qsub (d : BitVec 5) (a : BitVec 5) (b : BitVec 5) (t : BitVec 3) : Statement (.qsub d a b t) :=
  of_raw rfl ((raw_32 _ _ _ _ _ _).trans rfl)

theorem qmul (d : BitVec 5) (a : BitVec 5) (b : BitVec 5) (t : BitVec 3) : Statement (.qmul d a b t) :=
  of_raw rfl ((raw_32 _ _ _ _ _ _).trans rfl)

theorem qand (d : BitVec 5) (a : BitVec 5) (b : BitVec 5) (t : BitVec 3) : Statement (.qand d a b t) :=
  of_raw rfl ((raw_32 _ _ _ _ _ _).trans rfl)

theorem qor (d : BitVec 5) (a : BitVec 5) (b : BitVec 5) (t : BitVec 3) : Statement (.qor d a b t) :=
  of_raw rfl ((raw_32 _ _ _ _ _ _).trans rfl)

theorem qxor (d : BitVec 5) (a : BitVec 5) (b : BitVec 5) (t : BitVec 3) : Statement (.qxor d a b t) :=
  of_raw rfl ((raw_32 _ _ _ _ _ _).trans rfl)

theorem qshl (d : BitVec 5) (a : BitVec 5) (b : BitVec 5) (t : BitVec 3) : Statement (.qshl d a b t) :=
  of_raw rfl ((raw_32 _ _ _ _ _ _).trans rfl)

theorem qshr (d : BitVec 5) (a : BitVec 5) (b : BitVec 5) (t : BitVec 3) : Statement (.qshr d a b t) :=
  of_raw rfl ((raw_32 _ _ _ _ _ _).trans rfl)

theorem qmin (d : BitVec 5) (a : BitVec 5) (b : BitVec 5) (t : BitVec 3) : Statement (.qmin d a b t) :=
  of_raw rfl ((raw_32 _ _ _ _ _ _).trans rfl)

theorem qmax (d : BitVec 5) (a : BitVec 5) (b : BitVec 5) (t : BitVec 3) : Statement (.qmax d a b t) :=
  of_raw rfl ((raw_32 _ _ _ _ _ _).trans rfl)

theorem qcmp (d : BitVec 5) (a : BitVec 5) (b : BitVec 5) (t : BitVec 3) (cond : BitVec 3) : Statement (.qcmp d a b t cond) := by
  refine of_raw rfl ((raw_32 _ _ _ _ _ _).trans ?_)
  have h : cond = 0 ∨ cond = 1 ∨ cond = 2 ∨ cond = 3 ∨ cond = 4 ∨ cond = 5 ∨ cond = 6 ∨ cond = 7 := by revert cond; decide
  rcases h with rfl | rfl | rfl | rfl | rfl | rfl | rfl | rfl <;> rfl

theorem qrsum (d : BitVec 5) (a : BitVec 5) (t : BitVec 3) (int : BitVec 1) : Statement (.qrsum d a t int) := by
  refine of_raw rfl ((raw_33 _ _ _ _ _ _).trans ?_)
  have h : int = 0 ∨ int = 1 := by revert int; decide
  rcases h with rfl | rfl <;> rfl

theorem qrmax (d : BitVec 5) (a : BitVec 5) (t : BitVec 3) (int : BitVec 1) : Statement (.qrmax d a t int) := by
  refine of_raw rfl ((raw_33 _ _ _ _ _ _).trans ?_)
  have h : int = 0 ∨ int = 1 := by revert int; decide
  rcases h with rfl | rfl <;> rfl

theorem qrmin (d : BitVec 5) (a : BitVec 5) (t : BitVec 3) (int : BitVec 1) : Statement (.qrmin d a t int) := by
  refine of_raw rfl ((raw_33 _ _ _ _ _ _).trans ?_)
  have h : int = 0 ∨ int = 1 := by revert int; decide
  rcases h with rfl | rfl <;> rfl

theorem mxb (d : BitVec 5) (a : BitVec 5) (b : BitVec 5) : Statement (.mxb d a b) :=
  of_raw rfl ((raw_34 _ _ _ _ _).trans rfl)

theorem mxj (d : BitVec 5) (a : BitVec 5) : Statement (.mxj d a) :=
  of_raw rfl ((raw_34 _ _ _ _ _).trans rfl)

theorem mxcap (d : BitVec 5) (a : BitVec 5) (b : BitVec 5) : Statement (.mxcap d a b) :=
  of_raw rfl ((raw_34 _ _ _ _ _).trans rfl)

theorem mxst (d : BitVec 5) (a : BitVec 5) : Statement (.mxst d a) :=
  of_raw rfl ((raw_34 _ _ _ _ _).trans rfl)

theorem bvld (d : BitVec 5) (a : BitVec 5) (b : BitVec 5) : Statement (.bvld d a b) :=
  of_raw rfl ((raw_35 _ _ _ _ _).trans rfl)

theorem bvrd (d : BitVec 5) (a : BitVec 5) (b : BitVec 5) : Statement (.bvrd d a b) :=
  of_raw rfl ((raw_35 _ _ _ _ _).trans rfl)

theorem bcfg (d : BitVec 5) (a : BitVec 5) : Statement (.bcfg d a) :=
  of_raw rfl ((raw_35 _ _ _ _ _).trans rfl)

theorem bstat (d : BitVec 5) (a : BitVec 5) : Statement (.bstat d a) :=
  of_raw rfl ((raw_35 _ _ _ _ _).trans rfl)

theorem pbind (d : BitVec 5) (a : BitVec 5) : Statement (.pbind d a) :=
  of_raw rfl ((raw_36 _ _ _ _ _).trans rfl)

theorem pfree (d : BitVec 5) (a : BitVec 5) : Statement (.pfree d a) :=
  of_raw rfl ((raw_36 _ _ _ _ _).trans rfl)

theorem pstat (d : BitVec 5) (a : BitVec 5) : Statement (.pstat d a) :=
  of_raw rfl ((raw_36 _ _ _ _ _).trans rfl)

theorem enq (d : BitVec 5) (a : BitVec 5) : Statement (.enq d a) :=
  of_raw rfl ((raw_36 _ _ _ _ _).trans rfl)

theorem deq (d : BitVec 5) (a : BitVec 5) : Statement (.deq d a) :=
  of_raw rfl ((raw_36 _ _ _ _ _).trans rfl)

theorem xph (d : BitVec 5) (a : BitVec 5) (b : BitVec 5) : Statement (.xph d a b) :=
  of_raw rfl ((raw_37 _ _ _ _ _).trans rfl)

theorem xsnd (d : BitVec 5) (a : BitVec 5) (b : BitVec 5) (c : BitVec 5) : Statement (.xsnd d a b c) :=
  of_raw rfl ((raw_37 _ _ _ _ _).trans rfl)

theorem xrcv (d : BitVec 5) (a : BitVec 5) (b : BitVec 5) (c : BitVec 5) : Statement (.xrcv d a b c) :=
  of_raw rfl ((raw_37 _ _ _ _ _).trans rfl)

theorem xend (d : BitVec 5) : Statement (.xend d) :=
  of_raw rfl ((raw_37 _ _ _ _ _).trans rfl)

theorem xmrk (a : BitVec 5) (b : BitVec 5) : Statement (.xmrk a b) :=
  of_raw rfl ((raw_37 _ _ _ _ _).trans rfl)

theorem xvs (a : BitVec 5) (b : BitVec 5) : Statement (.xvs a b) :=
  of_raw rfl ((raw_37 _ _ _ _ _).trans rfl)

theorem codeObjectLoad : Statement .codeObjectLoad := of_none rfl

theorem launchMessage : Statement .launchMessage := of_none rfl

theorem placementDecision : Statement .placementDecision := of_none rfl

theorem itemDelivery : Statement .itemDelivery := of_none rfl

theorem launchAging : Statement .launchAging := of_none rfl

theorem waitRequest : Statement .waitRequest := of_none rfl

theorem discharge : Statement .discharge := of_none rfl

theorem homeOperation : Statement .homeOperation := of_none rfl

theorem homeAnswer : Statement .homeAnswer := of_none rfl

theorem wake : Statement .wake := of_none rfl

theorem cancel : Statement .cancel := of_none rfl

theorem obligationTransfer : Statement .obligationTransfer := of_none rfl

theorem hostRegistration : Statement .hostRegistration := of_none rfl

theorem hostLost : Statement .hostLost := of_none rfl

theorem refill : Statement .refill := of_none rfl

theorem continuationMessage : Statement .continuationMessage := of_none rfl

theorem spillRedelivery : Statement .spillRedelivery := of_none rfl

theorem clustldUpdate : Statement .clustldUpdate := of_none rfl

theorem governorSample : Statement .governorSample := of_none rfl

theorem takeUpcall : Statement .takeUpcall := of_none rfl

theorem resultArrival : Statement .resultArrival := of_none rfl

theorem streamRefill : Statement .streamRefill := of_none rfl

theorem lockRetry : Statement .lockRetry := of_none rfl

theorem llkLapse : Statement .llkLapse := of_none rfl

theorem pageWalk : Statement .pageWalk := of_none rfl

theorem tlbInvalidation : Statement .tlbInvalidation := of_none rfl

theorem completionNotice : Statement .completionNotice := of_none rfl

theorem migrationRequest : Statement .migrationRequest := of_none rfl

theorem pinrExpiry : Statement .pinrExpiry := of_none rfl

theorem mstStamp : Statement .mstStamp := of_none rfl

theorem mstApply : Statement .mstApply := of_none rfl

theorem leaseSetup : Statement .leaseSetup := of_none rfl

theorem reclaim : Statement .reclaim := of_none rfl

theorem demotionPageCopy : Statement .demotionPageCopy := of_none rfl

theorem leaseAcknowledgement : Statement .leaseAcknowledgement := of_none rfl

theorem boundReached : Statement .boundReached := of_none rfl

theorem copyStart : Statement .copyStart := of_none rfl

theorem copyComplete : Statement .copyComplete := of_none rfl

theorem cpyrAckTimeout : Statement .cpyrAckTimeout := of_none rfl

theorem mxbStart : Statement .mxbStart := of_none rfl

theorem mxbComplete : Statement .mxbComplete := of_none rfl

theorem computeJobStart : Statement .computeJobStart := of_none rfl

theorem computeJobComplete : Statement .computeJobComplete := of_none rfl

theorem mxcapArrival : Statement .mxcapArrival := of_none rfl

theorem mxcapTimeout : Statement .mxcapTimeout := of_none rfl

theorem bankJobComplete : Statement .bankJobComplete := of_none rfl

theorem lvuEntryComplete : Statement .lvuEntryComplete := of_none rfl

theorem segmentStart : Statement .segmentStart := of_none rfl

theorem gateDeadline : Statement .gateDeadline := of_none rfl

theorem segmentEnd : Statement .segmentEnd := of_none rfl

theorem bankStageEnqueue : Statement .bankStageEnqueue := of_none rfl

theorem hostAccess : Statement .hostAccess := of_none rfl

theorem flitReceive : Statement .flitReceive := of_none rfl

theorem replayRequest : Statement .replayRequest := of_none rfl

theorem fecLockLoss : Statement .fecLockLoss := of_none rfl

theorem keyExhaustion : Statement .keyExhaustion := of_none rfl

theorem lock : Statement .lock := of_none rfl

theorem start : Statement .start := of_none rfl

theorem managementReset : Statement .managementReset := of_none rfl

theorem getVersion : Statement .getVersion := of_none rfl

theorem getCapabilities : Statement .getCapabilities := of_none rfl

theorem negotiateAlgorithms : Statement .negotiateAlgorithms := of_none rfl

theorem getDigests : Statement .getDigests := of_none rfl

theorem getCertificate : Statement .getCertificate := of_none rfl

theorem challenge : Statement .challenge := of_none rfl

theorem getMeasurements : Statement .getMeasurements := of_none rfl

theorem keyExchange : Statement .keyExchange := of_none rfl

theorem finish : Statement .finish := of_none rfl

theorem keyUpdate : Statement .keyUpdate := of_none rfl

theorem phaseArrival : Statement .phaseArrival := of_none rfl

theorem phaseRelease : Statement .phaseRelease := of_none rfl

theorem arrivalTimeout : Statement .arrivalTimeout := of_none rfl

theorem startTick : Statement .startTick := of_none rfl

theorem phaseEnd : Statement .phaseEnd := of_none rfl

theorem failureNotice : Statement .failureNotice := of_none rfl

theorem wordDelivery : Statement .wordDelivery := of_none rfl

theorem combine : Statement .combine := of_none rfl

theorem markerStep : Statement .markerStep := of_none rfl

theorem entryReplace : Statement .entryReplace := of_none rfl

theorem epochBoundary : Statement .epochBoundary := of_none rfl

theorem contributionCutoff : Statement .contributionCutoff := of_none rfl

theorem bellResult : Statement .bellResult := of_none rfl

theorem clockSettle : Statement .clockSettle := of_none rfl

theorem join : Statement .join := of_none rfl

theorem leave : Statement .leave := of_none rfl

theorem breach : Statement .breach := of_none rfl

theorem preempt : Statement .preempt := of_none rfl

theorem resume : Statement .resume := of_none rfl

theorem sresume : Statement .sresume := of_none rfl

theorem hold : Statement .hold := of_none rfl

theorem unhold : Statement .unhold := of_none rfl

theorem restart : Statement .restart := of_none rfl

theorem unitFence : Statement .unitFence := of_none rfl

theorem unfence : Statement .unfence := of_none rfl

theorem fenceDeadline : Statement .fenceDeadline := of_none rfl

theorem spareAssign : Statement .spareAssign := of_none rfl

theorem moduleLeave : Statement .moduleLeave := of_none rfl

theorem scrub : Statement .scrub := of_none rfl

theorem boot : Statement .boot := of_none rfl

theorem firmwareUpdate : Statement .firmwareUpdate := of_none rfl

theorem recovery : Statement .recovery := of_none rfl

theorem securityAlarm : Statement .securityAlarm := of_none rfl

theorem thermalLimit : Statement .thermalLimit := of_none rfl

theorem powerOn : Statement .powerOn := of_none rfl

theorem illegalInstructionWord : Statement .illegalInstructionWord := of_none rfl

theorem fetchCheck : Statement .fetchCheck := of_none rfl

theorem accessAtHome : Statement .accessAtHome := of_none rfl

theorem storeAcknowledgement : Statement .storeAcknowledgement := of_none rfl

theorem millraceRequest : Statement .millraceRequest := of_none rfl

theorem lvuArbitration : Statement .lvuArbitration := of_none rfl

theorem linkTraining : Statement .linkTraining := of_none rfl

theorem portConfigurationWrite : Statement .portConfigurationWrite := of_none rfl

theorem powerFail : Statement .powerFail := of_none rfl

theorem controllerRestart : Statement .controllerRestart := of_none rfl

theorem rowRepair : Statement .rowRepair := of_none rfl

theorem codeObjectUnload : Statement .codeObjectUnload := of_none rfl

end Sys2Proof.Laws.F
end

