-- ==== Sys2Proof/Tests/Slice0.lean ====
section
/-!
SUPPORT. Small tests: what WellFormed refuses, words of the spec's encoding tables and what they decode to, and for
each statement for the provers states and operands that meet its hypotheses.
-/

namespace Sys2Proof.Tests

-- one theorem after the other: many kernel evaluations at once would each hold a thread's stack
set_option Elab.async false

open Sys2Proof.Machine

/-! States and readings of outcomes. -/

/-- Does an outcome give a next state as a test says? -/
def after (o : Host.Outcome State Fault Refusal) (p : State → Bool) : Bool :=
  match o with
  | .next t => p t
  | _ => false

/-- Does a result succeed, as a test says? -/
def okWith {α β : Type} (r : Except α β) (p : β → Bool) : Bool :=
  match r with
  | .ok x => p x
  | .error _ => false

/-- A state that handles a message. -/
def ev (m : Msg) (s : State) : State := { s with event := some m }

/-- g[r] of the issuing context set. -/
def setg (r : BitVec 5) (x : Word) (s : State) : State := s.mod fun c => c.setG r x

/-- Slot 0 at C level, as after reset, and the launch engine at work, as after bring-up. -/
def slotZero : State :=
  let s := State.reset
  { s with engine := { s.engine with refusing := false } }

/-- Slot 0 at S level. -/
def slotZeroS : State := slotZero.mod fun c => { c with level := .s }

/-- A helper in slot 1 issues; BOUND leaves the TCM free, and there is a save area in the core's own die SRAM. -/
def helper : State :=
  ((slotZero.setAt 1 (Ctx.reset .h .ready)).modCore fun c =>
    { c with cur := 1, stopped := false, sys := { c.sys with saveb := 0x0300000000100000, owedb := 0x0300000000110000 } })

/-- The helper in a slot of the issuing core holds an obligation. -/
def owing (h : Word) (k : OblKind) (s : State) : State :=
  s.modCore fun c => { c with reeve := c.reeve ++ [{ h := h, kind := k, owner := BitVec.ofNat 4 c.cur.val, mult := 1, order := 0 }] }

/-- The word of an instruction placed where the issuing context fetches. -/
def placing (w : Nat) (s : State) : State :=
  let t := writeBytes s (tcmBase s + s.ctx.queue.q0.toNat) (bytesOfNat 4 w)
  t.modCore fun c => { c with sys := { c.sys with xbound := 0x8000 } }


/-! An ill-formed term for each check of WellFormed, which the check refuses. -/

theorem smoke_noControlRegister :
    (([.mfc 22 4, .mtc 22 4, .mxc 22 4, .mset 22 4, .mclr 22 4] : List Instr).all
      fun i => i.ill == some .noControlRegister) = true := by decide

theorem smoke_range_0 :
    (([.widf 6 6, .beq 3 6 3 43, .bne 3 6 3 43, .blt 3 6 3 43, .bge 3 6 3 43, .bltw 3 6 3 43, .bgew 3 6 3 43,
      .bbs 3 6 3 43, .bbc 3 6 3 43, .hstart 3 6 5 11, .hstat 3 11, .onew 3 6 5 7, .otrn 6 5 4, .oqry 3 6 8,
      .ld 3 6 7 43, .vabs 3 6 5 4, .vcmp 3 6 5 2 7 6, .vfadd 6 5 2 7 6, .vfsub 6 5 2 7 6, .vfmul 6 5 2 7 6,
      .vfma 6 5 2 7 6, .vfms 6 5 2 7 6, .vfmin 6 5 2 7 6, .vfmax 6 5 2 7 6, .vfabs 3 6 5 6, .vfneg 3 6 5 6,
      .vfcmp 6 5 2 7 6 4, .vcvt 6 5 7 7 1, .vcvt 6 5 0 7 7, .vqnt 2 7 1 7] : List Instr).all
      fun i => i.ill == some .range) = true := by decide

theorem smoke_range_1 :
    (([.vdq 2 7 1 7, .vshuf 6 5 2 7 4, .vperm 6 5 2 7 4, .vbc 3 6 5 4, .vext 3 6 5 4, .vext 3 6 4 3, .vins 3 6 5 4,
      .vins 3 6 4 3, .vexp2 3 6 5 4, .vlog2 3 6 5 4, .vrcp 3 6 5 4, .vrsq 3 6 5 4, .vsin 3 6 5 4, .vcos 3 6 5 4,
      .vtanh 3 6 5 4, .vsigm 3 6 5 4, .vrsum 3 6 5 6 0, .vrmax 3 6 5 6 0, .vrmin 3 6 5 6 0, .mxa 6 6 5 2 0,
      .bmv 5 6 5 2 0, .qfadd 3 6 5 6, .qfmul 3 6 5 6, .qfma 3 6 5 6, .qfmin 3 6 5 6, .qfmax 3 6 5 6, .qcvt 3 6 6 2,
      .qcvt 3 6 0 6, .qsel 3 6 5 6, .qfcmp 3 6 5 6 7] : List Instr).all
      fun i => i.ill == some .range) = true := by decide

theorem smoke_range_2 :
    (([.qcmp 6 5 2 7 6, .qrsum 3 6 6 0, .qrmax 3 6 6 0, .qrmin 3 6 6 0] : List Instr).all
      fun i => i.ill == some .range) = true := by decide

theorem smoke_mustBeZero :
    (([.hstart 3 1 5 0, .vdot 4 6 5 2 1 1, .qdot 4 6 5 2 1, .mxa 4 6 5 2 1, .bmv 4 6 5 2 1] : List Instr).all
      fun i => i.ill == some .mustBeZero) = true := by decide

theorem smoke_registerClass_0 :
    (([.qld 16 6 5 2, .qst 16 6 5 2, .qgat 16 6 5 2, .qgat 3 6 16 2, .qsct 16 6 5 2, .qsct 3 6 16 2, .cpy 0 6 5 2,
      .cpy2 0 6 5 2, .cpy3 0 6 5 2, .cpyi 0 6 5 2, .cpyr 0 6 5 2, .cpyrs 0 6 5 2, .sopen 0 6 5 0, .sopen 3 6 0 0,
      .sclose 0 6 1, .sclose 3 0 0, .sstat 3 0 0, .vcmp 0 6 5 2 7 1, .vfcmp 0 5 2 7 1 4, .vqnt 2 7 16 4,
      .vdq 2 7 16 4, .vmovk 0 6, .vdot 0 6 5 2 15 1, .qdot 0 6 5 2 15, .qdot 3 16 5 2 7, .qdot 3 6 16 2 7,
      .qdot 3 6 5 16 7, .mxa 0 6 5 2 15, .mxa 4 0 5 2 0, .bmv 0 6 5 2 15] : List Instr).all
      fun i => i.ill == some .registerClass) = true := by decide

theorem smoke_registerClass_1 :
    (([.bmv 4 0 5 2 0, .qdop 16 6 5, .qdop 3 16 5, .qdop 3 6 16, .qmov 16 6, .qmov 3 16, .qsplat 16 6 1, .qxv 3 16 5,
      .qxq 16 6 5, .qfadd 16 6 5 2, .qfadd 3 16 5 2, .qfadd 3 6 16 2, .qfmul 16 6 5 2, .qfmul 3 16 5 2,
      .qfmul 3 6 16 2, .qfma 16 6 5 2, .qfma 3 16 5 2, .qfma 3 6 16 2, .qfmin 16 6 5 2, .qfmin 3 16 5 2,
      .qfmin 3 6 16 2, .qfmax 16 6 5 2, .qfmax 3 16 5 2, .qfmax 3 6 16 2, .qcvt 16 6 5 2, .qcvt 3 16 5 2,
      .qsel 16 6 5 2, .qsel 3 16 5 2, .qsel 3 6 16 2, .qfcmp 16 6 5 2 7] : List Instr).all
      fun i => i.ill == some .registerClass) = true := by decide

theorem smoke_registerClass_2 :
    (([.qfcmp 3 16 5 2 7, .qfcmp 3 6 16 2 7, .qadd 16 6 5 2, .qadd 3 16 5 2, .qadd 3 6 16 2, .qsub 16 6 5 2,
      .qsub 3 16 5 2, .qsub 3 6 16 2, .qmul 16 6 5 2, .qmul 3 16 5 2, .qmul 3 6 16 2, .qand 16 6 5 2,
      .qand 3 16 5 2, .qand 3 6 16 2, .qor 16 6 5 2, .qor 3 16 5 2, .qor 3 6 16 2, .qxor 16 6 5 2, .qxor 3 16 5 2,
      .qxor 3 6 16 2, .qshl 16 6 5 2, .qshl 3 16 5 2, .qshl 3 6 16 2, .qshr 16 6 5 2, .qshr 3 16 5 2,
      .qshr 3 6 16 2, .qmin 16 6 5 2, .qmin 3 16 5 2, .qmin 3 6 16 2, .qmax 16 6 5 2] : List Instr).all
      fun i => i.ill == some .registerClass) = true := by decide

theorem smoke_registerClass_3 :
    (([.qmax 3 16 5 2, .qmax 3 6 16 2, .qcmp 16 5 2 7 1, .qcmp 6 16 2 7 1, .qcmp 6 5 16 7 1, .qrsum 3 16 5 0,
      .qrmax 3 16 5 0, .qrmin 3 16 5 0, .mxb 0 6 5, .mxj 0 6, .mxcap 0 6 5, .bvld 0 6 5, .bvrd 0 6 5, .bcfg 0 6,
      .pbind 0 6, .pfree 0 6, .pstat 0 6] : List Instr).all
      fun i => i.ill == some .registerClass) = true := by decide

/-! Every word form of the opcode table, a word written out from its encoding: the bits its row fixes, and its fields. -/

theorem test_decode_01 :
    decodeWord 0x04000000 = .ok .nop ∧ decodeWord 0x04000020 = .ok .halt ∧ decodeWord 0x04000040 = .ok .idle
    ∧ decodeWord 0x04000060 = .ok .eret ∧ decodeWord 0x0401A880 = .ok (.trap 53)
    ∧ decodeWord 0x0401A8A0 = .ok (.brk 53) ∧ decodeWord 0x040000C0 = .ok .yield
    ∧ decodeWord 0x040000E0 = .ok .fencei := by decide

theorem test_decode_02 :
    decodeWord 0x0AD03000 = .ok (.mfc 22 2072) ∧ decodeWord 0x0AD03040 = .ok (.mtc 22 2072)
    ∧ decodeWord 0x0AD03080 = .ok (.mxc 22 2072) ∧ decodeWord 0x0AD030C0 = .ok (.mset 22 2072)
    ∧ decodeWord 0x0AD03100 = .ok (.mclr 22 2072) := by decide

theorem test_decode_03_0 :
    decodeWord 0x0C662800 = .ok (.add 3 6 5) ∧ decodeWord 0x0C662820 = .ok (.sub 3 6 5)
    ∧ decodeWord 0x0C662840 = .ok (.and 3 6 5) ∧ decodeWord 0x0C662860 = .ok (.or 3 6 5)
    ∧ decodeWord 0x0C662880 = .ok (.xor 3 6 5) ∧ decodeWord 0x0C6628A0 = .ok (.andn 3 6 5)
    ∧ decodeWord 0x0C6628C0 = .ok (.orn 3 6 5) ∧ decodeWord 0x0C6628E0 = .ok (.shl 3 6 5)
    ∧ decodeWord 0x0C662900 = .ok (.shr 3 6 5) ∧ decodeWord 0x0C662920 = .ok (.sar 3 6 5)
    ∧ decodeWord 0x0C662940 = .ok (.rol 3 6 5) ∧ decodeWord 0x0C662960 = .ok (.min 3 6 5) := by decide

theorem test_decode_03_1 :
    decodeWord 0x0C662980 = .ok (.max 3 6 5) ∧ decodeWord 0x0C6629A0 = .ok (.minw 3 6 5)
    ∧ decodeWord 0x0C6629C0 = .ok (.maxw 3 6 5) ∧ decodeWord 0x0C6629E0 = .ok (.slt 3 6 5)
    ∧ decodeWord 0x0C662A00 = .ok (.sltw 3 6 5) ∧ decodeWord 0x0C662A20 = .ok (.seq 3 6 5)
    ∧ decodeWord 0x0C662A40 = .ok (.sne 3 6 5) ∧ decodeWord 0x0C662A62 = .ok (.cmov 3 6 5 2) := by decide

theorem test_decode_04 :
    decodeWord 0x10662800 = .ok (.mul 3 6 5) ∧ decodeWord 0x10662820 = .ok (.mulh 3 6 5)
    ∧ decodeWord 0x10662840 = .ok (.mulhw 3 6 5) ∧ decodeWord 0x10662860 = .ok (.mulw 3 6 5)
    ∧ decodeWord 0x10662880 = .ok (.div 3 6 5) ∧ decodeWord 0x106628A0 = .ok (.divw 3 6 5)
    ∧ decodeWord 0x106628C0 = .ok (.rem 3 6 5) ∧ decodeWord 0x106628E0 = .ok (.remw 3 6 5) := by decide

theorem test_decode_05 :
    decodeWord 0x14660000 = .ok (.clz 3 6) ∧ decodeWord 0x14660020 = .ok (.ctz 3 6)
    ∧ decodeWord 0x14660040 = .ok (.popc 3 6) ∧ decodeWord 0x14660060 = .ok (.brev 3 6)
    ∧ decodeWord 0x14660080 = .ok (.bswap 3 6) ∧ decodeWord 0x146608A2 = .ok (.sext 3 6 1 2)
    ∧ decodeWord 0x146608C2 = .ok (.zext 3 6 1 2) ∧ decodeWord 0x146628E0 = .ok (.bext 3 6 5)
    ∧ decodeWord 0x14662900 = .ok (.bins 3 6 5) := by decide

theorem test_decode_06 :
    decodeWord 0x186600A7 = .ok (.addi 3 6 167) := by decide

theorem test_decode_07 :
    decodeWord 0x1C6600A7 = .ok (.andi 3 6 167) := by decide

theorem test_decode_08 :
    decodeWord 0x206600A7 = .ok (.ori 3 6 167) := by decide

theorem test_decode_09 :
    decodeWord 0x246600A7 = .ok (.xori 3 6 167) := by decide

theorem test_decode_0A :
    decodeWord 0x28660005 = .ok (.shli 3 6 5) ∧ decodeWord 0x28660045 = .ok (.shri 3 6 5)
    ∧ decodeWord 0x28660085 = .ok (.sari 3 6 5) ∧ decodeWord 0x286600C5 = .ok (.roli 3 6 5) := by decide

theorem test_decode_0B :
    decodeWord 0x2C6600A7 = .ok (.slti 3 6 167) := by decide

theorem test_decode_0C :
    decodeWord 0x306600A7 = .ok (.sltwi 3 6 167) := by decide

theorem test_decode_0D :
    decodeWord 0x3474002B = .ok (.movk 3 2 1 43) := by decide

theorem test_decode_0E :
    decodeWord 0x38662C35 = .ok (.lea 3 6 5 2 53) := by decide

theorem test_decode_0F :
    decodeWord 0x3C660000 = .ok (.gcoord 3 6) ∧ decodeWord 0x3CC00025 = .ok (.widf 6 5)
    ∧ decodeWord 0x3C600040 = .ok (.self 3) ∧ decodeWord 0x3C600060 = .ok (.cload 3) := by decide

theorem test_decode_10 :
    decodeWord 0x4066082B = .ok (.beq 3 6 1 43) ∧ decodeWord 0x4066282B = .ok (.bne 3 6 1 43)
    ∧ decodeWord 0x4066482B = .ok (.blt 3 6 1 43) ∧ decodeWord 0x4066682B = .ok (.bge 3 6 1 43)
    ∧ decodeWord 0x4066882B = .ok (.bltw 3 6 1 43) ∧ decodeWord 0x4066A82B = .ok (.bgew 3 6 1 43)
    ∧ decodeWord 0x4066C82B = .ok (.bbs 3 6 1 43) ∧ decodeWord 0x4066E82B = .ok (.bbc 3 6 1 43) := by decide

theorem test_decode_11 :
    decodeWord 0x44000035 = .ok (.j 53) := by decide

theorem test_decode_12 :
    decodeWord 0x48000035 = .ok (.call 53) := by decide

theorem test_decode_13 :
    decodeWord 0x4C030000 = .ok (.jr 3) ∧ decodeWord 0x4C030020 = .ok (.callr 3) ∧ decodeWord 0x4C000040 = .ok .ret := by decide

theorem test_decode_14 :
    decodeWord 0x50D236C0 = .ok (.rpt 3 291 1 2 3) := by decide

theorem test_decode_15 :
    decodeWord 0x54662802 = .ok (.hstart 3 6 5 2) ∧ decodeWord 0x54000020 = .ok .hexit
    ∧ decodeWord 0x54662840 = .ok (.cpack 3 6 5) ∧ decodeWord 0x54660060 = .ok (.cresume 3 6)
    ∧ decodeWord 0x54662880 = .ok (.migrate 3 6 5) ∧ decodeWord 0x546000A6 = .ok (.hstat 3 6) := by decide

theorem test_decode_16 :
    decodeWord 0x58662802 = .ok (.onew 3 6 5 2) ∧ decodeWord 0x58030020 = .ok (.ofree 3)
    ∧ decodeWord 0x58660040 = .ok (.oblig 3 6) ∧ decodeWord 0x58030060 = .ok (.osig 3)
    ∧ decodeWord 0x58030080 = .ok (.orel 3) ∧ decodeWord 0x586628A2 = .ok (.osend 3 6 5 2)
    ∧ decodeWord 0x580330C0 = .ok (.ofail 3 6) ∧ decodeWord 0x580628E2 = .ok (.otrn 6 5 2)
    ∧ decodeWord 0x58660100 = .ok (.oseize 3 6) ∧ decodeWord 0x58033120 = .ok (.rsplit 3 6) := by decide

theorem test_decode_17 :
    decodeWord 0x5C660000 = .ok (.wait 3 6) ∧ decodeWord 0x5C660020 = .ok (.barw 3 6)
    ∧ decodeWord 0x5C660040 = .ok (.poll 3 6) ∧ decodeWord 0x5C660065 = .ok (.oqry 3 6 5) := by decide

theorem test_decode_18 :
    decodeWord 0x6066502B = .ok (.ld 3 6 5 43) := by decide

theorem test_decode_19 :
    decodeWord 0x6466A035 = .ok (.st 3 6 1 2 53) := by decide

theorem test_decode_1A :
    decodeWord 0x68662C01 = .ok (.aadd 3 6 5 2 1) ∧ decodeWord 0x68662C21 = .ok (.aand 3 6 5 2 1)
    ∧ decodeWord 0x68662C41 = .ok (.aor 3 6 5 2 1) ∧ decodeWord 0x68662C61 = .ok (.axor 3 6 5 2 1)
    ∧ decodeWord 0x68662C81 = .ok (.amin 3 6 5 2 1) ∧ decodeWord 0x68662CA1 = .ok (.amax 3 6 5 2 1)
    ∧ decodeWord 0x68662CC1 = .ok (.aminw 3 6 5 2 1) ∧ decodeWord 0x68662CE1 = .ok (.amaxw 3 6 5 2 1)
    ∧ decodeWord 0x68662D01 = .ok (.aswp 3 6 5 2 1) ∧ decodeWord 0x68662D21 = .ok (.acas 3 6 5 2 1)
    ∧ decodeWord 0x68662D41 = .ok (.afadd 3 6 5 2 1) := by decide

theorem test_decode_1B :
    decodeWord 0x6C660001 = .ok (.llk 3 6 1) ∧ decodeWord 0x6C662820 = .ok (.sul 3 6 5 0)
    ∧ decodeWord 0x6C660040 = .ok (.sun 3 6) := by decide

theorem test_decode_1C :
    decodeWord 0x70030000 = .ok (.fence 3) ∧ decodeWord 0x70030020 = .ok (.fencea 3)
    ∧ decodeWord 0x70030040 = .ok (.fencer 3) ∧ decodeWord 0x70000060 = .ok .bfence
    ∧ decodeWord 0x70000080 = .ok .qfence ∧ decodeWord 0x700000A0 = .ok .efence := by decide

theorem test_decode_1D :
    decodeWord 0x7466A035 = .ok (.mst 3 6 1 2 53) := by decide

theorem test_decode_1E :
    decodeWord 0x786600A7 = .ok (.vld 3 6 167) ∧ decodeWord 0x786608A7 = .ok (.vst 3 6 167) := by decide

theorem test_decode_1F :
    decodeWord 0x7C662802 = .ok (.qld 3 6 5 2) ∧ decodeWord 0x7C662822 = .ok (.qst 3 6 5 2)
    ∧ decodeWord 0x7C662842 = .ok (.qgat 3 6 5 2) ∧ decodeWord 0x7C662862 = .ok (.qsct 3 6 5 2) := by decide

theorem test_decode_20 :
    decodeWord 0x80662802 = .ok (.cpy 3 6 5 2) ∧ decodeWord 0x80662822 = .ok (.cpy2 3 6 5 2)
    ∧ decodeWord 0x80662842 = .ok (.cpy3 3 6 5 2) ∧ decodeWord 0x80662862 = .ok (.cpyi 3 6 5 2)
    ∧ decodeWord 0x80662882 = .ok (.cpyr 3 6 5 2) ∧ decodeWord 0x806628A2 = .ok (.cpyrs 3 6 5 2) := by decide

theorem test_decode_21 :
    decodeWord 0x84662800 = .ok (.sopen 3 6 5 0) ∧ decodeWord 0x84603021 = .ok (.sclose 3 6 1)
    ∧ decodeWord 0x84603041 = .ok (.sstat 3 6 1) := by decide

theorem test_decode_22_0 :
    decodeWord 0x88662AE0 = .ok (.vadd 3 6 5 2 7) ∧ decodeWord 0x88662AE1 = .ok (.vsub 3 6 5 2 7)
    ∧ decodeWord 0x88662AE2 = .ok (.vmul 3 6 5 2 7) ∧ decodeWord 0x88662AE3 = .ok (.vmulh 3 6 5 2 7)
    ∧ decodeWord 0x88662AE4 = .ok (.vmin 3 6 5 2 7) ∧ decodeWord 0x88662AE5 = .ok (.vmax 3 6 5 2 7)
    ∧ decodeWord 0x88662AE6 = .ok (.vand 3 6 5 2 7) ∧ decodeWord 0x88662AE7 = .ok (.vor 3 6 5 2 7)
    ∧ decodeWord 0x88662AE8 = .ok (.vxor 3 6 5 2 7) ∧ decodeWord 0x88662AE9 = .ok (.vshl 3 6 5 2 7)
    ∧ decodeWord 0x88662AEA = .ok (.vshr 3 6 5 2 7) ∧ decodeWord 0x88662AEB = .ok (.vsar 3 6 5 2 7) := by decide

theorem test_decode_22_1 :
    decodeWord 0x88662AEC = .ok (.vsel 3 6 5 2 7) ∧ decodeWord 0x8866054D = .ok (.vabs 3 6 5 2)
    ∧ decodeWord 0x88662AF1 = .ok (.vcmp 3 6 5 2 7 1) := by decide

theorem test_decode_23 :
    decodeWord 0x8CC51720 = .ok (.vfadd 6 5 2 7 1) ∧ decodeWord 0x8CC51721 = .ok (.vfsub 6 5 2 7 1)
    ∧ decodeWord 0x8CC51722 = .ok (.vfmul 6 5 2 7 1) ∧ decodeWord 0x8CC51723 = .ok (.vfma 6 5 2 7 1)
    ∧ decodeWord 0x8CC51724 = .ok (.vfms 6 5 2 7 1) ∧ decodeWord 0x8CC51725 = .ok (.vfmin 6 5 2 7 1)
    ∧ decodeWord 0x8CC51726 = .ok (.vfmax 6 5 2 7 1) ∧ decodeWord 0x8C660547 = .ok (.vfabs 3 6 5 2)
    ∧ decodeWord 0x8C660548 = .ok (.vfneg 3 6 5 2) ∧ decodeWord 0x8CC51734 = .ok (.vfcmp 6 5 2 7 1 4) := by decide

theorem test_decode_24 :
    decodeWord 0x90C51720 = .ok (.vcvt 6 5 2 7 1) ∧ decodeWord 0x90470881 = .ok (.vqnt 2 7 1 4)
    ∧ decodeWord 0x90470882 = .ok (.vdq 2 7 1 4) ∧ decodeWord 0x90C51723 = .ok (.vshuf 6 5 2 7 1)
    ∧ decodeWord 0x90C51724 = .ok (.vperm 6 5 2 7 1) ∧ decodeWord 0x90660545 = .ok (.vbc 3 6 5 2)
    ∧ decodeWord 0x90662846 = .ok (.vext 3 6 5 2) ∧ decodeWord 0x90662847 = .ok (.vins 3 6 5 2)
    ∧ decodeWord 0x90660008 = .ok (.vmovk 3 6) := by decide

theorem test_decode_25 :
    decodeWord 0x94660540 = .ok (.vexp2 3 6 5 2) ∧ decodeWord 0x94660541 = .ok (.vlog2 3 6 5 2)
    ∧ decodeWord 0x94660542 = .ok (.vrcp 3 6 5 2) ∧ decodeWord 0x94660543 = .ok (.vrsq 3 6 5 2)
    ∧ decodeWord 0x94660544 = .ok (.vsin 3 6 5 2) ∧ decodeWord 0x94660545 = .ok (.vcos 3 6 5 2)
    ∧ decodeWord 0x94660546 = .ok (.vtanh 3 6 5 2) ∧ decodeWord 0x94660547 = .ok (.vsigm 3 6 5 2) := by decide

theorem test_decode_26 :
    decodeWord 0x98660548 = .ok (.vrsum 3 6 5 2 1) ∧ decodeWord 0x98660549 = .ok (.vrmax 3 6 5 2 1)
    ∧ decodeWord 0x9866054A = .ok (.vrmin 3 6 5 2 1) := by decide

theorem test_decode_27 :
    decodeWord 0x9C6600A7 = .ok (.res 3 6 167) := by decide

theorem test_decode_2B :
    decodeWord 0xACC51390 = .ok (.vdot 3 6 5 2 7 1) ∧ decodeWord 0xACC51381 = .ok (.qdot 3 6 5 2 7)
    ∧ decodeWord 0xACC51382 = .ok (.mxa 3 6 5 2 7) ∧ decodeWord 0xACC51383 = .ok (.bmv 3 6 5 2 7) := by decide

theorem test_decode_2F :
    decodeWord 0xBC662804 = .ok (.qdop 3 6 5) := by decide

theorem test_decode_30 :
    decodeWord 0xC0000000 = .ok .vlong ∧ decodeWord 0xC0000020 = .ok .vshort
    ∧ decodeWord 0xC0660040 = .ok (.qmov 3 6) ∧ decodeWord 0xC0660061 = .ok (.qsplat 3 6 1)
    ∧ decodeWord 0xC0662880 = .ok (.qxv 3 6 5) ∧ decodeWord 0xC06628A0 = .ok (.qxq 3 6 5) := by decide

theorem test_decode_31 :
    decodeWord 0xC4662840 = .ok (.qfadd 3 6 5 2) ∧ decodeWord 0xC4662841 = .ok (.qfmul 3 6 5 2)
    ∧ decodeWord 0xC4662842 = .ok (.qfma 3 6 5 2) ∧ decodeWord 0xC4662843 = .ok (.qfmin 3 6 5 2)
    ∧ decodeWord 0xC4662844 = .ok (.qfmax 3 6 5 2) ∧ decodeWord 0xC4662845 = .ok (.qcvt 3 6 5 2)
    ∧ decodeWord 0xC4662846 = .ok (.qsel 3 6 5 2) ∧ decodeWord 0xC4662857 = .ok (.qfcmp 3 6 5 2 7) := by decide

theorem test_decode_32 :
    decodeWord 0xC8662840 = .ok (.qadd 3 6 5 2) ∧ decodeWord 0xC8662841 = .ok (.qsub 3 6 5 2)
    ∧ decodeWord 0xC8662842 = .ok (.qmul 3 6 5 2) ∧ decodeWord 0xC8662843 = .ok (.qand 3 6 5 2)
    ∧ decodeWord 0xC8662844 = .ok (.qor 3 6 5 2) ∧ decodeWord 0xC8662845 = .ok (.qxor 3 6 5 2)
    ∧ decodeWord 0xC8662846 = .ok (.qshl 3 6 5 2) ∧ decodeWord 0xC8662847 = .ok (.qshr 3 6 5 2)
    ∧ decodeWord 0xC8662848 = .ok (.qmin 3 6 5 2) ∧ decodeWord 0xC8662849 = .ok (.qmax 3 6 5 2)
    ∧ decodeWord 0xC8C510F1 = .ok (.qcmp 6 5 2 7 1) := by decide

theorem test_decode_33 :
    decodeWord 0xCC6600A0 = .ok (.qrsum 3 6 5 0) ∧ decodeWord 0xCC6600A1 = .ok (.qrmax 3 6 5 0)
    ∧ decodeWord 0xCC6600A2 = .ok (.qrmin 3 6 5 0) := by decide

theorem test_decode_34 :
    decodeWord 0xD0662800 = .ok (.mxb 3 6 5) ∧ decodeWord 0xD0660020 = .ok (.mxj 3 6)
    ∧ decodeWord 0xD0662840 = .ok (.mxcap 3 6 5) ∧ decodeWord 0xD0660060 = .ok (.mxst 3 6) := by decide

theorem test_decode_35 :
    decodeWord 0xD4662800 = .ok (.bvld 3 6 5) ∧ decodeWord 0xD4662820 = .ok (.bvrd 3 6 5)
    ∧ decodeWord 0xD4660040 = .ok (.bcfg 3 6) ∧ decodeWord 0xD4660060 = .ok (.bstat 3 6) := by decide

theorem test_decode_36 :
    decodeWord 0xD8660000 = .ok (.pbind 3 6) ∧ decodeWord 0xD8660020 = .ok (.pfree 3 6)
    ∧ decodeWord 0xD8660040 = .ok (.pstat 3 6) ∧ decodeWord 0xD8660060 = .ok (.enq 3 6)
    ∧ decodeWord 0xD8660080 = .ok (.deq 3 6) := by decide

theorem test_decode_37 :
    decodeWord 0xDC662800 = .ok (.xph 3 6 5) ∧ decodeWord 0xDC662822 = .ok (.xsnd 3 6 5 2)
    ∧ decodeWord 0xDC662842 = .ok (.xrcv 3 6 5 2) ∧ decodeWord 0xDC600060 = .ok (.xend 3)
    ∧ decodeWord 0xDC033080 = .ok (.xmrk 3 6) ∧ decodeWord 0xDC0330A0 = .ok (.xvs 3 6) := by decide
/-! Hypotheses met: the decoder, the step, the scalar instructions. -/

theorem witness_EncodeThenDecode :
    (Instr.add 3 4 5).wellFormed = true ∧ encode (.add 3 4 5) = some 0x0C642800
    ∧ (Instr.sext 31 31 1 31).wellFormed = true ∧ encode (.sext 31 31 1 31) = some 0x17FF08BF := by decide

theorem witness_DecodeThenEncode : decodeWord 0x0C642800 = .ok (.add 3 4 5) := by decide

theorem witness_StepKeepsMemoryCanonical :
    Memory.wf (slotZero.withFetchWord 32 0x0C642800).mem = true
    ∧ after (step (slotZero.withFetchWord 32 0x0C642800)) (fun _ => true) = true := by decide

/-- The state whose step is to run `add g3, g4, g5`. -/
def addDue : State := (setg 4 7 (setg 5 8 slotZero)).withFetchWord 32 0x0C642800

theorem witness_StepRunsDecodedInstruction :
    fetchFault addDue 0x7FFC = none
    ∧ nextEvent addDue = none ∧ running { addDue with tick := 1 } = true
    ∧ pick { addDue with tick := 1 } = (some { slot := 0, ptr := 1, credit := true }, true) := by decide

theorem witness_StepRunsDecodedInstruction_rest :
    let s0 : State := { addDue with tick := 1 }
    let p : Pick := { slot := 0, ptr := 1, credit := true }
    let s1 := focus (decided s0 p) p.slot
    let c := s1.ctx
    let u : Undo := { regs := c.regs, streams := [], agenda := s1.agenda, ranges := s1.cluster.ranges }
    let s2 := (s1.mod fun c => { c with skip := false }).modCore fun c => { c with undo := some u }
    upcallDue s0 = false ∧ issuable (decided s0 p) p.slot = true ∧ c.frame = none ∧ c.queue.n0 = false
    ∧ c.queue.d0 = false ∧ c.streams = [] ∧ c.pend.marks = [] ∧ fetchFault s1 c.queue.q0 = none
    ∧ decode c.longMode (fetchWord s1 c.queue.q0) = .ok (.add 3 4 5) ∧ breaks s1 = none ∧ regStall c (.add 3 4 5) = false
    ∧ longErrorDue s1 = none ∧ privFails s1 (.add 3 4 5) = false
    ∧ after (exec (.add 3 4 5) s2) (fun t => !t.core.stalled && t.ctx.g 3 == 15) = true := by decide

theorem witness_DelaySlots :
    let s := placing 0x50C63500 helper
    let d := s.mod fun c => { c with queue := { c.queue with d0 := true } }
    let z := s.mod fun c => { c with queue := { c.queue with n0 := true } }
    s.core.cur ≠ 0 ∧ s.core.undo = none ∧ s.ctx.frame = none ∧ breaks s = none ∧ s.core.sys.dbghost.getLsbD 12 = false
    ∧ longErrorDue s = none ∧ longErrorDue d = none ∧ longErrorDue z = none ∧ s.ctx.queue.n0 = false ∧ s.ctx.queue.d0 = false ∧ fetchFault s s.ctx.queue.q0 = none
    ∧ decode s.ctx.longMode (fetchWord s s.ctx.queue.q0) = .ok (.rpt 3 99 1 1 0)
    ∧ d.core.cur ≠ 0 ∧ d.core.undo = none ∧ d.ctx.frame = none ∧ breaks d = none ∧ d.core.sys.dbghost.getLsbD 12 = false
    ∧ d.ctx.queue.n0 = false ∧ d.ctx.queue.d0 = true ∧ fetchFault d d.ctx.queue.q0 = none
    ∧ decode d.ctx.longMode (fetchWord d d.ctx.queue.q0) = .ok (.rpt 3 99 1 1 0)
    ∧ z.ctx.queue.n0 = true ∧ breaks z = none := by decide

theorem witness_ControlTransfers : slotZero.ctx.frame = none := by decide

theorem witness_RepeatOpensItsFrame :
    let s := ((placing 0x0C642800 (slotZero.mod fun c => { c with queue := Queue.at 4 })).mod fun c => { c with queue := Queue.at 0 })
    s.ctx.frame = none ∧ capture s s.ctx.longMode (rptFrame s 0 1023 3 3 3) = .ok [0x0C642800] := by decide

theorem witness_SystemInstructionsAdvance :
    let s := helper.modCore fun c => { c with cur := 0 }
    let v := s.mod fun c => { c with level := .s }
    slotZero.agenda = [] ∧ slotZero.ctx.level ≠ .h ∧ slotZeroS.ctx.level = .s ∧ slotZeroS.core.sys.saveb = 0
    ∧ v.ctx.level = .s
    ∧ ((writeFrames (slots.foldl endLlk (retire v)) slots).bind fun r => writeHeader r false).isSome = true := by
  decide +kernel

theorem witness_TrapAndBreakInstructions :
    helper.ctx.frame = none ∧ helper.core.cur ≠ 0 ∧ helper.core.sys.dbghost.getLsbD 12 = false
    ∧ slotZero.ctx.frame = none ∧ slotZero.core.cur = 0 ∧ slotZero.ctx.level = .c ∧ slotZero.ctx.xch.inph = false
    ∧ slotZero.core.sys.dbghost.getLsbD 12 = false := by decide

theorem witness_ReturnFromException :
    slotZero.core.cur = 0 ∧ slotZero.ctx.trap.rptst.getLsbD 63 = false ∧ slotZero.ctx.level = .c
    ∧ slotZero.ctx.upcall.resume = 0 ∧ slotZero.ctx.upcall.free = 0
    ∧ slotZeroS.core.cur = 0 ∧ slotZeroS.ctx.trap.rptst.getLsbD 63 = false ∧ slotZeroS.ctx.level = .s := by decide

theorem witness_ControlRegisterForms :
    controlRegisters.contains (0x003#12).toNat = true ∧ cregReadable 0x003 slotZero.ctx.level = true
    ∧ cregWritable 0x003 slotZero.ctx.level = true ∧ cregAllows slotZero 0x003 0xFFFFFFFFFFFFFFFF = true
    ∧ controlRegisters.contains (0x020#12).toNat = true ∧ cregReadable 0x020 slotZeroS.ctx.level = true
    ∧ cregWritable 0x020 slotZeroS.ctx.level = true ∧ cregAllows slotZeroS 0x020 0 = true := by decide

theorem witness_PreciseTraps :
    let s := setg 1 1 (setg 2 (0x11 <<< 56) helper)
    let h : Word := 5 <<< 44 ||| 0x100
    let o := owing h .signal (setg 3 h helper)
    s.core.cur ≠ 0 ∧ s.core.undo = none ∧ s.ctx.frame = none ∧ s.core.sys.dbghost.getLsbD 12 = false
    ∧ fetchFault s s.ctx.queue.q0 = some 16
    ∧ s.ctx.level = .h ∧ cregWritable 0x020 .h = false ∧ cregReadable 0x811 .h = false
    ∧ (gv s 1 + (0#12).signExtend 64 * BitVec.ofNat 64 8).toNat % 8 ≠ 0 ∧ (gv s 1).toNat % 4 ≠ 0 ∧ (gv s 1).toNat % 32 ≠ 0
    ∧ (gv s 2).toNat % 8 = 0 ∧ 0x11 ≤ (gv s 2).toNat / 2 ^ 56 ∧ (gv s 2).toNat / 2 ^ 56 < 0xF0
    ∧ o.core.cur ≠ 0 ∧ o.core.undo = none ∧ o.ctx.frame = none ∧ o.core.sys.dbghost.getLsbD 12 = false
    ∧ minHeld o o.core.cur ≤ rankOf (gv o 3) ∧ holds s s.core.cur (gv s 3) .signal = false
    ∧ holds s s.core.cur (gv s 3) .arrive = false ∧ holds s s.core.cur (gv s 3) .release = false := by decide


theorem witness_MultiplyAndDivide :
    gv (setg 2 0 slotZero) 2 = 0 ∧ gv (setg 2 7 slotZero) 2 ≠ 0
    ∧ gv (setg 1 0x8000000000000000 (setg 2 0xFFFFFFFFFFFFFFFF slotZero)) 1 = 0x8000000000000000
    ∧ gv (setg 1 0x8000000000000000 (setg 2 0xFFFFFFFFFFFFFFFF slotZero)) 2 = 0xFFFFFFFFFFFFFFFF := by decide

theorem witness_VectorMovesAndConversions :
    ∃ x ∈ [fread 0 .fp32 0x7F800000], ∀ neg mant e, x ≠ .fin neg mant e :=
  ⟨.inf false, by decide, fun _ _ _ => FVal.noConfusion⟩


/-- A context in a frame of one captured word, in its second replay. -/
def inFrame (w : W32) (s : State) : State :=
  let f : RepFrame := { words := [w], base := 4, nm1 := 0, cm1 := 1, sd := 1, sa := 1, sb := 1, iter := 1, slot := 0
                        again := false, bad := none }
  s.mod fun c => { c with frame := some f }

/-- The word that stands in a state's due slot decodes as a test says, and nothing comes before its issue. -/
def frameDue (w : W32) (i : Instr) : Bool :=
  let s := inFrame w slotZero
  (longErrorDue s).isNone && (breaks s).isNone && decide (decodeWord w = .ok i)

theorem witness_RepeatOpensItsFrame_ill :
    let s := (placing 0 (helper.mod fun c => { c with queue := Queue.at 4 })).mod fun c => { c with queue := Queue.at 0 }
    s.ctx.frame = none ∧ s.core.cur ≠ 0 ∧ s.core.undo = none
    ∧ capture s s.ctx.longMode (rptFrame s 0 1023 3 3 3) = .ill 0 0 0 := by decide

theorem witness_RepeatOpensItsFrame_body :
    ([.add 3 4 5, .mulh 3 4 5, .cmov 3 4 5 6, .popc 3 4, .addi 3 4 9, .shli 3 4 9, .vadd 3 4 5 1 0, .vfma 3 4 5 1 0,
      .vdot 0 3 4 5 6 7] : List Instr).all (fun i => (encode i).any fun w => frameDue w i) = true
    ∧ ([.qfma 3 4 5 1, .qadd 3 4 5 0] : List Instr).all (fun i => (encode i).any fun w => decide (decodeWord w = .ok i)) = true
    ∧ (inFrame 0x0C642800 slotZero).ctx.frame.isSome = true := by decide +kernel

theorem witness_ReturnFromException_frame_and_free :
    let act := slotZero.mod fun c => { c with trap := { c.trap with rptst := BitVec.twoPow 64 63 } }
    let fre := (slotZero.setAt 1 (Ctx.reset .h .trapped)).mod fun c => { c with upcall := { c.upcall with free := 1 } }
    let res := slotZero.mod fun c => { c with upcall := { c.upcall with resume := 1 } }
    act.ctx.trap.rptst.getLsbD 63 = true ∧ act.ctx.level = .c ∧ act.ctx.upcall.resume = 0 ∧ act.ctx.upcall.free = 0
    ∧ fre.ctx.upcall.resume = 0 ∧ fre.ctx.upcall.free = BitVec.twoPow 10 0 ∧ (fre.at 1).slotState = .trapped
    ∧ oblsOf fre 1 = [] ∧ res.ctx.level = .c ∧ res.ctx.upcall.resume.getLsbD 0 = true ∧ (res.at 1).slotState ≠ .trapped
    ∧ res.core.undo = none ∧ res.ctx.frame = none := by decide

theorem witness_PreciseTraps_queue :
    let q : StageQueue := { id := 1, data := 0x1100000000100, space := 0x1200000000101, depth := 1, t := 0, h := 0
                            ring := [], base := 0, stage := 0 }
    let s := owing 0x1200000000101 .release (setg 1 0x1100000000100 { helper with signals := { helper.signals with queues := [q] } })
    s.core.cur ≠ 0 ∧ s.core.undo = none ∧ s.ctx.frame = none ∧ s.core.sys.dbghost.getLsbD 12 = false
    ∧ owesSpaceOf s s.core.cur (gv s 1) = true := by decide
/-! Hypotheses met: contexts, obligations, memory. -/

/-- An item of one slot. -/
def item : Item :=
  { lref := 7, wid := 3, widx := 0, restb := 0x300, xroot := 0, arg := 9, rankLo := 1, rankHi := 4, pc := 0x40
    compl := 0x5000000000100, gran := 0, slots := 1, cluster := 0, core := 0 }

/-- A valid continuation record of launch context 7, and one that is not valid. -/
def record : BitVec 1536 := 1#1 ++ 0#55 ++ 7#32 ++ 3#64 ++ 0#59 ++ 16#13 ++ 0#1312

/-- The launch context 7 and its resident kernel. -/
def launched (s : State) : State :=
  { s with
    engine := { s.engine with ctxs := [{ lref := 7, restb := 0, widxv := 0, objid := 2, kidx := 0, xroot := 0, compl := 0x100, hdr := 0, kslots := 0 }] }
    core := { s.core with resident := [(2, 0)] } }

theorem witness_HelpersStartAndResume_hstart :
    let s := slotZero.modCore fun c => { c with itemQ := [item] }
    let r := (slotZero.setAt 1 (Ctx.reset .h .ready))
    s.ctx.level ≠ .h ∧ s.core.cur = 0 ∧ clusterHolder s = none ∧ s.core.itemQ = [item] ∧ item.gran = 0 ∧ item.slots ≤ 1
    ∧ helperSlots.find? (freeSlotAt s) = some 1 ∧ s.core.reeve = [] ∧ s.core.spilled = []
    ∧ launchCtxOf s item.lref = none ∧ textBusy s item.lref = false ∧ (launchCtxOf (launched s) item.lref).map (fun l => (l.objid, l.kidx)) = some (2, 0)
    ∧ (launched s).core.resident = [(2, 0)]
    ∧ slotZero.core.itemQ = [] ∧ clusterHolder slotZero = none ∧ (r.at 1).slotState ≠ .free ∧ clusterHolder r = none
    ∧ slotForItem r (r.at 1).act.item = some 2 := by decide

theorem witness_HelpersStartAndResume_cresume :
    let s := launched (slotZero.modCore fun c => { c with contQ := [record] })
    let z := slotZero.modCore fun c => { c with contQ := [0] }
    s.ctx.level ≠ .h ∧ s.core.cur = 0 ∧ s.core.contQ = [record] ∧ record.getLsbD 1535 = true ∧ clusterHolder s = none
    ∧ slotForRecord s { lref := 7, wid := 3 } = some 1
    ∧ BitVec.ofNat 32 (nfld record.toNat 1448 32) = 7 ∧ BitVec.ofNat 64 (nfld record.toNat 1384 64) = 3
    ∧ (launchCtxOf s 7).isSome = true ∧ s.core.resident.contains (2, 0) = true ∧ nfld record.toNat 1325 3 = 0
    ∧ nfld record.toNat 1480 49 = 0 ∧ slotZero.core.contQ = [] ∧ z.core.contQ = [0]
    ∧ (0 : BitVec 1536).getLsbD 1535 = false := by decide +kernel

/-- The places a span of checks passes, where it passes. -/
def spanOf (r : Span) : Option (State × List Nat) :=
  match r with
  | .ok s ps => some (s, ps)
  | _ => none

theorem witness_HelpersStartAndResume_memory :
    let s := setg 1 0x0300000000200000 slotZero
    (1 : BitVec 5) ≠ 0 ∧ (gv s 1).toNat % 64 = 0 ∧ accessesOut s (me s) = false
    ∧ ((spanOf (checkSpan .read 64 3 s (gv s 1))).bind fun p => (spanOf (checkSpan .atomic 8 1 p.1 (gv s 1 + 184))).map fun q =>
        ((natLE (readSpan q.1 64 p.2)).testBit 1535, q.2.length)) = some (false, 1)
    ∧ (∀ i : Fin 11, (slotZero.at i).slotState = if i = 0 then .ready else .free) := by decide +kernel

theorem witness_HexitFreesTheSlot :
    let s := owing 0x100 .signal (helper.mod fun c => { c with act := { c.act with compl := 0x100 } })
    let n := owing 0x200 .signal (helper.mod fun c => { c with act := { c.act with compl := 0x100 } })
    s.ctx.level = .h ∧ s.core.cur ≠ 0 ∧ s.ctx.anyPending = false ∧ s.ctx.xch.inph = false ∧ s.core.lvu = []
    ∧ accessesOut s (me s) = false ∧ s.ctx.pend.marks = [] ∧ s.ctx.pend.storeErr = [] ∧ s.core.spilled = []
    ∧ s.core.reeve = [{ h := 0x100, kind := .signal, owner := 1, mult := 1, order := 0 }]
    ∧ (s.core.reeve.all fun o => o.is s.core.cur s.ctx.act.compl .signal && o.mult == 1) = true
    ∧ helper.core.reeve = [] ∧ n.core.undo = none ∧ n.core.reeve.map (fun o => o.owner.toNat) = [n.core.cur.val]
    ∧ (n.core.reeve.all fun o => !o.is n.core.cur n.ctx.act.compl .signal) = true := by decide

theorem witness_PackingFreesTheSlot :
    let s := setg 1 0x0300000000200000 (setg 4 0xFFFE helper)
    s.ctx.level = .h ∧ s.core.cur ≠ 0 ∧ s.ctx.xch.inph = false ∧ accessesOut s (me s) = false ∧ s.ctx.pend.marks = []
    ∧ s.ctx.pend.storeErr = [] ∧ packRefusal s (gv s 4) (gv s 2) = none
    ∧ gv s 2 = 0 ∧ Memory.wf s.mem = true ∧ (gv s 1).toNat % 64 = 0
    ∧ (spanOf (checkSpan .write 64 3 (endLlk s 1) (gv s 1))).isSome = true ∧ targetDetail s (migrateTarget s 0) = none
    ∧ (spanOf (spillSpan (endLlk s 1) 0 (gv s 2))).isSome = true := by decide +kernel

/-- Generic page 0 in the TLB, as physical page 0. -/
def mapped (s : State) : State :=
  (s.mod fun c => { c with user := { c.user with xroot := 1 } }).modCore fun c =>
    { c with tlb1 := [{ domain := 0, vpage := 0, large := false, pte := BitVec.ofNat 64 0x321 }] }

/-- Five obligations: the fifth needs a spill block at g[b]. -/
theorem witness_PackingFreesTheSlot_spill :
    let five := [0x100, 0x200, 0x300, 0x400, 0x500].foldl (fun s h => owing h .signal s) (mapped helper)
    let s := setg 1 0x0300000000200000 (setg 2 0x1000000000000000 (setg 4 0xFFFE five))
    let more := (regroup (takeObls 4 (sortObls (oblsOf s s.core.cur))).2).length
    more = 1 ∧ packRefusal s (gv s 4) (gv s 2) = none ∧ (gv s 2).toNat % 64 = 0 ∧ (gv s 2).toNat / 2 ^ 56 = 0x10
    ∧ ((spanOf (checkSpan .write 64 3 (endLlk s 1) (gv s 1))).bind fun p => spanOf (spillSpan p.1 more (gv s 2))).isSome = true
    ∧ (spanOf (spillSpan (endLlk s 1) more (gv s 2))).isSome = true ∧ targetDetail s (migrateTarget s 0) = none := by
  decide +kernel

theorem witness_RequestsToTheirHomes :
    let h : Word := 5 <<< 44 ||| 0x100
    let s := setg 3 h (setg 4 (5 <<< 32) (setg 5 17856 (helper.mod fun c =>
      { c with user := { c.user with rankLo := 5, rankHi := 6 } })))
    let o := owing h .send (owing h .arrive s)
    s.core.undo = none ∧ onewMap (gv s 4) 1 = true ∧ (gv s 4).toNat / 2 ^ 32 % 2 ^ 20 = 5 ∧ s.ctx.user.rankLo.toNat = 5
    ∧ s.ctx.user.rankHi.toNat = 6 ∧ scopeMalformed (scopeOperand s 0) = false
    ∧ scopeHolds (scopeOperand s 0) s.loc.dev (me s) = true
    ∧ holds o o.core.cur (gv o 3) .send = true ∧ owedFree s s.core.cur = 256 ∧ s.ctx.llk = none
    ∧ rankOf (gv s 3) < minHeld s s.core.cur ∧ (gv s 5).toNat ≤ 17856
    ∧ o.core.undo = none ∧ holds o o.core.cur (gv o 3) .arrive = true ∧ o.core.spilled = []
    ∧ (owing h .arrive s).core.reeve.all (fun x => decide (1 ≤ x.mult)) = true
    ∧ rankOf (gv s 3) < minHeldWithout (owing h .arrive s) s.core.cur (gv s 3) .arrive := by decide

theorem witness_RequestsToTheirHomes_pipe :
    1 ≤ (30 : BitVec 5).toNat ∧ (30 : BitVec 5).toNat ≤ 30 ∧ 2 ≤ owedFree helper 1 ∧ writesOut helper (me helper) = false
    ∧ acquireOut helper (me helper) helper.ctx.act.after = false
    ∧ (pipeSnap helper 65536).2.map (fun p => p.fail) = some (some (1, 9)) := by decide +kernel

theorem witness_DischargesAndTransfers :
    let h : Word := 5 <<< 44 ||| 0x100
    let s := setg 3 h (setg 4 (2 ^ 28 - 1) (setg 5 128 (setg 6 3 (setg 7 4 (helper.mod fun c =>
      { c with user := { c.user with rankLo := 3, rankHi := 4 } })))))
    let t := (slotZero.setAt 1 (Ctx.reset .h .trapped)).modCore fun c =>
      { c with reeve := [{ h := h, kind := .signal, owner := 1, mult := 1, order := 0 }] }
    s.core.spilled = [] ∧ holds (owing h .signal s) 1 (gv s 3) .signal = true
    ∧ holds (owing h .arrive s) 1 (gv s 3) .arrive = true ∧ holds (owing h .arrive s) 1 (gv s 3) .signal = false
    ∧ holds (owing h .release s) 1 (gv s 3) .release = true ∧ holds (owing h .send s) 1 (gv s 3) .send = true
    ∧ (owing h .send s).core.reeve.all (fun x => decide (1 ≤ x.mult)) = true ∧ (gv s 4).toNat < 2 ^ 28
    ∧ (3#5).toNat = oblCode .arrive ∧ (gv s 5).toNat < 11 * 2 ^ 32 ∧ targetDetail s (zextN (gv s 5) 32) = none
    ∧ (gv s 5).toNat ≠ (me s).toNat
    ∧ (gv s 6).toNat < (gv s 7).toNat ∧ s.ctx.user.rankLo.toNat ≤ (gv s 6).toNat ∧ (gv s 7).toNat ≤ s.ctx.user.rankHi.toNat
    ∧ t.core.spilled = [] ∧ t.ctx.level ≠ .h ∧ t.core.cur = 0 ∧ (t.at 1).slotState = .trapped
    ∧ gv (setg 1 (2 ^ 32) t) 1 = (selfId t 1).zeroExtend 64 := by decide

/-- A state in which the core's own TCM is reached at 0x200 and 0x7FE0. -/
def tcm (a : Word) : State :=
  setg 1 a (setg 2 0x0123456789ABCDEF (helper.mod fun c => { c with user := { c.user with restb := a } }))

/-- The parts of an access of the core's own TCM that a decision can check. -/
def ownTcm (s : State) (ea : Word) (n : Nat) (writes : Bool) : Bool :=
  decide (ea.toNat + n ≤ 2 ^ 15) && decide (ea.toNat % n = 0) && decide (s.core.sys.xbound.toNat % 2 ^ 16 ≤ ea.toNat)
    && !rangeLocked s ea n writes && !qmemStalls s writes && !accessesOut s (me s) && !eccBad s (tcmBase s + ea.toNat) n
    && clusterPresent s.grade (myCluster s) && s.hw.leases.isEmpty && !s.ctx.framed

theorem witness_OwnTcmLoadsAndStores :
    ownTcm (tcm 0x7FF8) 0x7FF8 8 false = true ∧ ownTcm (tcm 0x7FE0) 0x7FE0 32 false = true
    ∧ ownTcm (tcm 0x7FF8) 0x7FF8 8 true = true ∧ ownTcm (tcm 0x7FE0) 0x7FE0 32 true = true
    ∧ ownTcm (tcm 0) 0 1 true = true ∧ Memory.wf (tcm 0).mem = true ∧ (tcm 0).ctx.pend.storeErr = [] := by decide

/-- What a remote access asks of the state. -/
def remote (s : State) (ea : Word) (n : Nat) (acc : AccType) : Bool :=
  okWith (checkAccess s ea n acc).2 fun p =>
    !inOwnTcm s p.pa && !qmemStalls s acc.writes && decide (outstanding s < 64) && (acc != .read || p.layout != 2)

/-- A replicated page at generic page 0, of dies 0 and 1, in the TLB. -/
def replicated : State :=
  (helper.mod fun c => { c with user := { c.user with xroot := 1 } }).modCore fun c =>
    { c with tlb1 := [{ domain := 0, vpage := 0, large := false, pte := BitVec.ofNat 64 (3 * 2 ^ 44 + 2 ^ 14 + 0x321) }] }

theorem witness_AccessesGoToTheirHome :
    remote helper 0x0100000000000008 8 .read = true ∧ remote helper 0x0100000000000020 32 .read = true
    ∧ remote helper 0x0100000000000008 8 .write = true ∧ remote helper 0x0100000000000020 32 .write = true
    ∧ accessesOut helper (me helper) = false ∧ helper.ctx.pend.storeErr = []
    ∧ remote replicated 0x1000000000000008 8 .mst = true := by decide

theorem witness_AtomicsAndLocksGoToTheirHome :
    let l : Llk := { ea := 0x0100000000000008, pa := 0x20000000008, size := 8, issued := 0, stalled := 0, closing := false }
    remote helper 0x0100000000000008 8 .atomic = true ∧ helper.ctx.llk = none
    ∧ okWith (checkAccess helper 0x0100000000000008 8 .atomic).2 (fun p => llkTarget 0x0100000000000008 p) = true
    ∧ (helper.mod fun c => { c with llk := some l }).ctx.llk = some l ∧ l.closing = false := by decide

theorem witness_AccessesAtHome :
    let a : Access :=
      { who := me helper, seq := 1, after := 0, kind := .load, ea := 0x0100000000000008, pa := 0x20000000008, size := 8
        data := 3, cmp := 0, dst := .g 5 false, layout := 0, lease := 0, mode := 0, seed := 0 }
    let s := ev (.accessAtHome a) helper
    let last : Nat := 0x2000017F9F8
    let l : Llk := { ea := a.ea, pa := a.pa, size := 8, issued := 0, stalled := 0, closing := false }
    let locked := s.setAt 1 { s.at 1 with llk := some l }
    Memory.wf s.mem = true ∧ isSystemSpace a.pa = false ∧ leaseRoute s a.pa a.lease = .at a.pa ∧ physExists s a.pa a.layout = true
    ∧ lockRefuses s a.pa a.size a.who = false ∧ s.badEcc = [] ∧ s.event = some (.accessAtHome a)
    ∧ leaseRoute s last 0 = .at last ∧ physExists s last = true ∧ lockRefuses s last 8 a.who = false
    ∧ localSlot s a.who = some 1 ∧ (locked.at 1).llk = some l ∧ l.ea = a.ea ∧ l.size = a.size ∧ l.ea ≠ 0
    ∧ leaseRoute locked a.pa a.lease = .at a.pa ∧ lockRefuses locked a.pa a.size a.who = false ∧ (s.at 1).llk = none := by decide

theorem witness_FencesOnlyAdvance :
    let wide := setg 3 0x7F3F0000 helper
    let narrow := setg 3 0x00000101 helper
    scopeMalformed (scopeOperand helper 0) = false ∧ accessesOut helper (me helper) = false ∧ helper.ctx.pend.marks = []
    ∧ readsOut helper (me helper) = false ∧ acquireOut helper (me helper) helper.ctx.act.after = false ∧ helper.agenda = []
    ∧ scopeEmpty (scopeOperand narrow 3) = true ∧ failureOut helper (me helper) = false
    ∧ scopeMalformed (scopeOperand wide 3) = false ∧ scopeEmpty (scopeOperand wide 3) = false
    ∧ scopeMalformed (scopeOperand narrow 3) = false ∧ narrow.ctx.pend.marks = [] ∧ narrow.ctx.pend.storeErr = []
    ∧ helper.ctx.pend.storeErr = [] ∧ helper.banks.jobs = [] ∧ helper.core.lvu = [] ∧ helper.ctx.act.tokens = [] := by
  decide

/-! Hypotheses met: vectors, long vectors, copies, streams. -/

theorem witness_IntegerVectorLanes : (5#3).toNat ≤ 5 := by decide

theorem witness_ReductionsAndDotProducts :
    let none1 := slotZero.mod fun c => c.setK 1 0
    let one1 := slotZero.mod fun c => c.setK 1 2
    ((List.range 8).filter fun i => (none1.ctx.k 1).getLsbD i) = []
    ∧ ((List.range 8).filter fun i => (one1.ctx.k 1).getLsbD i) = [1]
    ∧ ((List.range 32).filter fun i => (slotZero.ctx.k 0).getLsbD i) ≠ [] := by decide +kernel

/-- v1, v2 and v3 of the issuing context. -/
def lanesOf (x y z : VReg) : State := slotZero.mod fun c => ((c.setV 1 x).setV 2 y).setV 3 z

theorem witness_FloatingLanes :
    let s := lanesOf 0x7FC00001 0x3F800000 0xFF800000
    (1 : BitVec 3).toNat < 6 ∧ (s.ctx.k 0).getLsbD 0 = true ∧ NanIn (fmtOf 1) (lane 32 0 (s.ctx.v 1)).toNat
    ∧ ¬NanIn (fmtOf 1) (lane 32 0 (s.ctx.v 2)).toNat ∧ NormalIn (fmtOf 1) (lane 32 0 (s.ctx.v 2)).toNat
    ∧ ZeroIn s.ctx.user.fmode (fmtOf 1) (lane 32 1 (s.ctx.v 2)).toNat ∧ InfIn (fmtOf 1) (lane 32 0 (s.ctx.v 3)).toNat
    ∧ rmOf s.ctx.user.fmode = .rne ∧ fmtOf 4 = .e4m3 := by
  refine ⟨by decide, by decide, ?_, ?_, ?_, ?_, ?_, by decide, by decide⟩
  · show NanIn .fp32 0x7FC00001
    unfold NanIn; decide
  · show ¬NanIn .fp32 0x3F800000
    unfold NanIn; decide
  · show NormalIn .fp32 0x3F800000
    unfold NormalIn NanIn InfIn; decide
  · show ZeroIn 0 .fp32 0
    unfold ZeroIn; decide
  · show InfIn .fp32 0xFF800000
    unfold InfIn; decide

theorem witness_FloatingLanes_overflow :
    NormalIn .fp32 0x7F000000 ∧ expBits .fp32 0x7F000000 = 2 ^ (FFmt.fp32).ebits - 2 := by
  unfold NormalIn NanIn InfIn; decide

theorem witness_ReductionsAndDotProducts_tree :
    let s := (lanesOf 0x3F8000003F8000003F8000004B800000 0 0x7FC00001).mod fun c => c.setK 1 0xF
    ((List.range 8).filter fun i => (s.ctx.k 1).getLsbD i) = [0, 1, 2, 3] ∧ lane 32 0 (s.ctx.v 1) = 0x4B800000
    ∧ (∀ i : Fin 4, i ≠ 0 → lane 32 i.val (s.ctx.v 1) = 0x3F800000) ∧ rmOf s.ctx.user.fmode = .rne
    ∧ (s.ctx.v 3).toNat % 2 ^ 32 = 0x7FC00001
    ∧ ((s.mod fun c => c.setF 4 255).ctx.f 4).toNat % 256 = 255 := by decide +kernel

/-- An entry of the helper at the head of the LVU queue. -/
def entry (i : Instr) (left : Nat) : LvuEntry :=
  { id := 1, slot := 1, instr := i, ga := 0, gb := 0, va := 0, fa := 0, fb := 0, mode := 0, seed := 0, level := .h, seq := 0
    places := [], pieces := 32, left := left }

/-- The places that element checks pass. -/
def elemsOf (r : State × Except (Cause × Word) (List Place)) : Option (List Nat) :=
  match r.2 with
  | .ok ps => if ps.all fun p => p.layout != 2 then some (ps.map fun p => p.pa) else none
  | .error _ => none

theorem witness_LongInstructionsEnqueue :
    let s := setg 1 0x0100000000000000 helper
    let strided : List Word := (List.range 256).map fun i => gv s 1 + BitVec.ofNat 64 i * gv s 2
    let gathered : List Word := (List.range (min 512 256)).map fun i =>
      gv s 1 + BitVec.ofNat 64 8 * (longLane 32 i (s.ctx.q 3)).signExtend 64
    s.core.lvu.length < 16
    ∧ elemsOf (checkElems .read 8 (spanLocked s strided 8 false) strided s) = some (List.replicate 256 0x20000000000)
    ∧ elemsOf (checkElems .write 8 (spanLocked s strided 8 true) strided s) = some (List.replicate 256 0x20000000000)
    ∧ elemsOf (checkElems .read 8 (spanLocked s gathered 8 false) gathered s) = some (List.replicate 256 0x20000000000)
    ∧ elemsOf (checkElems .write 8 (spanLocked s gathered 8 true) gathered s) = some (List.replicate 256 0x20000000000)
    ∧ writesQ (BitVec.ofNat 4 s.core.cur.val) 3 s.core.lvu = false ∧ outstanding s < 64 := by decide +kernel

/-- A place of cluster memory. -/
def clusterPlace (off : Nat) : Place := { pa := 0x20000000000 + off, layout := 0, lease := 0, pte := 0 }

/-- The helper with an entry over two places of cluster memory at the head of the LVU queue. -/
def longAccessed (i : Instr) : State :=
  helper.modCore fun c => { c with lvu := [{ entry i 0 with places := [clusterPlace 0, clusterPlace 8] }] }

theorem witness_LongEntriesComplete_accesses :
    let s := ev .lvuEntryComplete (longAccessed (.qst 1 2 3 3))
    s.event = some .lvuEntryComplete ∧ s.hw.leases = [] ∧ (s.at 1).framed = false ∧ Memory.wf s.mem = true
    ∧ s.cluster.locks = [] ∧ s.cluster.lost = [] ∧ s.agenda = [] ∧ s.core.lvu.map (fun e => e.places.length) = [2]
    ∧ ([clusterPlace 0, clusterPlace 8].all fun p => !isSystemSpace p.pa && physExists s p.pa p.layout && !eccBad s p.pa 8)
      = true ∧ (2 : Nat) ≤ 2048 / 8 := by decide +kernel

theorem witness_LongEntriesComplete_elements :
    (1 : BitVec 3).toNat < 6 ∧ rmOf (entry (.qrsum 1 2 1 0) 0).mode = .rne
    ∧ (entry (.qrsum 1 2 1 0) 0).instr = .qrsum 1 2 1 0 ∧ (entry (.qdot 5 1 2 3 4) 0).instr = .qdot 5 1 2 3 4
    ∧ (entry (.qcmp 1 2 3 0 5) 0).instr = .qcmp 1 2 3 0 5 ∧ (entry (.qdop 1 2 3) 0).instr = .qdop 1 2 3 := by decide

theorem witness_LongEntriesComplete :
    let s (i : Instr) (n : Nat) : State := helper.modCore fun c => { c with lvu := [entry i n] }
    (s .vlong 0).core.lvu = [entry .vlong 0] ∧ (entry .vlong 0).slot.toNat = 1 ∧ ((s .vlong 0).at 1).framed = false
    ∧ (ev .lvuEntryComplete (s (.qadd 1 2 3 0) 0)).event = some .lvuEntryComplete
    ∧ (entry (.qadd 1 2 3 0) 0).left = 0 ∧ (entry (.qadd 1 2 3 0) 0).instr = .qadd 1 2 3 0
    ∧ (ev (.lvuArbitration [] []) (s (.qmov 1 2) 32)).event = some (.lvuArbitration [] [])
    ∧ 0 < (entry (.qmov 1 2) 32).left ∧ (entry (.qmov 1 2) 32).isDop = false := by decide +kernel

/-- n bytes of a number placed at a physical address. -/
def poke (pa n w : Nat) (s : State) : State := writeBytes s pa (bytesOfNat n w)

/-- Does an engine's read at issue succeed, as a test says? -/
def readsAs (r : EngOut Nat) (p : State → Nat → Bool) : Bool :=
  match r with
  | .ok s x => p s x
  | _ => false

/-- A geometry of the registers g1, g2, g3. -/
def geo (fn : BitVec 3) (s : State) (x : Nat) : Geo := { fn := fn, dst := gv s 1, src := gv s 2, ctl := gv s 3, desc := x }

/-- The helper with a destination, a source and a third operand. -/
def copying (dst src ctl : Word) : State := setg 1 dst (setg 2 src (setg 3 ctl helper))

theorem witness_CopiesAtIssue_plain :
    let s := copying 0x0100000000001000 0x0100000000000000 0x4000000000
    let z := copying 0x0100000000001000 0x0100000000000000 0
    let n := copying 0x0100000000001000 0x0100000000000000 64
    let r := copying 0x0100000000001000 0x0100000000000000 0x0200000000000040
    let p := copying 0xF400000000000000 0x0100000000000000 64
    jobStall s = false ∧ (geo 0 s 0).refusal s s.ctx.level = some 9 ∧ (geo 4 s 0).refusal s s.ctx.level = some 9
    ∧ (geo 0 z 0).refusal z z.ctx.level = none ∧ (geo 0 z 0).total = 0
    ∧ (geo 0 n 0).refusal n n.ctx.level = none ∧ (geo 0 n 0).total = 64 ∧ (geo 4 r 0).refusal r r.ctx.level = none
    ∧ (geo 4 r 0).total = 64 ∧ lockRoom n = 64 ∧ launchPort (gv n 1) = false
    ∧ launchPort (gv p 1) = true ∧ (geo 0 p 0).refusal p p.ctx.level = none ∧ (geo 0 p 0).total = 64 := by decide +kernel

theorem witness_CopiesAtIssue_described :
    let at2000 : Word := 0x0100000000002000
    let d2 : Nat := 2 ^ 368 + 2 ^ 384 + 2 ^ 400 + 64 * 2 ^ 416
    let d3 : Nat := 2 + 63 * 2 ^ 96 + 64 * 2 ^ 128 + 2 * 2 ^ 192
    let s (x : Nat) := poke 0x20000002000 64 x (copying 0x0100000000001000 0x0100000000000000 at2000)
    at2000.toNat % 64 = 0 ∧ (gv (copying 0 0 1) 3).toNat % 64 ≠ 0 ∧ (gv (copying 0 0 8) 3).toNat % 16 ≠ 0
    ∧ readsAs (engReadNow (s d2) at2000 64) (fun t x => (geo 1 (s d2) x).refusal t .h == none && (geo 1 (s d2) x).total == 64
        && (geo 2 (s d2) x).refusal t .h == none) = true
    ∧ readsAs (engReadNow (s d3) at2000 64) (fun t x => (geo 3 (s d3) x).refusal t .h == none && (geo 3 (s d3) x).total == 128)
        = true
    ∧ readsAs (engReadNow (s (2 + 256 * 2 ^ 64)) at2000 16) (fun t x => x / 2 ^ 32 % 2 ^ 32 == 0
        && ({ geo 0 (s 0) 0 with ctl := BitVec.ofNat 64 (x / 2 ^ 64 % 2 ^ 64) }).refusal t .h == none) = true := by
  decide +kernel

/-- A copy of the helper in the queue. -/
def copyJob (fn : BitVec 3) (src : Word) : Job :=
  { id := 5, who := selfId slotZero 1, token := 3, op := .copy fn 0x0100000000001000 src 64 0 0, mode := 0, seed := 0
    level := .h, started := false, startRef := 0, rows := 0, xroot := 0, seq := 0, after := 0, flags := 0 }

/-- How the blocks of a copy end: done, or the blocks moved and the cause. -/
def blocksEnd (r : CopyOut) : Option (Option (Nat × Cause)) :=
  match r with
  | .done .. => some none
  | .fault _ _ k c => some (some (k, c))
  | _ => none

theorem witness_CopiesRunToTheirToken :
    let s (fn : BitVec 3) (src : Word) := helper.modCluster fun c => { c with jobs := [copyJob fn src] }
    let env : FEnv := { md := 0, lfsr := 0, flags := 0 }
    let g (src : Word) : Geo := { fn := 0, dst := 0x0100000000001000, src := src, ctl := 64, desc := 0 }
    let ok : Word := 0x0100000000000000
    let bad : Word := 0x1000000000000000
    (copyJob 0 ok).started = false ∧ (ev .copyStart (s 0 ok)).event = some .copyStart
    ∧ ((s 0 ok).cluster.jobs.find? fun x => x.id == 5) = some (copyJob 0 ok) ∧ launchPort 0x0100000000001000 = false
    ∧ ((g ok).total + 63) / 64 = 1 ∧ blocksEnd (copyBlocks (copyJob 0 ok) (g ok) 1 0 (s 0 ok) env) = some none
    ∧ blocksEnd (copyBlocks (copyJob 0 bad) (g bad) 1 0 (s 0 bad) env) = some (some (0, 5))
    ∧ localSlot (s 0 ok) (copyJob 0 ok).who = some 1 ∧ ((s 0 ok).at 1).framed = false
    ∧ blocksEnd (copyBlocks (copyJob 4 ok) { g ok with fn := 4 } (max 0 (min (max 0 1) 1) - 0) 0 (s 4 ok) env) = some none
    ∧ (ev (.cpyrAckTimeout 5 1) (s 4 ok)).event = some (.cpyrAckTimeout 5 1) := by decide +kernel

/-- A copy of four bytes of cluster memory, and the reducing one of one i32. -/
def fourBytes (fn : BitVec 3) : Job :=
  { copyJob fn 0x0100000000000000 with
    op := .copy fn 0x0100000000001000 0x0100000000000000 (if fn = 4 then 0x0A00000000000004 else 4) 0 0 }

/-- The place of an address of cluster memory. -/
def clusterAt (ea : Word) : Nat := 0x20000000000 + ea.toNat % 2 ^ 20

/-- An engine's place of an untranslated address, whatever memory holds. -/
theorem engPlace_plain (s : State) (m : List (Nat × Byte)) (ea : Word) (w : Bool) (pa : Nat)
    (h : okWith (resolve s ea) (fun x => x == pa) = true) (h1 : fld ea 56 8 ≠ 0x10)
    (h2 : inClusterSystemArea pa = false) (h3 : isSystemSpace pa = false) (h4 : s.hw.leases = [])
    (h5 : physExists s pa 0 = true) :
    engPlace { s with mem := m } 0 .h ea w = ({ s with mem := m }, .ok pa 0) := by
  have h' : resolve { s with mem := m } ea = .ok pa := by
    show resolve s ea = .ok pa
    cases hr : resolve s ea with
    | error c => rw [hr] at h; cases h
    | ok x => rw [hr] at h; rw [beq_iff_eq.mp h]
  have h5' : physExists { s with mem := m } pa = true := h5
  simp [engPlace, Sys2Proof.Machine.translate, h', h1, h2, h3, h4, leaseReached, leaseRoute, leaseUnder]
  exact h5'

/-- The hypotheses of `engPlace_plain` for an address of cluster memory. -/
def plainPlace (s : State) (ea : Word) : Bool :=
  let pa := clusterAt ea
  okWith (resolve s ea) (fun x => x == pa) && decide (fld ea 56 8 ≠ 0x10) && !inClusterSystemArea pa && !isSystemSpace pa
    && s.hw.leases.isEmpty && physExists s pa 0

theorem engPlace_cluster (s : State) (m : List (Nat × Byte)) (ea : Word) (w : Bool) (h : plainPlace s ea = true) :
    engPlace { s with mem := m } 0 .h ea w = ({ s with mem := m }, .ok (clusterAt ea) 0) := by
  simp only [plainPlace, Bool.and_eq_true, Bool.not_eq_true', decide_eq_true_eq, List.isEmpty_iff] at h
  obtain ⟨⟨⟨⟨⟨h0, h1⟩, h2⟩, h3⟩, h4⟩, h5⟩ := h
  exact engPlace_plain s m ea w _ h0 h1 h2 h3 h4 h5

theorem witness_CopiesRunToTheirToken_places (fn : BitVec 3) (h : fn = 0 ∨ fn = 4) :
    let s := helper.modCluster fun c => { c with jobs := [fourBytes fn] }
    CopyPlaces s (fourBytes fn) (copiedByte fn 0x0100000000001000 0x0100000000000000 0) 0 4 clusterAt clusterAt
    ∧ ∀ k m, k < 4 → eccBad s (clusterAt (0x0100000000001000 + BitVec.ofNat 64 k)) 1 = false ∧ ∃ lay,
      engPlace { s with mem := m } 0 .h (0x0100000000001000 + BitVec.ofNat 64 k) false =
        ({ s with mem := m }, .ok (clusterAt (0x0100000000001000 + BitVec.ofNat 64 k)) lay) := by
  have four : ∀ k : Nat, k < 4 → k = 0 ∨ k = 1 ∨ k = 2 ∨ k = 3 := by omega
  rcases h with rfl | rfl
  all_goals
    refine ⟨⟨?_, ?_, ?_, ?_, ?_⟩, ?_⟩
    · intro i ea m _ hi h
      obtain rfl := Option.some.inj h
      rcases four i hi with rfl | rfl | rfl | rfl <;> exact ⟨0, engPlace_cluster _ _ _ _ (by decide +kernel)⟩
    · intro i ea m _ hi h
      obtain rfl := Option.some.inj h
      rcases four i hi with rfl | rfl | rfl | rfl <;> exact ⟨0, engPlace_cluster _ _ _ _ (by decide +kernel)⟩
    · intro i ea _ hi h
      obtain rfl := Option.some.inj h
      rcases four i hi with rfl | rfl | rfl | rfl <;> decide +kernel
    · intro i k a b _ hi _ hk h h'
      obtain rfl := Option.some.inj h
      obtain rfl := Option.some.inj h'
      rcases four i hi with rfl | rfl | rfl | rfl <;> rcases four k hk with rfl | rfl | rfl | rfl <;> decide +kernel
    · exact ⟨rfl, rfl, fun m hm => absurd hm (List.not_mem_nil)⟩
    · intro k m hk
      rcases four k hk with rfl | rfl | rfl | rfl <;>
        exact ⟨by decide +kernel, 0, engPlace_cluster _ _ _ _ (by decide +kernel)⟩

theorem witness_CopiesRunToTheirToken_bytes :
    let s := helper.modCluster fun c => { c with jobs := [fourBytes 4] }
    copyBytes 0 4 0 = 4 ∧ copyBytes 4 0x0A00000000000004 0 = 4 ∧ redSize (0x0A00000000000004 / 2 ^ 56) = 4
    ∧ launchPort 0x0100000000001000 = false ∧ Memory.wf s.mem = true ∧ localSlot s (fourBytes 4).who = some 1
    ∧ (s.at 1).framed = false ∧ (s.cluster.jobs.find? fun x => x.id == 5) = some (fourBytes 4) := by decide +kernel

/-- A stream of four doubles of cluster memory in g4. -/
def stream : Stream :=
  { pat := BitVec.ofNat 256 (0x0100000000000000 + 8 * 2 ^ 64 + 4 * 2 ^ 160 + 2 ^ 176 + 2 ^ 192 + 3 * 2 ^ 208), cls := 0, reg := 4
    popped := 0, buf := [], fault := none, ending := false, level := .h, born := 0, seq := 0 }

theorem witness_StreamsOpenRefillClose :
    let at2000 : Word := 0x0100000000002000
    let s := poke 0x20000002000 32 stream.pat.toNat (setg 1 at2000 helper)
    let o := s.mod fun c => { c with streams := [stream] }
    let full := s.mod fun c => { c with streams := List.replicate 4 stream }
    s.ctx.streamIn (streamReg 5 0) = none ∧ (o.ctx.streamIn (streamReg 4 0)).isSome = true
    ∧ full.ctx.streamIn (streamReg 5 0) = none ∧ 4 ≤ full.ctx.streams.length ∧ (gv s 1).toNat % 32 = 0
    ∧ readsAs (engReadNow s at2000 32) (fun t x => patFormat x 0 && x % 2 ^ 64 % elemSize x 0 == 0
        && (streamPat x).aligned (elemSize x 0) && spanEnds t (patSpan x 0) && !spanBound t (patSpan x 0)) = true
    ∧ s.cluster.ranges.length < 64
    ∧ (ev (.streamRefill 1 0 4) o).event = some (.streamRefill 1 0 4) ∧ stream.isIn (streamReg 4 0) = true
    ∧ 0 < patCount stream.pat ∧ elemSize stream.pat.toNat 0 = 8
    ∧ (match engRead o o.ctx.user.xroot .h (wordAdd 0x0100000000000000 ((streamPat stream.pat.toNat).off 0)) 8 with
        | .ok _ bs => bs == List.replicate 8 0
        | _ => false) = true := by decide +kernel


/-! Hypotheses met: the matrix engine, bank units, the exchange. -/

/-- The entry of a capability in the launch context's table, of type 7. -/
def capEntry (low tag : Nat) : Nat := 7 * 2 ^ 128 + low * 2 ^ 256 + tag * 2 ^ 320

/-- A job word of one row: C at offset 0x1000, strides of one. -/
def jw : Word := 2 ^ 40 + 2 ^ 32 + 0x1000

/-- The shape of a tile of one i8 column of one block. -/
def tileShape : Word := 2 ^ 48 + 8 * 2 ^ 16

/-- An MXJ descriptor: an i8 job on cluster memory. -/
def mxjDesc : Nat := 0x0100000000000000 + jw.toNat * 2 ^ 64 + 0x7F * 2 ^ 128 + 0x7F * 2 ^ 144 + 0x2D * 2 ^ 160

theorem witness_MatrixJobsAtIssue :
    let at2000 : Word := 0x0100000000002000
    let s := poke 0x20000002000 32 mxjDesc (poke 0x20000003040 64 (capEntry 5 6)
      (copying at2000 1 tileShape |>.mod fun c => { c with user := { c.user with restb := 0x0100000000003000 } }))
    jobStall s = false ∧ mxbRefusal s 0x0100000000000000 0 = some 9
    ∧ mxbRefusal s 0x0100000000000000 tileShape = none
    ∧ jobRefusal s 5 0x0100000000000000 0 = some 9 ∧ jobRefusal s 5 0x0100000000000000 jw = none
    ∧ s.cluster.ranges.length ≤ 62 ∧ (gv s 2).toNat % 32 ≠ 0 ∧ (gv s 1).toNat % 32 = 0 ∧ (gv s 2).toNat < 65536
    ∧ readsAs (engReadNow s (gv s 1) 32) (fun t x => x == mxjDesc && mxjFormat x
        && (jobRefusal t 5 (BitVec.ofNat 64 x) (BitVec.ofNat 64 (x / 2 ^ 64 % 2 ^ 64))).isNone
        && readsAs (engReadNow t (eaRes t 0 (gv s 2).toNat) 64) (fun _ e => e / 2 ^ 128 % 2 ^ 8 == 7)) = true := by
  decide +kernel

/-- A job in the queue. -/
def queued (op : JobOp) (started : Bool) : Job :=
  { id := 5, who := selfId slotZero 1, token := 3, op := op, mode := 0, seed := 0, level := .h, started := started
    startRef := 0, rows := 0, xroot := 0, seq := 0, after := 0, flags := 0 }

/-- A job of another cluster's context with a capability. -/
def capJob (cap : BitVec 128) : CapJob :=
  { who := selfId slotZero 1, id := 9, token := 3, desc := BitVec.ofNat 256 mxjDesc, cap := cap, mode := 0, seed := 0
    seq := 0, after := 0 }

theorem witness_MatrixJobsAtIssue_status :
    let s := setg 1 3 (helper.mod fun c => { c with act := { c.act with mxJobs := [(3, 5, 2)] } })
    let t := s.modCluster fun c => { c with jobs := [queued (.mxb 0 0) true] }
    32 ≤ (gv (setg 1 32 s) 1).toNat ∧ (helper.ctx.act.mxJobs.find? fun j => j.1.toNat == 3) = none
    ∧ (s.ctx.act.mxJobs.find? fun j => j.1.toNat == 3) = some (3, 5, 2) ∧ s.cluster.remote = []
    ∧ (s.cluster.jobs.find? fun j => j.id == 5) = none
    ∧ (t.cluster.jobs.find? fun j => j.id == 5) = some (queued (.mxb 0 0) true) ∧ s.agenda = []
    ∧ ({ s with agenda := [.mxcapArrival { capJob 0 with id := 5 }] }).agenda = [.mxcapArrival { capJob 0 with id := 5 }]
    ∧ (capJob 0).who = me s := by decide +kernel

/-- How the rows of a job end: how many, and what stopped it. -/
def rowsEnd (r : RowsOut) : Nat × Option RowsEnd := (r.2.2.1, r.2.2.2)

theorem witness_MatrixUnitsRunTheirJobs :
    let tile : Tile := { fmt := 8, kb := 1, n := 1, cols := [List.replicate 32 1], bad := [] }
    let mxb (st : Bool) := queued (.mxb 0x0100000000000000 tileShape) st
    let job (st : Bool) := queued (.compute 0x2D 0x0100000000000000 jw 127 127) st
    let s (j : Job) (m : Msg) := ev m (helper.modCluster fun c => { c with jobs := [j] })
    let t := (s (job true) .computeJobComplete).modCluster fun c => { c with cur := some tile }
    localSlot (s (mxb false) .mxbStart) (mxb false).who = some 1 ∧ (helper.at 1).framed = false
    ∧ (mxb false).started = false ∧ (s (mxb false) .mxbStart).event = some .mxbStart ∧ helper.cluster.ranges.length < 64
    ∧ (match mxbCols (mxb true) 0x0100000000000000 64 (mxbColumn tileShape) 1 0 (s (mxb true) .mxbComplete) with
        | .ok _ cs => cs == [List.replicate 32 0]
        | _ => false) = true
    ∧ (s (job false) .computeJobStart).cluster.jobs = [job false] ∧ helper.cluster.cur = none
    ∧ t.cluster.cur = some tile ∧ tile.fmt.toNat = bCode 5
    ∧ rowsEnd (computeRows (job true) 5 0x0100000000000000 jw 127 127 1 1 (tile.cols.map (lineBlocks 0 8 1)) (jwRows jw - 0) 0 t
        { md := 0, lfsr := 0, flags := 0 }) = (1, none)
    ∧ stageRuns (s (job false) .computeJobStart) = false ∧ ({ tile with bad := [0] }).bad ≠ [] ∧ tile.bad = []
    ∧ helper.hw.log.length < 4096 := by decide +kernel

/-- A capability for this cluster, valid and not expired, with a tag. -/
def signed (tag : Word) : BitVec 128 := tag ++ (0x8000000001000000 : Word)

theorem signed_low (tag : Word) (lo n : Nat) (h : lo + n ≤ 64) :
    nfld (signed tag).toNat lo n = nfld (0x8000000001000000) lo n := by
  have e : (signed tag).toNat = 2 ^ 64 * tag.toNat + (0x8000000001000000) := by
    have l : (0x8000000001000000 : Word).toNat = 0x8000000001000000 := by decide
    rw [signed, BitVec.toNat_append, l, Nat.shiftLeft_eq, Nat.mul_comm, Nat.two_pow_add_eq_or_of_lt (by decide)]
  rw [nfld, nfld, e, Nat.shiftRight_eq_div_pow, Nat.shiftRight_eq_div_pow]
  obtain ⟨k, hk⟩ := Nat.exists_eq_add_of_le h
  have p : (2 : Nat) ^ 64 = 2 ^ lo * (2 ^ n * 2 ^ k) := by rw [hk, Nat.pow_add, Nat.pow_add, Nat.mul_assoc]
  rw [p, Nat.mul_assoc, Nat.mul_add_div (Nat.two_pow_pos lo), Nat.mul_assoc, Nat.mul_add_mod]

theorem signed_tag (tag : Word) : BitVec.ofNat 64 (nfld (signed tag).toNat 64 64) = tag := by
  have e : (signed tag).toNat = 2 ^ 64 * tag.toNat + (0x8000000001000000) := by
    have l : (0x8000000001000000 : Word).toNat = 0x8000000001000000 := by decide
    rw [signed, BitVec.toNat_append, l, Nat.shiftLeft_eq, Nat.mul_comm, Nat.two_pow_add_eq_or_of_lt (by decide)]
  apply BitVec.eq_of_toNat_eq
  have := tag.isLt
  rw [nfld, e, Nat.shiftRight_eq_div_pow, BitVec.toNat_ofNat]
  omega

/-- The helper, whose job 9 has gone to a cluster. -/
def sender : State := helper.modCluster fun c => { c with remote := [(9, selfId slotZero 1, 3, false)] }

theorem witness_MatrixUnitsRunTheirJobs_remote : ∃ tag : Word,
    let j := capJob (signed tag)
    let s := ev (.mxcapArrival j) sender
    s.event = some (.mxcapArrival j) ∧ localSlot s j.who = some 1 ∧ capEnded s j = false ∧ capRefusal s j = none
    ∧ s.cluster.jobs = [] ∧ s.cluster.waiting = []
    ∧ s.cluster.ranges.length ≤ 62
    ∧ jobRefusal s (j.desc.toNat / 2 ^ 160 % 2 ^ 8 - 0x28) (j.desc.truncate 64) (BitVec.ofNat 64 (j.desc.toNat / 2 ^ 64)) = none := by
  refine ⟨Config.kmac256 sender.cluster.ke (bytesLE 8 (0x8000000001000000) ++ bytesLE 2 (nfld (selfId slotZero 1).toNat 20 12)),
    rfl, by decide +kernel, by decide +kernel, ?_, by decide +kernel, by decide +kernel, by decide +kernel, by decide +kernel⟩
  have b (tag : Word) : (signed tag).toNat.testBit 24 = true := by
    have := signed_low tag 24 1 (by decide)
    rw [Nat.testBit_eq_decide_div_mod_eq]
    simpa [nfld, Nat.shiftRight_eq_div_pow] using this
  have c (tag : Word) : capHere sender (signed tag) = true := by
    simp only [capHere, signed_low _ _ _ (show 12 + 12 ≤ 64 by decide), signed_low _ _ _ (show 9 + 3 ≤ 64 by decide),
      signed_low _ _ _ (show 2 + 7 ≤ 64 by decide)]
    decide
  have h : clusterHolder sender = none := by decide
  have k (tag : Word) : ¬ nfld (signed tag).toNat 32 32 < nfld sender.clock.ref 24 32 := by
    rw [signed_low _ _ _ (by decide)]; decide
  have l (tag : Word) : bytesLE 8 (nfld (signed tag).toNat 0 64) = bytesLE 8 (0x8000000001000000) := by
    rw [signed_low _ _ _ (by decide)]; decide
  show (if (clusterHolder sender).isSome then some 20 else if _ then some 12 else none) = none
  rw [h, if_neg (by simp), if_neg]
  rintro (h1 | h1 | h1 | h1)
  · simp [capJob, b] at h1
  · have := c (Config.kmac256 sender.cluster.ke
      (bytesLE 8 0x8000000001000000 ++ bytesLE 2 (nfld (selfId slotZero 1).toNat 20 12)))
    simp only [capHere] at this
    simp only [capHere, capJob, ev] at h1
    rw [this] at h1
    exact absurd h1 (by decide)
  · exact k _ h1
  · refine h1 ((signed_tag _).trans ?_)
    simp only [capJob, l]
    rfl

theorem witness_MatrixUnitsRunTheirJobs_forged :
    let j := capJob 0
    let s := ev (.mxcapArrival j) sender
    let t := (ev (.mxcapTimeout 9) helper).modCluster fun c => { c with remote := [(9, j.who, 3, false)] }
    s.event = some (.mxcapArrival j) ∧ capEnded s j = false ∧ clusterHolder s = none ∧ capHere s j.cap = true ∧ j.cap.getLsbD 24 = false
    ∧ s.loc.core = 0 ∧ (s.at 1).framed = false ∧ (s.at 0).level = .c ∧ (s.at 0).act.blocked = none
    ∧ s.core.preempted = false ∧ s.core.stopped = false
    ∧ t.event = some (.mxcapTimeout 9) ∧ t.cluster.remote = [(9, j.who, j.token, false)] ∧ (t.at 1).framed = false := by
  decide +kernel

/-- A vector image header of 32 elements of i8's width. -/
def header : Nat := 5 + 32 * 2 ^ 32

/-- Slot 0 of unit 0 of stack 0. -/
def unit0 : Word := 2 ^ 32 + 2 ^ 16

theorem witness_BankJobsIssueAndComplete_issue :
    let at2000 : Word := 0x0100000000002000
    let bmv : Nat := 0x0500000000000000 + 1 * 2 ^ 128 + 32 * 2 ^ 160 + 64 * 2 ^ 192
    let s := poke 0x20000002000 64 header (setg 1 at2000 (setg 2 unit0 helper))
    let v := poke 0x20000002000 64 bmv (setg 1 at2000 (setg 2 1 helper))
    bankStall s = false ∧ (gv (setg 1 1 s) 1).toNat % 64 ≠ 0 ∧ (gv s 1).toNat % 64 = 0
    ∧ readsAs (engReadNow s (gv s 1) 64) (fun t x => decide (t.banks = s.banks) && imageFormat x
        && x / 2 ^ 64 % 2 ^ 64 == 0 && (selectUnits t (gv s 2) false).any (fun us => us.all fun u => !channelFenced t u)
        && !bankStall t) = true
    ∧ readsAs (engReadNow v (gv v 1) 64) (fun t x => decide (t.banks = v.banks) && bmvFormat 1 x (gv v 2)
        && x % 64 == 0 && x / 2 ^ 192 % 64 == 0) = true
    ∧ selectUnits s 0 false = none ∧ selectUnits s unit0 false = some [(0, 0)]
    ∧ (gv s 1).toNat % 4 = 0 ∧ 1 ≤ lockRoom s ∧ selectUnits s 0 true = none ∧ selectUnits s (unit0 + 1) true = some [(0, 0)] := by
  decide +kernel

/-- A bank job of the helper. -/
def bankJob (i : Instr) (ga gb : Word) (desc : BitVec 512) : BankJob :=
  { id := 5, who := selfId slotZero 1, token := 3, instr := i, ga := ga, gb := gb, desc := desc, sa := 0, sb := 0
    mode := 0, seed := 0, level := .h, xroot := 0, after := 0, seq := 0, done := 0 }

theorem witness_BankJobsIssueAndComplete_complete :
    let at2000 : Word := 0x0100000000002000
    let cfg := bankJob (.bcfg 3 1) (unit0 + 1) 0 0
    let vld := bankJob (.bvld 3 1 2) at2000 unit0 (BitVec.ofNat 512 header)
    let vrd := bankJob (.bvrd 3 1 2) at2000 unit0 0
    let inst : Instance' :=
      { id := 0, stages := [], entries := [], domain := 0, xroot := 0, units := [0], segs := 0, rows := 0, lap := 0, seg := 0
        gateOpen := false, gateAt := 0, deadline := 0, reading := false, stopped := false, owner := 0, pages := []
        consumers := [] }
    let s (j : BankJob) := ev (.bankJobComplete 5) { helper with banks := { helper.banks with jobs := [j] } }
    let bound := { s cfg with mill := { (s cfg).mill with insts := [inst] } }
    (s cfg).banks.jobs = [cfg] ∧ localSlot (s cfg) cfg.who = some 1 ∧ ((s cfg).at 1).framed = false
    ∧ selectUnits (s cfg) cfg.ga true = some [(0, 0)] ∧ [(0, 0)].any (unitBound bound) = true
    ∧ selectUnits bound cfg.ga true = some [(0, 0)] ∧ [(0, 0)].any (unitBound (s cfg)) = false
    ∧ vld.desc.toNat / 2 ^ 64 % 2 ^ 64 = 0 ∧ selectUnits (s vld) vld.gb false = some [(0, 0)]
    ∧ readsAs (match readImage (s vld) 0 .h vld.ga vld.desc.toNat with
        | .ok t _ => .ok t 0
        | .fault t c e => .fault t c e
        | .held t => .held t) (fun t _ => decide (localSlot t vld.who = some 1) && !(t.at 1).framed
          && decide (t.banks = (s vld).banks)) = true
    ∧ selectUnits (s vrd) vrd.gb false = some [(0, 0)]
    ∧ bvrdRefusal (s vrd) vrd.level vrd.ga (bvrdCount (s vrd) 0 [(0, 0)]) = none
    ∧ (bvrdWrite vrd 1024 0 [] (s vrd)).2.2 = none := by
  decide +kernel

/-- The descriptor of a BMV of one row of 32 i8 elements at generic address 0. -/
def bmvDesc : BitVec 512 := BitVec.ofNat 512 (0x1000000000000000 + 1 * 2 ^ 128 + 32 * 2 ^ 160 + 64 * 2 ^ 192)

/-- The helper with a BMV on slot 1, row 3, whose row lies on a bank page: slot 1 loaded or EMPTY. -/
def multiplying (loaded : Option (BitVec 8 × Nat)) : State :=
  let j : BankJob := { bankJob (.bmv 1 3 1 2 0) 0 (2 + 3 * 2 ^ 16) bmvDesc with xroot := 1 }
  let t := helper.modCore fun c =>
    { c with tlb1 := [{ domain := 0, vpage := 0, large := false, pte := BitVec.ofNat 64 (2 ^ 13 + 0x361) }] }
  ev (.bankJobComplete 5) { t with banks := { t.banks with
    jobs := [j], slots := [{ stack := 0, unit := 0, slot := 1, loaded := loaded, valid := 0 }] } }

/-- A row that ends at once in its state, as a test says. -/
def rowEnds (s : State) (r : State × RowEnd) (p : RowRes → Bool) : Bool :=
  match r with
  | (t, .res x _) => decide (t = s) && p x
  | _ => false

theorem witness_BankJobsIssueAndComplete_bmv :
    let s := multiplying (some (5, 32))
    let e := multiplying none
    let m := multiplying (some (5, 64))
    s.banks.jobs.map (fun j => (j.instr, nfld j.desc.toNat 128 32, bmvLen j.desc.toNat)) = [(.bmv 1 3 1 2 0, 1, 32)]
    ∧ (s.banks.jobs.all fun j => match rowPlace s j 0 with
        | (t, .ok u) => decide (t = s) && decide (u = (0, 0)) && !unitBound s u && !channelFenced s u
        | _ => false) = true
    ∧ (s.banks.jobs.all fun j => match rowRead s j 1 0 with
        | .ok t bs => decide (t = s) && !bs.isEmpty
        | _ => false) = true
    ∧ maskSlots (2 + 3 * 2 ^ 16) = [1] ∧ (slotImage s 0 0 1).map (fun im => (im.fmt, im.len)) = some (aCode 1, 32)
    ∧ (slotImage e 0 0 1).isNone = true ∧ (slotImage m 0 0 1).map (fun im => (im.fmt, im.len)) = some (aCode 1, 64)
    ∧ Memory.wf s.mem = true ∧ localSlot s (selfId slotZero 1) = some 1 ∧ (s.at 1).framed = false
    ∧ (s.banks.jobs.all fun j => rowEnds s (bmvRow j 1 [1] (0, 0) 0 s { md := 0, lfsr := 0, flags := 0 }) Except.isOk)
      = true
    ∧ (e.banks.jobs.all fun j => rowEnds e (bmvRow j 1 [1] (0, 0) 0 e { md := 0, lfsr := 0, flags := 0 }) fun x => !x.isOk)
      = true
    ∧ (s.banks.jobs.all fun j => match rowPlaces j 1 0 s with
        | (t, .ok us) => decide (t = s) && us == [(0, 0)]
        | _ => false) = true := by decide +kernel

/-- A Bell member whose module leads group 7. -/
def member (nmem lpart : Nat) (s : State) : State :=
  let rec7 := BitVec.ofNat 128
    (7 + 2 ^ 12 + nmem * 2 ^ 52 + lpart * 2 ^ 62 + 100 * 2 ^ 76 + 1000 * 2 ^ 92 + s.loc.dev.toNat * 2 ^ 116)
  { s with
    bell := { s.bell with state := 3 }
    exchange := { s.exchange with groups := s.exchange.groups.set 0 rec7 } }

/-- The context of a slot is in a phase of group 7. -/
def inPhase7 (s : State) : State :=
  s.mod fun c => { c with xch := { c.xch with inph := true, len := 1000, startCycle := s.clock.cycle, gid := 7 } }

theorem witness_ExchangeInstructions :
    let s := member 1 2 (setg 1 7 (setg 2 1000 helper))
    let p := inPhase7 (setg 3 (selfId helper 0 |>.zeroExtend 64) helper)
    let late := { p with exchange := { p.exchange with runs := [{ gid := 7, who := none, len := 1000, tick := 0, seq := 0
                                                                  started := true, failure := 3, breached := false }] } }
    let st : Word := 2 ^ 63 + 5
    let full := p.modCore fun c => { c with recv := c.recv.set 0 (some (9, false)) }
    (s.core.undo = none ∧ s.ctx.xch.inph = false ∧ otherInPhase s = false ∧ arrivedAlready s = false
      ∧ groupOf s 8 = none ∧ (groupOf s 7).isSome = true ∧ bellMember s = true ∧ (phaseOf s 7).sent = false
      ∧ (phaseOf s 7).first = none ∧ (groupOf s 7).all (fun rec => decide ((phaseOf s 7).counted + 1 < grLpart rec)) = true)
    ∧ (p.ctx.xch.inph = true ∧ routeMalformed (gv p 3) = false ∧ latency p (gv p 3) < p.ctx.xch.len ∧ phaseFailure p = 0
      ∧ phaseFailure late ≠ 0 ∧ latency late (gv p 3) < late.ctx.xch.len)
    ∧ (routeMalformed st = false ∧ st.getLsbD 63 = true ∧ latency p st < p.ctx.xch.len)
    ∧ (full.core.recv[0] = some (9, false) ∧ (gv full 0).toNat = full.clock.cycle - full.ctx.xch.startCycle)
    ∧ (s.ctx.xch.running = false ∧ s.ctx.xch.collided = none ∧ s.ctx.xch.breached = false) := by decide +kernel

/-- The last participant of a module arrives: one of a group of one module, and one led by another device. -/
theorem witness_ExchangeInstructions_last :
    let s := member 1 1 (setg 1 7 (setg 2 1000 helper))
    let away := { s with loc := { s.loc with dev := 1 } }
    let last (t : State) : Bool := (groupOf t 7).any fun rec => decide (grLpart rec ≤ (phaseOf t 7).counted + 1)
    last s = true ∧ (groupOf s 7).map (fun rec => (grLeader rec, grNmem rec)) = some (s.loc.dev, 1)
    ∧ (phaseOf s 7).sent = false ∧ (phaseOf s 7).first = none ∧ (phaseOf s 7).mismatch = false ∧ bellMember s = true
    ∧ (phaseOf s 7).arrivals = [] ∧ s.bell.silent = [] ∧ s.bell.breached = false ∧ arrivedAlready s = false
    ∧ last away = true ∧ (groupOf away 7).any (fun rec => grLeader rec != away.loc.dev) = true ∧ bellMember away = true := by
  decide +kernel

theorem witness_ExchangeInstructions_xvs :
    let s := setg 1 (2 ^ 12) (setg 2 0x0300000000200000 slotZeroS)
    s.ctx.level = .s ∧ entryMalformed (gv s 1) = false ∧ enDev (gv s 1) = s.loc.dev
    ∧ (spanOf (checkSpan .read 64 2 s (gv s 2))).any (fun q =>
        (recordRefusal (enLvl (gv s 1)) (BitVec.ofNat 1024 (natLE (readSpan q.1 64 q.2)))).isNone) = true
    ∧ enLvl (gv s 1) < 5 := by
  decide +kernel

/-- A released phase of group 7. -/
def run7 (started : Bool) (s : State) : Run :=
  { gid := 7, who := some (selfId s 1, 5), len := 1000, tick := 0, seq := 0, started := started, failure := 0, breached := false }

/-- Where no entry has been written, every stream passes. -/
theorem streamPasses_empty (s : State) (vs : Nat) (dev : BitVec 12) (h : s.exchange.entries = []) :
    streamPasses s vs dev = true :=
  List.all_eq_true.mpr fun _ _ => by rw [h]; rfl

theorem witness_PhasesStartAndEnd :
    let s := member 2 1 helper
    let one (n : Nat) (who : Option (BitVec 36 × BitVec 5)) (sent : Bool) : State :=
      setPhase (member n 1 helper)
        { phaseOf s 7 with first := some (1000, false, 0), arrivals := [(s.loc.dev, 1000, false, 0, false)], who := who, sent := sent }
    let runs (r : Run) (t : State) : State := { t with exchange := { t.exchange with runs := [r] } }
    let standing := ((runs (run7 false helper) helper).modAct 1 fun a =>
      { a with blocked := some { h := 7, d := some 5, op := none, kind := none, reserved := false } }).modCore fun c => c
    (ev (.phaseArrival 7 9 1000 false 0 false) (one 3 none false)).event = some (.phaseArrival 7 9 1000 false 0 false)
    ∧ (groupOf (one 3 none false) 7).map (fun r => (grLeader r, grNmem r)) = some (s.loc.dev, 3)
    ∧ (9 : BitVec 12) ≠ s.loc.dev ∧ (one 3 none false).bell.silent = []
    ∧ (phaseOf (one 3 none false) 7).arrivals.length + 1 < 3
    ∧ (phaseOf (one 3 none false) 7).arrivals.all (fun a => a.1 != 9) = true
    ∧ (groupOf (one 2 none true) 7).map (fun r => (grLeader r, grNmem r)) = some (s.loc.dev, 2)
    ∧ (phaseOf (one 2 none true) 7).arrivals = [(s.loc.dev, 1000, false, 0, false)]
    ∧ (phaseOf (one 2 none true) 7).first = some (1000, false, 0) ∧ (phaseOf (one 2 none true) 7).sent = true
    ∧ (one 3 none false).exchange.entries = [] ∧ (one 2 none true).exchange.entries = []
    ∧ (groupOf (one 3 none false) 7).map (fun r => r / 2 ^ 28 % 2 ^ 12) = some 0 ∧ (one 2 none true).bell.breached = false
    ∧ (phaseOf (one 2 none true) 7).who = none ∧ (phaseOf (one 2 none true) 7).round = 0
    ∧ standing.exchange.runs = [run7 false helper] ∧ (standing.at 1).xch.inph = false
    ∧ inPhase (inPhase7 (runs (run7 true helper) helper)) 7 = some 1 := by decide +kernel

theorem witness_PhasesStartAndEnd_start :
    let s := placing (((encode (.xph 5 1 2)).getD 0).toNat) (member 1 1 helper)
    let t := { s with exchange := { s.exchange with runs := [run7 false s] } }
    let u := t.modAct 1 fun a => { a with blocked := some { h := 7, d := some 5, op := none, kind := none, reserved := false } }
    atXph u (run7 false s).who = some (1, 5) ∧ (u.at 1).xch.inph = false ∧ 0 < u.clock.ref + 1 := by decide +kernel

/-- A word in flight. -/
def word (v : Word) (marker : Bool) : XWord :=
  { value := v, marker := marker, stream := none, dest := (selfId slotZero 0).truncate 32, slot := 3, sent := 0, due := 40
    from' := [], gid := 7, path := [], wide := none }

/-- An entry of a level 1 switch, with a record. -/
def entry1 (r : Nat) : Entry := { num := 2 ^ 12, record := BitVec.ofNat 1024 r, stepped := none }

theorem witness_WordsMeetAtEntries :
    let p := inPhase7 helper
    let runs (t : State) : State := { t with exchange := { t.exchange with runs := [run7 true helper] } }
    let fullSlot := (runs p).modCore fun c => { c with recv := c.recv.set 3 (some (1, false)) }
    let late := { runs p with clock := { p.clock with cycle := 41 } }
    let x := entry1 (3 * 2 ^ 8 + 3 * 2 ^ 256 + 4 * 2 ^ 320)
    let m := entry1 (3 + 2 ^ 256)
    slots.find? (fun j => (p.at j).xch.running) = some 1 ∧ (word 5 false).path = []
    ∧ ({ word 5 false with path := [(1, 2)] }).path ≠ [] ∧ wordDead p { word 5 false with path := [(1, 2)] } = false
    ∧ (destOf (word 5 false).dest).1 = p.loc.dev ∧ p.exchange.runs = [] ∧ p.clock.cycle ≤ (word 5 false).due
    ∧ p.core.recv[3] = none ∧ (runs p).exchange.runs = [run7 true helper] ∧ (run7 true helper).gid = (p.at 1).xch.gid
    ∧ (word 5 false).due < late.clock.cycle ∧ (fullSlot.core.recv[3]).isSome = true
    ∧ enLvl x.num = 1 ∧ x.cur = 0 ∧ x.mode 0 = 3 ∧ x.inMask 0 = 3 ∧ x.outMask 0 = 4 ∧ helper.exchange.outputs = []
    ∧ helper.agenda = [] ∧ (word 5 false).sent = (word 6 false).sent
    ∧ (word 5 false).gid = (p.at 1).xch.gid ∧ ({ word 5 false with gid := 8 }).gid ≠ (p.at 1).xch.gid
    ∧ (p.at 1).xch.startCycle ≤ (word 5 false).due ∧ (word 5 false).gid = (word 6 false).gid
    ∧ (word 5 true).marker = true ∧ m.nsm1 = 3 ∧ m.cur < 4 ∧ m.inMask m.cur = 1 ∧ m.outMask m.cur = 0
    ∧ ofCore helper (me helper) = true := by decide +kernel

/-! Hypotheses met: code objects and launches. -/

/-- The header of an image of 192 bytes before its hash: native text for FV-8, two sections, one kernel. -/
def imageHead : List Byte :=
  bytesOfNat 32 (0x46594B4F + 2 ^ 32 + 2 ^ 48 + 2 ^ 56 + 2 * 2 ^ 64 + 2 ^ 80 + 192 * 2 ^ 128)

/-- After its hash: the section table, four bytes of text at 96, and the kernel record at 128. -/
def imageTail : List Byte :=
  bytesOfNat 16 (1 + 2 * 2 ^ 8 + 0xFFFF * 2 ^ 16 + 4 * 2 ^ 32 + 96 * 2 ^ 64)
    ++ bytesOfNat 16 (9 + 2 * 2 ^ 8 + 0xFFFF * 2 ^ 16 + 64 * 2 ^ 32 + 128 * 2 ^ 64)
    ++ bytesOfNat 32 0x01000000 ++ bytesOfNat 64 (4 * 2 ^ 96 + 2 ^ 128)

/-- The image with a hash. -/
def image (h : List Byte) : List Byte := imageHead ++ (h ++ imageTail)

/-- The image with a hash of zeros. -/
def image0 : List Byte := image (List.replicate 32 0)

theorem image_length (h : List Byte) (n : h.length = 32) : (image h).length = 192 := by
  rw [image, List.length_append, List.length_append, n]; decide +kernel

theorem image_head (h : List Byte) (off n : Nat) (le : off + n ≤ 32) : imgNat (image h) off n = imgNat image0 off n := by
  have l : imageHead.length = 32 := by decide +kernel
  simp only [imgNat, image0, image]
  rw [List.drop_append_of_le_length (by omega), List.drop_append_of_le_length (by omega),
    List.take_append_of_le_length (by rw [List.length_drop]; omega),
    List.take_append_of_le_length (by rw [List.length_drop]; omega)]

theorem image_drop (h : List Byte) (n : h.length = 32) (off : Nat) (le : 64 ≤ off) :
    (image h).drop off = image0.drop off := by
  have l : imageHead.length = 32 := by decide +kernel
  have (x : List Byte) (k : x.length = 32) : (image x).drop off = imageTail.drop (off - 64) := by
    rw [image, ← List.append_assoc, List.drop_append, List.drop_eq_nil_of_le (by rw [List.length_append]; omega),
      List.length_append, l, k, List.nil_append]
  rw [this h n, image0, this _ (by decide)]

theorem image_sects (h : List Byte) (n : h.length = 32) : sectsOf (image h) = sectsOf image0 := by
  simp only [sectsOf, image_head h 8 2 (by decide)]
  refine List.map_congr_left fun i _ => ?_
  simp only [sectAt, imgNat, image_drop h n (64 + 16 * i) (by omega)]

theorem image_bytes (h : List Byte) (n : h.length = 32) (x : Sect) (m : x ∈ sectsOf image0) :
    x.bytes (image h) = x.bytes image0 := by
  have : ∀ y ∈ sectsOf image0, 64 ≤ y.off := by decide +kernel
  simp only [Sect.bytes, image_drop h n _ (this x m)]

theorem image_parts (h : List Byte) (n : h.length = 32) : partsOf 7 0 (image h) = partsOf 7 0 image0 := by
  rw [partsOf, partsOf, image_sects h n]
  refine List.ext_getElem (by simp) fun i h1 h2 => ?_
  rw [List.getElem_mapIdx, List.getElem_mapIdx, image_bytes h n _ (List.getElem_mem _)]

theorem image_sectsOk (h : List Byte) (n : h.length = 32) : sectsOk false (image h) = true := by
  have e : sectsOk false (image h) = sectsOk false image0 := by
    simp only [sectsOk, image_sects h n, image_length h n, show image0.length = 192 by decide +kernel]
  rw [e]; decide +kernel

/-- The address its tables are to have for the code. -/
def tables0 : Nat := 0x0300000000400000

theorem image_native : nativeParts 7 tables0 1 (partsOf 7 0 image0) [] = .ok (partsOf 7 0 image0) := by
  have k : kernelsOk 1 (partsOf 7 0 image0) = true := by decide +kernel
  have r : resourcesOk (partsOf 7 0 image0) = true := by decide +kernel
  have e : relocs (partsOf 7 0 image0) [] = [] := by decide +kernel
  have w : resWordsOk (partsOf 7 0 image0) = true := by decide +kernel
  generalize partsOf 7 0 image0 = ps at *
  simp [nativeParts, k, r, e, w, relocateAll]

theorem image_unhashed (h : List Byte) (n : h.length = 32) : patchBytes (image h) 32 (List.replicate 32 0) = image0 := by
  have l : imageHead.length = 32 := by decide +kernel
  rw [patchBytes, image_drop h n _ (by decide)]
  have : (image h).take 32 = imageHead := by rw [image, List.take_append_of_le_length (by omega), List.take_of_length_le (by omega)]
  rw [this]; decide +kernel

theorem bytesLE_length (n x : Nat) : (bytesLE n x).length = n := by
  induction n generalizing x with
  | zero => rfl
  | succ n ih => simp [bytesLE, ih]

theorem natLE_bytesLE (n x : Nat) (lt : x < 256 ^ n) : natLE (bytesLE n x) = x := by
  induction n generalizing x with
  | zero => simp at lt; simp [bytesLE, natLE, lt]
  | succ n ih =>
    rw [bytesLE, natLE, ih _ (by rw [Nat.pow_succ] at lt; omega), BitVec.toNat_ofNat]
    omega

/-- The image that passes its hash. -/
def hashed : List Byte := image (bytesLE 32 (Config.shake256 image0).toNat)

theorem hashed_loads : loadParts hashed 192 .fv8 7 tables0 = .ok (partsOf 7 0 image0) := by
  have n : (bytesLE 32 (Config.shake256 image0).toNat).length = 32 := bytesLE_length ..
  have l : imageHead.length = 32 := by decide +kernel
  have u : imgNat hashed 32 32 = (Config.shake256 image0).toNat := by
    rw [imgNat, hashed, image, List.drop_append_of_le_length (by omega), List.drop_eq_nil_of_le (by omega), List.nil_append,
      List.take_append_of_le_length (by omega), List.take_of_length_le (by omega), natLE_bytesLE]
    exact (Config.shake256 image0).isLt
  have g : gradeUse hashed .fv8 = some true := by
    have e : gradeUse hashed .fv8 = gradeUse image0 .fv8 := by
      simp only [gradeUse, hashed, image_head _ 7 1 (by decide), image_head _ 6 1 (by decide), image_sects _ n]
    rw [e]; decide +kernel
  have h0 (off k : Nat) (le : off + k ≤ 32) : imgNat hashed off k = imgNat image0 off k := image_head _ off k le
  have a : ¬(imgNat hashed 0 4 ≠ 0x46594B4F ∨ imgNat hashed 16 8 ≠ 192 ∨ 192 % 64 ≠ 0 ∨ 192 < 64) := by
    rw [h0 _ _ (by decide), h0 _ _ (by decide)]; decide +kernel
  have b : ¬(imgNat hashed 4 1 ≠ 1 ∨ imgNat hashed 24 8 ≠ 0 ∨ imgNat hashed 12 4 ≠ 0 ∨ 8 ≤ imgNat hashed 7 1) := by
    rw [h0 _ _ (by decide), h0 _ _ (by decide), h0 _ _ (by decide), h0 _ _ (by decide)]; decide +kernel
  have c : ¬ featureLevel < imgNat hashed 5 1 := by rw [h0 _ _ (by decide)]; decide +kernel
  have k : imgNat hashed 10 2 = 1 := by rw [h0 _ _ (by decide)]; decide +kernel
  rw [loadParts, if_neg a, if_neg b, u, BitVec.ofNat_toNat, BitVec.setWidth_eq, hashed, image_unhashed _ n,
    if_neg (by simp), ← hashed, if_neg c, g, k]
  dsimp only
  rw [hashed, image_sectsOk _ n, image_parts _ n, if_neg (by decide)]
  exact image_native

theorem bytes_written (m : List (Nat × BitVec 8)) (w : Memory.wf m = true) (a : Nat) (bs : List Byte) :
    Memory.bytes (Memory.putBytes m a bs) a bs.length = bs := by
  induction bs generalizing m a with
  | nil => rfl
  | cons b bs ih =>
    have w1 := Memory.put_wf w a b
    rw [List.length_cons, Memory.bytes, Memory.putBytes, ih _ w1 (a + 1), Memory.get_putBytes w1, if_neg (by omega),
      Memory.get_put w, if_pos rfl]

theorem hashed_at (a : Nat) :
    loadParts (Memory.bytes (Memory.putBytes [] a hashed) a 192) 192 .fv8 7 tables0 = .ok (partsOf 7 0 image0) := by
  have l : hashed.length = 192 := image_length _ (bytesLE_length ..)
  have := bytes_written [] rfl a hashed
  rw [l] at this
  rw [this, hashed_loads]

theorem placed_mem (m : Msg) (a : Nat) (bs : List Byte) :
    (ev m (writeBytes slotZero a bs)).mem = Memory.putBytes [] a bs := rfl

theorem placed_grade (m : Msg) (a : Nat) (bs : List Byte) : (ev m (writeBytes slotZero a bs)).grade = .fv8 := rfl

theorem witness_CodeObjectsLoadAndUnload_ok :
    let addr : Word := 0x20000000000
    let m : Msg := .codeObjectLoad addr 192 0 (addr + 0x1000) (BitVec.ofNat 64 tables0) 7
    let s := ev m (writeBytes slotZero addr.toNat hashed)
    s.event = some m
    ∧ loadParts (Memory.bytes s.mem addr.toNat (192 : Word).toNat) (192 : Word).toNat s.grade 7 (BitVec.ofNat 64 tables0).toNat
      = .ok (partsOf 7 0 image0)
    ∧ (addr + 0x1000).toNat % 64 = 0 ∧ (BitVec.ofNat 64 tables0).toNat % 64 = 0
    ∧ roomAt s (addr + 0x1000).toNat (residentSize (partsOf 7 0 image0)) = true
    ∧ memoryAt s addr.toNat (192 : Word).toNat = true ∧ eccBad s addr.toNat (192 : Word).toNat = false
    ∧ roomAt s (2 ^ 50) (residentSize (partsOf 7 0 image0)) = false := by
  refine ⟨rfl, ?_, by decide, by decide, by decide +kernel, by decide +kernel, by decide +kernel, by decide +kernel⟩
  rw [show (192 : Word).toNat = 192 by decide, show (BitVec.ofNat 64 tables0).toNat = tables0 by decide, placed_mem,
    placed_grade, hashed_at]

/-- A loaded object of one kernel of four bytes of text. -/
def codeObj (unloading : Bool) : CodeObj :=
  { id := 2, kernels := [BitVec.ofNat 512 (4 * 2 ^ 96 + 2 ^ 128)], text := [(0, 1, [0, 0, 0, 1])], xroot := 0
    template := [], restab := 0, lo := 0, hi := 4, unloading := unloading }

/-- The state with a loaded object. -/
def loaded (unloading : Bool) (s : State) : State :=
  { s with engine := { s.engine with code := [codeObj unloading] } }

theorem witness_CodeObjectsLoadAndUnload :
    let s := ev (.codeObjectLoad 0x20000000000 64 0 0x20000001000 0 7) slotZero
    let u (b : Bool) := ev (.codeObjectUnload 2) (loaded b slotZero)
    natLE ((Memory.bytes s.mem 0x20000000000 64).take 4) ≠ 0x46594B4F
    ∧ okWith (loadParts (Memory.bytes s.mem 0x20000000000 64) 64 s.grade 7 0) (fun _ => true) = false
    ∧ (u false).event = some (.codeObjectUnload 2) ∧ (∃ l ∈ (launched slotZero).engine.ctxs, l.objid = 2)
    ∧ (∀ l ∈ (u false).engine.ctxs, l.objid ≠ 2) ∧ (u false).engine.asking = [] ∧ codeOf (u false) 2 = some (codeObj false)
    ∧ codeOf (u true) 2 = some (codeObj true) := by decide +kernel

/-- A COUNTER of rank 1, index 0, generation 1 in the own device, with a count and an OWED. -/
def counter (n : Nat) (owed : BitVec 32) : Obj :=
  { dev := slotZero.loc.dev, index := 0, gen := 1, rank := 0x100, kind := 2, state := 0, param := 0, value := BitVec.ofNat 64 n
    owed := owed, scope := 0x01FFF000FFFF0000, waiters := [], rounds := 0, mail := [], queue := none }

/-- The state with an object at home. -/
def homing (o : Obj) (s : State) : State := { s with signals := { s.signals with objects := [o] } }

/-- A launch header: kernel 0 of object 2, one field of four items, clusters 0 to 0, and a completion object. -/
def launchHdrOf (compl : Word) : BitVec 512 :=
  BitVec.ofNat 512 (2 * 2 ^ 128 + 2 * 2 ^ 320 + 2 ^ 356 + 3 * 2 ^ 384 + compl.toNat * 2 ^ 448)

/-- One that completes to the counter. -/
def launchHdr : BitVec 512 := launchHdrOf (counter 0 0).handle

/-- An accepted launch. -/
def launch1 : Launch :=
  { id := 0, hdr := launchHdr, lref := 7, kslots := 1, prio := 1, accepted := 0, order := 0, next := 0, total := 4, xroot := 0
    entry := 0 }

theorem witness_LaunchesReachTheirCores :
    let s := homing (counter 0 0) (loaded false slotZero)
    let t := ev .placementDecision { s with engine := { s.engine with launches := [launch1] } }
    let m : Msg := .launchMessage launchHdr (.host 9) 0 0 0 none
    (ev m s).event = some m ∧ homeHere s (hdrCompl launchHdr) = true ∧ launchRefusal s launchHdr (.host 9) 0 0 = none
    ∧ launchRefusal s 0 (.host 9) 0 0 ≠ none ∧ homeHere s (hdrCompl 0) = true
    ∧ objOf s (hdrCompl launchHdr) = some (counter 0 0)
    ∧ t.engine.launches = [launch1] ∧ unitOf t launch1 = some (0, 0) ∧ queueOpen t 0 0 = true
    ∧ item.cluster = slotZero.loc.cluster ∧ item.core = slotZero.loc.core ∧ slotZero.core.itemQ.length < 16
    ∧ launchCtxOf slotZero item.lref = none ∧ (slotZero.at 0).idle = false ∧ spilling slotZero = false
    ∧ slotZero.core.events.length < 16 ∧ slotZero.core.sys.saveb = 0
    ∧ (saveAddr helper (0x5900 + 16 * helper.core.events.length)).isSome = true ∧ ((slotZero.mod fun c => { c with idle := true }).at 0).idle = true := by
  decide +kernel

/-- A launch whose COMPL is homed on device 9, and its place while that home answers. -/
theorem witness_LaunchesReachTheirCores_away :
    let hdr := launchHdrOf { counter 0 0 with dev := 9 }.handle
    let s := loaded false slotZero
    let a : Asking := { id := 1, hdr := hdr, src := .host 9, token := 0, xroot := 0, slots := 1, entry := 0, place := true }
    homeHere s (hdrCompl hdr) = false ∧ headerRefusal s hdr (.host 9) 0 0 = none ∧ (kernelOf s hdr).isSome = true
    ∧ ({ s with engine := { s.engine with asking := [a] } }).engine.asking = [a] ∧ a.src = .host 9 ∧ a.place = true := by
  decide +kernel

/-! Hypotheses met: signals, answers, messages, upcalls, results. -/

/-- An object like the counter, of another kind. -/
def object (kind : BitVec 4) (state : BitVec 8) (value : Word) (owed : BitVec 32) : Obj :=
  { counter 0 owed with kind := kind, state := state, value := value, param := 5 }

/-- Its handle. -/
def objH : Word := (counter 0 0).handle

theorem witness_WaitsAndDischargesMeet :
    let sel := selfId slotZero 1
    let w := ev (.waitRequest objH .wait (.ctx sel))
    let d (k : OblKind) := ev (.discharge objH k .ok (.ctx sel))
    let one := { counter 1 2 with waiters := [{ who := .ctx sel, op := .wait }] }
    homeHere helper objH = true ∧ (w helper).event = some (.waitRequest objH .wait (.ctx sel)) ∧ objOf helper objH = none
    ∧ objOf (homing (counter 3 0) helper) objH = some (counter 3 0) ∧ inScope (counter 3 0) (.ctx sel) = true
    ∧ (counter 3 0).queue = none ∧ (counter 3 0).holdsCond (homing (counter 3 0) helper) = false ∧ (counter 3 0).owed = 0
    ∧ (counter 3 1).holdsCond (homing (counter 3 1) helper) = false ∧ (counter 3 1).owed ≠ 0
    ∧ (object 1 1 0 0).isSet = true ∧ 0 < (object 3 0 2 0).count
    ∧ objOf (homing (object 3 0 2 0) helper) objH = some (object 3 0 2 0) ∧ inScope (object 3 0 2 0) (.ctx sel) = true
    ∧ (d .signal helper).event = some (.discharge objH .signal .ok (.ctx sel))
    ∧ (counter 3 1).waiters = [] ∧ kindObl (counter 3 1).kind = .signal ∧ 1 ≤ (counter 3 1).count
    ∧ kindObl (object 1 0 0 1).kind = .signal ∧ kindObl (object 3 0 0 1).kind = .release
    ∧ kindObl (object 4 1 0 1).kind = .release
    ∧ objOf (homing one helper) objH = some one ∧ one.count = 1 ∧ 1 < one.owed.toNat := by decide +kernel

theorem witness_HomesServeTheirObjects :
    let sel := selfId slotZero 1
    let one := { counter 1 2 with waiters := [{ who := .ctx sel, op := .wait }] }
    let x : HostObl := { dev := 9, h := objH, kind := .signal, mult := 2 }
    let s := homing (counter 3 1) helper
    homeHere s objH = true ∧ objOf s objH = some (counter 3 1) ∧ inScope (counter 3 1) (.ctx sel) = true
    ∧ (counter 3 0).owed = 0 ∧ (counter 3 0).waiters = [] ∧ (counter 3 1).owed ≠ 0 ∧ (counter 3 1).mayOwe = true
    ∧ (object 4 0 0 0).mayOwe = false ∧ (ev (.homeOperation (.oqry objH 3) (.ctx sel)) s).event
      = some (.homeOperation (.oqry objH 3) (.ctx sel))
    ∧ inScope { counter 3 1 with scope := 2 } (.ctx sel) = false
    ∧ (ev (.cancel objH sel 4) (homing one helper)).event = some (.cancel objH sel 4)
    ∧ one.waiters = [{ who := .ctx sel, op := .wait }]
    ∧ kindObl (counter 3 1).kind = .signal ∧ s.signals.hosts = []
    ∧ ({ s with signals := { s.signals with hosts := [x] } }).signals.hosts = [x] ∧ x.dev = 9 := by decide +kernel

/-- A wait of the helper's that its answer ends. -/
def asked (h : Word) : Asked := { h := h, d := some 5, op := none, kind := none, reserved := false }

theorem witness_AnswersAndWakesArrive :
    let b := helper.modAct 1 fun a => { a with blocked := some (asked 1) }
    let w := helper.modAct 1 fun a => { a with wait := some (asked 1) }
    let p := w.modCore fun c => { c with preempted := true }
    let sel := selfId slotZero 1
    (b.at 1).framed = false ∧ (b.at 1).act.blocked = some (asked 1) ∧ (b.at 1).frame = none ∧ (asked 1).d = some 5
    ∧ (asked 1).reserved = false ∧ (asked 1).kind = none ∧ (asked 1).op = none
    ∧ (ev (.homeAnswer (.done 7 none none) sel) b).event = some (.homeAnswer (.done 7 none none) sel)
    ∧ (ev (.homeAnswer .queued sel) b).event = some (.homeAnswer .queued sel) ∧ rankOf (asked 1).h < minHeld b 1
    ∧ (ev (.homeAnswer (.fault 9 4 false) sel) b).event = some (.homeAnswer (.fault 9 4 false) sel) ∧ (9 : BitVec 8) ≠ 22 ∧ (9 : BitVec 8) ≠ 2
    ∧ (ev (.wake 7 none none sel) w).event = some (.wake 7 none none sel) ∧ spilling w = false
    ∧ (w.at 1).act.wait = some (asked 1) ∧ (w.at 1).heldFrom = none
    ∧ spilling p = true ∧ (p.at 1).heldFrom = none
    ∧ (toSpill p (.msg (.wake 7 none none sel))).core.machineCheck = false := by decide +kernel

theorem witness_MessagesAndUpcallsReachTheCore :
    let o : Obl := { h := objH, kind := .signal, owner := 1, mult := 1, order := 0 }
    let e : Event := { cause := 0x40, tval := 3 }
    let s := helper
    let r := s.modCore fun c => { c with spilled := [o] }
    let z := s.setAt 1 (Ctx.reset .h .free)
    let y := s.modCore fun c => { c with spill := [.event e] }
    let idle := (s.modCore fun c => { c with cur := 0 }).mod fun c => { c with idle := true }
    spilling s = false ∧ s.core.spilled = [] ∧ s.core.reeve.length < 256 ∧ (s.at 1).slotState ≠ .free
    ∧ (s.at 1).act.wait = none ∧ (z.at 1).slotState = .free ∧ (z.at 0).act.wait = none ∧ z.core.events.length < 16
    ∧ r.core.spilled = [o] ∧ o.owner.toNat = (1 : Fin 11).val ∧ refilling r 1 = true ∧ r.core.reeve.length < 256
    ∧ (owedAddr r 1 0).any (fun pa => !eccBad r pa 16) = true
    ∧ s.core.contQ.length < 16 ∧ (idle.at 0).idle = true ∧ spilling idle = false
    ∧ s.core.preempted = false ∧ y.core.spill = [.event e] ∧ (keepEvent (dropSpill y) e).core.machineCheck = false
    ∧ slotZero.core.sys.saveb = 0 ∧ (saveAddr s (0x5900 + 16 * s.core.events.length)).isSome = true := by
  decide +kernel

theorem witness_MessagesAndUpcallsReachTheCore_upcall :
    let e : Event := { cause := 0x40, tval := 3 }
    let p := helper.setAt 0 { helper.at 0 with upcall := { (helper.at 0).upcall with pend := 1 } }
    let q := helper.modCore fun c => { c with events := [e] }
    let w := slotZero.modCore fun c => { c with events := [e] }
    upcallDue p = true ∧ (p.at 0).frame = none ∧ helperSlots.find? (fun j => maskBit (p.at 0).upcall.pend j) = some 1
    ∧ (saveAddr p (0x800 * 1 + 0x5B8) .read).any (fun pa => !eccBad p pa 16) = true
    ∧ upcallDue q = true ∧ (q.at 0).frame = none ∧ (q.at 0).upcall.pend = 0 ∧ q.core.events = [e] ∧ q.core.sys.saveb ≠ 0
    ∧ (saveAddr q 0x5900 .read).any (fun pa => !eccBad q pa 16) = true ∧ (saveAddr q 0x5900).isSome = true
    ∧ upcallDue w = true ∧ (w.at 0).upcall.pend = 0 ∧ w.core.events = [e] ∧ w.core.sys.saveb = 0 := by
  decide +kernel

theorem witness_ResultsComeBack :
    let r : Result :=
      { who := selfId slotZero 1, cls := 1, num := 5, value := 7, cause := 0, ea := 0, token := false, flags := 0, pair := none }
    let r' := { r with token := true, job := some 5 }
    let a (pa : Nat) : Access :=
      { who := selfId slotZero 1, seq := 1, after := 0, kind := .store, ea := 0, pa := pa, size := 8, data := 3, cmp := 0
        dst := .g 0 false, layout := 0, lease := 0, mode := 0, seed := 0 }
    let l : Llk := { ea := 0x0100000000000008, pa := 0x20000000008, size := 8, issued := 0, stalled := 0, closing := false }
    let s := helper
    let other := s.modCluster fun c => { c with locks := [(((lockKeys 0x20000000000 8).headD 0), selfId slotZero 2)] }
    Memory.wf s.mem = true ∧ r.who = selfId s 1 ∧ (s.at 1).framed = false
    ∧ (ev (.resultArrival r) s).event = some (.resultArrival r) ∧ r.job = none ∧ r.token = false ∧ r.flags = 0 ∧ r.pair = none
    ∧ r.cause = 0 ∧ r.cls = 1
    ∧ homeStep other (a 0x20000000000) = (other, .refused)
    ∧ (a 0x20000000000).kind = .store ∧ isSystemSpace 0x20000000000 = false ∧ s.hw.leases = []
    ∧ physExists s 0x20000000000 = true ∧ lockRefuses s 0x20000000000 8 (selfId slotZero 1) = false
    ∧ eccBad s 0x20000000000 8 = false
    ∧ r'.who = selfId s 1 ∧ r'.job = some 5 ∧ s.cluster.remote = [] ∧ s.cluster.jobs = []
    ∧ ((s.setAt 1 { s.at 1 with llk := some l }).at 1).llk = some l := by decide +kernel

/-! Hypotheses met: replicas, hosts, Millrace, pages, leases. -/

theorem witness_ReplicasAndHostsAccess :
    let a : Access :=
      { who := selfId slotZero 1, seq := 1, after := 0, kind := .mst, ea := 0x1000000000000008, pa := 8, size := 8, data := 3
        cmp := 0, dst := .none, layout := 2, lease := 0, mode := 0, seed := 0 }
    let h (k : AccKind) (pa : Word) : HostAcc := { dev := 9, tag := 1, kind := k, pa := pa, size := 8, data := 5, cmp := 0 }
    let s := ev (.mstApply a 3 0 0) slotZero
    Memory.wf s.mem = true ∧ s.event = some (.mstApply a 3 0 0) ∧ (3 : BitVec 8).getLsbD (0 : BitVec 3).toNat = true
    ∧ physExists s (replicaPlace a.pa 0) = true ∧ eccBad s (replicaPlace a.pa 0) 8 = false
    ∧ physExists s (replicaPlace a.pa 1) = true ∧ BitVec.ofNat 3 (dieOfPlace a.pa) = 0
    ∧ (h .load 0x20000000001).pa.toNat / 2 ^ 52 = slotZero.loc.dev.toNat ∧ (h .load 0x20000000001).pa.toNat % 8 ≠ 0
    ∧ isSystemSpace 0x20000000008 = false ∧ belowAnyBound slotZero 0x20000000008 = false ∧ slotZero.hw.leases = []
    ∧ slotZero.hw.control.leaving < 8
    ∧ engineRefused slotZero (hostPort 9) (hostKeys (h .load 0x20000000008)) = false
    ∧ engineRefused slotZero (hostPort 9) (hostKeys (h .store 0x20000000008)) = false
    ∧ 8 ≤ ({ slotZero.hw.control with leaving := 8 }).leaving
    ∧ physExists slotZero 0x20000000008 = true ∧ eccBad slotZero 0x20000000008 8 = false
    ∧ lockRefuses slotZero 0x20000000008 8 (15#4 ++ (9 : BitVec 12) ++ 0#20) = false := by decide +kernel

/-- A stage record of a kind, with its marks and its PARAM0. -/
def stage (kind lo hi p0 : Nat) : BitVec 192 := BitVec.ofNat 192 (kind + lo * 2 ^ 76 + hi * 2 ^ 88 + p0 * 2 ^ 128)

/-- A SEM of the stage queue. -/
def semObj (index : BitVec 24) (space : Bool) (n : Word) : Obj :=
  { object 3 0 n 1 with index := index, queue := some (0, space) }

/-- A stage queue of two places, both free. -/
def stq (id : Nat) (index : BitVec 24) (n : Word) : StageQueue :=
  { id := id, data := (semObj index false n).handle, space := (semObj (index + 1) true 2).handle, depth := 2, t := 0, h := 0
    ring := List.replicate 2 { count := 0, holder := none, consumer := none, filled := false, free := true, code := none }
    base := 0x0300000000300000, stage := 1 }

/-- An instance of a stream with one consumer. -/
def streaming (c : Consumer) : Instance' :=
  { id := 0, stages := [], entries := [], domain := 0, xroot := 0, units := [0], segs := 4, rows := 1, lap := 0, seg := 1
    gateOpen := true, gateAt := 0, deadline := 10, reading := false, stopped := false, owner := 0, pages := []
    consumers := [c] }

/-- A consumer in a state. -/
def consumer (st : ConsState) : Consumer :=
  { place := 2, bind := 0, state := st, seg := 1, image := none, imageSeg := 0, mode := 0, seed := 0, cur := none
    curStaged := false, waitEntry := none
    flags := 0, failCode := none, misses := 0, missLap := 0, missSeg := 0, got := 0, first := none, laps := 0, lapsDue := 0
    owing := 0 }

/-- A binding of it with stage records. -/
def binding (desc : List (BitVec 192)) (queues : List (Nat × Nat)) (units : List BoundUnit) : Binding :=
  { id := 0, gen := 1, inst := 0, place := 2, pos := 0, binder := selfId slotZero 0, bindObj := objH, endObj := objH
    hasEnd := false, queues := queues, fresh := [], desc := desc, units := units, jobs := [], pages := [], base := 0 }

/-- Millrace with an instance and a binding. -/
def milling (i : Instance') (b : Binding) (s : State) : State :=
  { s with mill := { s.mill with insts := [i], binds := [b] } }

/-- The handle of that binding. -/
def pipeH : Word := BitVec.ofNat 64 (slotZero.loc.dev.toNat * 2 ^ 52 + 2 ^ 39 + 2 * 2 ^ 35)

theorem witness_MillraceAnswersAndGoverns :
    let i := streaming (consumer .active)
    let b := binding [] [] []
    let s := milling i b slotZero
    let q (p : Word) : Word := pipeH + p * 2 ^ 47
    let u (k : Nat) (n : W32) : BoundUnit := { stage := k, core := n, own := n == 0, moved := none }
    let three := binding [stage 3 0 1 1, stage 3 0 1 2, stage 3 0 1 1] [(1, 0), (2, 1)] [u 0 0, u 1 128, u 1 256, u 2 384]
    let failed : PipeSnap := { fail := some (1, 9), hdr := 0, stages := [], entries := [], level := .h, units := [] }
    let g0 := milling i three slotZero
    let g := { g0 with signals := { g0.signals with
      queues := [stq 0 0 0, stq 1 2 1], objects := [semObj 0 false 0, semObj 2 false 1] } }
    failed.fail = some (1, 9) ∧ (s.at 1).framed = false
    ∧ bindingOf s 0 = none ∧ bindingOf s pipeH = some b ∧ instOf s b.inst = some i ∧ pipeH.toNat / 2 ^ 47 % 32 = 0
    ∧ (q 16).toNat / 2 ^ 47 % 32 < 17 ∧ (q 1).toNat / 2 ^ 47 % 32 ≠ 0 ∧ holds s 1 b.bindObj .release = false
    ∧ g.mill.binds = [three] ∧ coreStages three = [1, 2] ∧ stageLoad g three 2 = some (1, 1, 0)
    ∧ stageLoad g three 1 = some (0, 1, 0) ∧ donorUnit three (g.mill.samples + 1) 1 = some (u 1 128)
    ∧ granGroup three 1 (u 1 128) (u 1 256) = false := by decide +kernel

/-- The records of a weight stream and a bank stage. -/
def dot : List (BitVec 192) := [stage 1 0 1 1, stage 2 0 1 0x28]

/-- A pipeline of one core stage, read at issue, with its objects live at home. -/
theorem witness_MillraceAnswersAndGoverns_bind :
    let sem := semObj 0 false 1
    let ends := { object 1 0 0 1 with index := 4 }
    let s := { slotZero with signals := { slotZero.signals with objects := [{ sem with queue := none }, ends] } }
    let p : PipeSnap :=
      { fail := none, hdr := BitVec.ofNat 512 (sem.handle.toNat * 2 ^ 384 + ends.handle.toNat * 2 ^ 448)
        stages := [stage 3 0 1 1], entries := [0], level := .c, units := [0] }
    let none' := { s with signals := { s.signals with objects := [{ sem with queue := none, value := 0 }, ends] } }
    p.fail = none ∧ s.mill.asking = none ∧ (s.at 1).act.wait = none ∧ homeHere none' (pipeBind p) = true
    ∧ (objOf none' (pipeBind p)).any (fun o => o.kind == 3 && o.queue == none && o.count == 0) = true
    ∧ stKind (stage 3 0 1 1) = 3 ∧ s.core.spilled = [] ∧ s.core.reeve.length < 255
    ∧ homeHere s (pipeBind p) = true ∧ homeHere s (pipeEnd p) = true
    ∧ (objOf s (pipeBind p)).any (fun o => o.kind == 3 && o.queue == none && decide (0 < o.count)) = true
    ∧ (objOf s (pipeEnd p)).any (fun x => x.kind == 1 && x.queue == none) = true := by decide +kernel

theorem enqueue_ready (s : State) (b : Binding) (id : Nat) (bs : List Byte) (code : Option (BitVec 28)) (q : StageQueue)
    (o : Obj) (h : queueOf s id = some q) (r : q.ready true = true) (e : semOf s q true = some o) :
    (enqueueFor s b id bs code).isSome = true := by
  simp [enqueueFor, h, r, e]

theorem witness_StreamsServeTheirConsumers :
    let at' (c : Consumer) (desc : List (BitVec 192)) : State :=
      milling (streaming c) (binding desc [(2, 0)] []) slotZero
    let closed := { streaming (consumer .gated) with gateOpen := false }
    let waiting := milling closed (binding dot [(2, 0)] []) { slotZero with clock := { slotZero.clock with ref := 100 } }
    instOf (at' (consumer .idle) []) 0 = some (streaming (consumer .idle)) ∧ (streaming (consumer .idle)).segs ≠ 0
    ∧ (streaming (consumer .idle)).stopped = false ∧ (streaming (consumer .gated)).reading = false
    ∧ (streaming (consumer .gated)).gateOpen = true
    ∧ consReady (at' (consumer .gated) []) (streaming (consumer .gated)) 1 (consumer .gated) = true
    ∧ consReady (at' (consumer .gated) dot) (streaming (consumer .gated)) 1 (consumer .gated) = false
    ∧ instOf waiting 0 = some closed ∧ closed.gateAt + (closed.deadline * 25 + 15) / 16 ≤ waiting.clock.ref
    ∧ consReady waiting closed 1 (consumer .gated) = false ∧ 1 ≤ (streaming (consumer .gated)).deadline
    ∧ ((at' (consumer .active) []).mill.binds.find? fun x => x.inst == 0 && x.place == 2) = some (binding [] [(2, 0)] [])
    ∧ bankStage (binding [] [(2, 0)] []) = none := by decide +kernel

/-- The stream's consumer holds an entry for a full queue that has a place again. -/
def queueing : State :=
  let s := milling (streaming { consumer .active with waitEntry := some (List.replicate 64 1) })
    (binding dot [(2, 0)] []) slotZero
  { s with signals := { s.signals with queues := [stq 0 0 0], objects := [semObj 0 false 0, semObj 1 true 2] } }

theorem witness_StreamsServeTheirConsumers_binding :
    (queueing.mill.binds.find? fun x => x.inst == 0 && x.place == 2) = some (binding dot [(2, 0)] [])
    ∧ ({ consumer .active with waitEntry := some (List.replicate 64 1) }).owing = 0 ∧ dot.map stKind = [1, 2] ∧ ((bankIndex (binding dot [(2, 0)] [])).bind fun k => assoc (k + 1) [(2, 0)]) = some 0 := by
  decide +kernel

theorem witness_StreamsServeTheirConsumers_entry :
    queueOf queueing 0 = some (stq 0 0 0) ∧ (stq 0 0 0).ready true = true
    ∧ semOf queueing (stq 0 0 0) true = some (semObj 1 true 2) := by decide +kernel

theorem witness_PagesWalkMoveAndExpire :
    let t := poke 0x20000000000 8 (2 ^ 41 + 1) slotZero
    let root : Word := 0x20000000001
    let scope : Word := 0x01FFF000FFFF0000
    let va : Word := 0x80000
    let away (o : Bool) : MigPage :=
      { va := va, pte := 0x20000000008, dev := 0, host := 0x20000010000, onDevice := o, remote := false, pinned := false
        moves := [] }
    let m := { slotZero with hw := { slotZero.hw with mig := [away false] } }
    let q := (away false).withPlace true 0x20000020000
    let other : Msg := .migrationRequest va (.host 9) 0x20000000008 0
    root.getLsbD 0 = true ∧ tlbFind 0 0 t.core.tlb1 = none ∧ tlbFind 0 0 t.cluster.tlb2 = none
    ∧ walk t 0 3 1 (rootOf root) = some (2 ^ 41 + 1, false) ∧ t.core.tlb1.length < 64
    ∧ walk slotZero 0 3 1 (rootOf root) = none ∧ scopeHolds scope slotZero.loc.dev (selfId slotZero 0) = true
    ∧ spilling slotZero = false ∧ slotZero.core.events.length < 16
    ∧ va.toNat / 2 ^ 16 % 2 ^ 3 = m.loc.die.toNat ∧ Memory.wf m.mem = true
    ∧ migPage m va 0x20000000008 = away false ∧ m.agenda.find? (opposes va 0x20000000008 (.ctx (selfId m 1))) = none
    ∧ (away false).onDevice = false ∧ (away false).pinned = false
    ∧ ((away false).recent m.clock.ref).length + 1 ≤ m.hw.control.migmax.toNat ∧ (migCopy m q true).isSome = true
    ∧ q.pte ≠ 0 ∧ ({ m with agenda := [other] }).agenda = [other]
    ∧ (5 : BitVec 8) ≠ 0 ∧ (m.hw.mig.find? fun q => q.is va 0x20000000008) = some (away false)
    ∧ slotZero.core.sys.saveb = 0 := by decide +kernel

/-- A lease of one GiB from this device, in a state. -/
def lease (st copied : Nat) : Lease :=
  { record := BitVec.ofNat 512 (5 * 2 ^ 280 + slotZero.loc.dev.toNat * 2 ^ 292 + st * 2 ^ 316 + 2 ^ 320 + 2 ^ 336
      + 0x100000000 * 2 ^ 448)
    copied := copied, failed := [], reached := false, bitmap := 0x20000040000 }

theorem witness_LeasesDemoteTheirPages :
    let s (st copied : Nat) := { slotZero with hw := { slotZero.hw with leases := [lease st copied] } }
    ({ record := (lease 0 0).record, copied := 0, failed := [], reached := false, bitmap := 0 } : Lease).fld 316 4 < 3 ∧ (lease 0 0).id ≠ 0
    ∧ leaseOf (s 0 0) 0 5 = some (lease 0 0) ∧ (lease 0 0).fld 316 4 = 0 ∧ slotZero.loc.dev = 0
    ∧ leaseOf (s 1 0) 0 5 = some (lease 1 0) ∧ (lease 1 0).fld 316 4 = 1 ∧ physExists (s 1 0) ((lease 1 0).fld 384 64) = true
    ∧ physExists (s 1 0) ((lease 1 0).fld 448 64) = true ∧ eccBad (s 1 0) ((lease 1 0).fld 384 64) 65536 = false
    ∧ 0 + 1 < (lease 1 0).pages
    ∧ leaseOf (s 1 16383) 0 5 = some (lease 1 16383) ∧ (lease 1 16383).pages ≤ 16383 + 1
    ∧ physExists (s 1 0) ((lease 1 0).fld 448 64 + 65536 * 16383) = true ∧ (lease 1 16383).failed = []
    ∧ leaseOf (s 2 0) 0 5 = some (lease 2 0) ∧ (lease 2 0).fld 316 4 = 2 ∧ (lease 2 0).fld 316 4 ≠ 3
    ∧ eccBad { s 1 0 with badEcc := [(lease 1 0).fld 384 64 / 4] } ((lease 1 0).fld 384 64) 65536 = true
    ∧ eccBad { s 1 16383 with badEcc := [((lease 1 0).fld 384 64 + 65536 * 16383) / 4] }
      ((lease 1 0).fld 384 64 + 65536 * 16383) 65536 = true
    ∧ (s 0 0).core.sys.saveb = 0 ∧ spilling (s 0 0) = false ∧ (s 0 0).core.events.length < 16
    ∧ spilling (s 1 16383) = false ∧ (s 1 16383).core.events.length < 16 ∧ (s 1 16383).core.sys.saveb = 0
    ∧ ({ lease 1 16383 with bitmap := 0 }).bitmap = 0
    ∧ upHere (s 0 0) 0 = true ∧ upHere (s 0 0) 1 = false ∧ BitVec.ofNat 32 ((lease 0 0).fld 224 32) = 0
    ∧ leaseOf (s 1 0) 0 5 = some (lease 1 0) ∧ (lease 1 0).bitmap ≠ 0 ∧ Memory.wf slotZero.mem = true := by decide +kernel

/-! Hypotheses met: ports, Bell, core messages, fences, firmware. -/

/-- A port in a state. -/
def port (st : PortState) (spdm : Nat) (s : State) : State := setPort s 3 { portAt s 3 with state := st, spdm := spdm }

theorem witness_PortsFollowTheirStates :
    let f (vc : BitVec 3) (crc : BitVec 24) : Flit := { seq := 0, vc := vc, payload := 0, crc := crc, tag := none }
    let sent := setPort slotZero 3 { portAt slotZero 3 with replay := [f 7 0] }
    let trained := setPort slotZero 3 { portAt slotZero 3 with trained := true }
    let closing := setPort slotZero 3 { portAt slotZero 3 with trained := true, spdm := 8 }
    let batched := setPort slotZero 3 { portAt slotZero 3 with state := .run, batch := [f 1 0] }
    let again := setPort slotZero 3 { portAt slotZero 3 with state := .locked, replays := 8, replaySeq := 5 }
    let full := setPort slotZero 3 { portAt slotZero 3 with replay := List.replicate 1023 (f 7 0) }
    (portAt slotZero 3).state = .unlocked ∧ (portAt slotZero 3).rxSeq = 0 ∧ (f 7 0).vc = 7 ∧ (f 1 0).vc ≠ 7 ∧ (f 7 0).seq = 0
    ∧ (portAt (port .unlocked 9 slotZero) 3).spdm = 9 ∧ (portAt slotZero 3).spdm ≠ 9
    ∧ (portAt (port .locked 9 slotZero) 3).state = .locked ∧ slotZero.hw.control.recovery = false
    ∧ (portAt (port .run 9 slotZero) 3).state = .run ∧ (portAt (port .error 9 slotZero) 3).state = .error
    ∧ (portAt trained 3).trained = true ∧ (portAt trained 3).state = .unlocked ∧ slotZero.hw.control.seedErased = false
    ∧ (portAt trained 3).spdm = 0 ∧ (portAt slotZero 3).replay.length < 1023
    ∧ (portAt sent 3).replay = [] ++ f 7 0 :: [] ∧ (portAt (port .locked 9 slotZero) 3).txBatch = []
    ∧ (portAt (port .locked 9 slotZero) 3).batch = [] ∧ (portAt batched 3).batch ≠ [] ∧ (portAt batched 3).state = .run
    ∧ (portAt again 3).state = .locked ∧ 8 ≤ (portAt again 3).replays ∧ (portAt again 3).replaySeq = 5
    ∧ (portAt full 3).state = .unlocked ∧ 1023 ≤ (portAt full 3).replay.length
    ∧ 1 ≤ ((1 : BitVec 16) - (portAt slotZero 3).rxSeq).toNat ∧ 2 ^ 15 ≤ ((0xFFFF : BitVec 16) - (portAt slotZero 3).rxSeq).toNat
    ∧ (portAt trained 3).spdm = 0 ∧ (portAt closing 3).spdm = 8 := by decide +kernel

/-- No flit is out, and a class has a credit. -/
theorem witness_PortsFollowTheirStates_credit :
    ((portAt slotZero 3).replay.filter fun g => g.vc == 7).length ≤ Config.classCredits 7 := Nat.zero_le _

theorem witness_PortsFollowTheirStates_crc : ∃ f g : Flit, f.seq = 0 ∧ f.vc = 7 ∧ f.crc = Config.crc24 f.payload f.seq f.vc
    ∧ g.vc = 7 ∧ g.crc ≠ Config.crc24 g.payload g.seq g.vc
    ∧ ∃ h : Flit, h.seq = 0xFFFF ∧ h.vc = 7 ∧ h.crc = Config.crc24 h.payload h.seq h.vc :=
  ⟨{ seq := 0, vc := 7, payload := 0, crc := Config.crc24 0 0 7, tag := none },
    { seq := 0, vc := 7, payload := 0, crc := ~~~ Config.crc24 0 0 7, tag := none },
    rfl, rfl, rfl, rfl, by simp,
    { seq := 0xFFFF, vc := 7, payload := 0, crc := Config.crc24 0 0xFFFF 7, tag := none }, rfl, rfl, rfl⟩

theorem witness_BellKeepsTheCeiling :
    let b := slotZero.bell
    let s := { slotZero with bell := { b with state := 2, due := [(30, 0)], members := [(9, 0)] } }
    let m := member 1 1 slotZero
    let l := { m with bell := { m.bell with members := [(m.loc.dev, 0)] } }
    s.bell.due = [(30, 0)] ∧ 0 ≤ s.clock.ref / 1250 ∧ s.bell.breached = false ∧ s.bell.joining = [] ∧ s.bell.leaving = []
    ∧ s.bell.state = 2 ∧ (∀ x ∈ s.bell.members, x.2 < 3) ∧ s.clock.n ≠ (30 : BitVec 6).toNat
    ∧ isLeader l = true ∧ l.bell.members = [(l.loc.dev, 0)] ∧ l.bell.joining = [] ∧ l.bell.due = []
    ∧ ({ l.bell with carried := 20 }).carried ≠ l.bell.ceil ∧ slotZero.core.settle ≤ slotZero.clock.ref
    ∧ 20 ≤ (20 : BitVec 6).toNat ∧ (40 : BitVec 6).toNat ≤ 40 ∧ isMember s = true
    ∧ b.joining = [] ∧ b.state = 0 ∧ b.leaving = [] ∧ slotZero.clock.locked = true
    ∧ ({ slotZero.clock with locked := false }).locked = false ∧ s.bell.state ≠ 0 ∧ (20 : BitVec 6).toNat < s.bell.ceil.toNat := by
  decide +kernel

theorem witness_CoreMessagesStopAndResume :
    let s := helper
    let trapped := s.setAt 1 { s.at 1 with slotState := .trapped }
    let debugged := trapped.setAt 1 { trapped.at 1 with debugged := true }
    let held := s.setAt 1 { s.at 1 with slotState := .held, heldFrom := some .trapped }
    let pre := s.modCore fun c => { c with preempted := true }
    let stop := s.modCore fun c => { c with stopped := true }
    let checked := s.modCore fun c => { c with stopped := true, machineCheck := true }
    let fenced := setFence checked (.core (myCore s)) 2
    (∀ j : Fin 11, (s.at j).xch.inph = false ∧ (s.at j).act.blocked = none ∧ (s.at j).llk = none)
    ∧ ((writeFrames s slots).bind (fun t => writeHeader t true)).isSome = true ∧ slotZero.core.sys.saveb = 0
    ∧ pre.core.preempted = true ∧ pre.core.stopped = false ∧ pre.core.machineCheck = false ∧ pre.core.spill = []
    ∧ (∀ j : Fin 11, (pre.at j).framed = false) ∧ (saveRead pre 0x5800 256).isSome = true
    ∧ stop.core.stopped = true ∧ stop.core.spill = [] ∧ (∀ j : Fin 11, (stop.at j).framed = false)
    ∧ (debugged.at 1).debugged = true ∧ (debugged.at 1).slotState = .trapped ∧ (readFrame debugged 1).isSome = true
    ∧ (trapped.at 1).heldFrom = none ∧ (trapped.at 1).act.blocked = none
    ∧ (s.at 1).slotState = .ready ∧ (s.at 1).act.wait = none ∧ (writeFrame s 1).isSome = true
    ∧ (held.at 1).slotState = .held ∧ (held.at 1).heldFrom = some .trapped ∧ oblsOf held 1 = [] ∧ spillOwes held 1 = false
    ∧ checked.core.machineCheck = true ∧ (fenceOf checked (.core (myCore checked))).state.toNat < 2
    ∧ (fenceOf checked (.cluster (myCluster checked))).state.toNat < 2 ∧ stop.core.machineCheck = false
    ∧ fenced.core.machineCheck = true ∧ fenced.core.stopped = true ∧ fenced.hw.control.recovery = false
    ∧ 2 ≤ (fenceOf fenced (.core (myCore fenced))).state.toNat ∧ fenced.core.spill = []
    ∧ (s.at 1).framed = false ∧ (s.at 1).xch.inph = false := by decide +kernel

/-- A unit in a fence state. -/
def fencing (u : FenceUnit) (st : BitVec 2) (s : State) : State := setFence s u st

theorem witness_UnitsFenceAndRepair :
    let me := myCore slotZero
    let bad := { slotZero with badEcc := [0x20000000000 / 4] }
    let seven := [1, 2, 3, 4, 5, 6, 7].foldl (fun s k => setFence s (.core (8 * 5 + k)) 1) slotZero
    let free := (fencing (.core me) 1 helper).setAt 1 { helper.at 1 with slotState := .held, heldFrom := some .ready }
    let owes := free.modCore fun c => { c with reeve := [{ h := objH, kind := .signal, owner := 1, mult := 2, order := 0 }] }
    let out := { slotZero with hw := { slotZero.hw with control := { slotZero.hw.control with spares := [(0, 8)] } } }
    let gone := setFence out (.cluster 5) 2
    let locked := slotZero.modCluster fun c => { c with locks := [((lockKeys 0x20000000000 4).headD 0, selfId slotZero 2)] }
    (fenceOf slotZero (.core 9)).state = 0 ∧ (fenceOf (fencing (.core me) 1 slotZero) (.core me)).state = 1
    ∧ coreDrained (fencing (.core me) 1 slotZero) = true ∧ coreDrained (fencing (.core me) 1 helper) = false
    ∧ (fenceOf (fencing (.channel 3) 1 slotZero) (.channel 3)).state = 1
    ∧ (fenceOf (fencing (.channel 3) 2 slotZero) (.channel 3)).state = 2
    ∧ (fenceOf (fencing (.cluster 5) 2 slotZero) (.cluster 5)).state = 2 ∧ 5 ≠ myCluster slotZero
    ∧ (assoc (BitVec.ofNat 3 (5 / 128)) slotZero.hw.control.spares).getD 0 < 8 ∧ slotZero.hw.control.leaving = 0
    ∧ (0x20000000000 : Word).toNat % 64 = 0 ∧ eccBad slotZero 0x20000000000 8 = false ∧ eccBad bad 0x20000000000 8 = true
    ∧ bad.hw.log.length < 4096
    ∧ (fenceOf slotZero (.core 40)).state = 0 ∧ (fenceOf seven (.core 40)).state = 0 ∧ (fenceOf seven (.cluster 5)).state = 0
    ∧ (∀ k : Fin 8, 8 * (40 / 8) + k.val ≠ 40 → (fenceOf seven (.core (8 * (40 / 8) + k.val))).state ≠ 0)
    ∧ 2 ≤ (fenceOf (fencing (.channel 3) 2 slotZero) (.channel 3)).state.toNat ∧ unitDie (.channel 3) = slotZero.loc.die.toNat
    ∧ (helper.at 1).slotState = .ready ∧ (helper.at 1).heldFrom = none ∧ helper.core.preempted = false
    ∧ helper.core.stopped = false ∧ allHeld owes = true ∧ (owes.at 1).slotState = .held ∧ (oblsOf owes 1).length = 1
    ∧ (fenceOf owes (.core me)).state = 1 ∧ (fenceOf (fencing (.core me) 2 slotZero) (.core me)).state = 2
    ∧ (fenceOf gone (.cluster 5)).state = 2 ∧ (assoc (BitVec.ofNat 3 (5 / 128)) gone.hw.control.spares).getD 0 = 8
    ∧ gone.grade = .fv8 ∧ clustersLeft gone (BitVec.ofNat 3 (5 / 128)) < 128
    ∧ scrubRefused slotZero 0x20000000000 = false ∧ scrubRefused bad 0x20000000000 = false
    ∧ (0x20000000000 : Nat) / 2 ^ 52 = bad.loc.dev.toNat ∧ storeDie 0x20000000000 = bad.loc.die.toNat
    ∧ scrubRefused locked 0x20000000000 = true := by decide +kernel

/-- The state with a controller. -/
def controlled (f : Control → Control) (s : State) : State := { s with hw := { s.hw with control := f s.hw.control } }

theorem witness_FirmwarePowerAndAlarms :
    let run := controlled (fun c => { c with running := true }) slotZero
    let writing := controlled (fun c => { c with writing := true }) slotZero
    let rec' := controlled (fun c => { c with recovery := true }) (port .locked 9 slotZero)
    let stepping (n : Nat) := controlled (fun c => { c with step := n }) slotZero
    let up := { stepping 5 with hw := { (stepping 5).hw with
      ports := (stepping 5).hw.ports.map fun p => { p with trained := true, spdm := 9 } } }
    let second := controlled (fun c => { c with lastAlarm := some 0 }) slotZero
    let budget := controlled (fun c => { c with budget := [(.die 2, 40, slotZero.clock.ref / 1250)] }) slotZero
    imageOk slotZero.hw.control.flash 0 = none ∧ slotZero.hw.control.minSvn.toNat = 0 ∧ slotZero.hw.control.recovery = false
    ∧ run.hw.control.running = true ∧ run.hw.control.staged = none ∧ imageOk (Memory.bytes run.mem 0 64) 0 = none
    ∧ slotZero.hw.control.writing = false ∧ writing.hw.control.writing = true
    ∧ rec'.hw.control.recovery = true ∧ rec'.hw.control.seedErased = false ∧ rec'.hw.ports[(3 : Fin 32)].state = .locked
    ∧ slotZero.hw.control.step = 0 ∧ slotZero.hw.control.running = false ∧ (stepping 3).hw.control.step = 3
    ∧ portsUp (stepping 5) = false ∧ up.hw.control.step = 5 ∧ portsUp up = true ∧ (stepping 6).hw.control.step = 6
    ∧ slotZero.cluster.jobs = [] ∧ second.hw.control.lastAlarm = some 0 ∧ second.clock.ref < 0 + 156250000
    ∧ slotZero.hw.control.lastAlarm = none ∧ slotZero.hw.control.budget = [] ∧ slotZero.bell.state = 0
    ∧ budget.hw.control.budget = [(.die 2, 40, budget.clock.ref / 1250)] ∧ budget.clock.n ≤ 40 ∧ budget.bell.state = 0
    ∧ 20 ≤ slotZero.bell.ann.toNat ∧ slotZero.bell.ann.toNat ≤ 40 ∧ 20 ≤ slotZero.clock.n ∧ slotZero.clock.n ≤ 40
    ∧ Memory.wf slotZero.mem = true
    ∧ ({ slotZero.bell with state := 1 }).state = 1 ∧ isMember { slotZero with bell := { slotZero.bell with state := 2 } } = true
    ∧ 0 ≤ powerBudget .fabric ∧ powerBudget .fabric < 10000 := by decide +kernel

theorem low_field (lo h i w : Nat) (le : i + w ≤ 128) : nfld (lo + h * 2 ^ 128) i w = nfld lo i w := by
  obtain ⟨k, hk⟩ := Nat.exists_eq_add_of_le le
  have p : (2 : Nat) ^ 128 = 2 ^ i * (2 ^ w * 2 ^ k) := by rw [hk, Nat.pow_add, Nat.pow_add, Nat.mul_assoc]
  rw [nfld, nfld, Nat.shiftRight_eq_div_pow, Nat.shiftRight_eq_div_pow, p, Nat.mul_left_comm,
    Nat.add_mul_div_left _ _ (Nat.two_pow_pos i), Nat.mul_left_comm h, Nat.add_mul_mod_self_left]

theorem mid_field (lo h : Nat) (l : lo < 2 ^ 128) (k : h < 2 ^ 256) : nfld (lo + h * 2 ^ 128) 128 256 = h := by
  rw [nfld, Nat.shiftRight_eq_div_pow, Nat.add_mul_div_right _ _ (Nat.two_pow_pos 128), Nat.div_eq_of_lt l, Nat.zero_add,
    Nat.mod_eq_of_lt k]

theorem field_bound (lo h : Nat) (l : lo < 2 ^ 128) (k : h < 2 ^ 256) : lo + h * 2 ^ 128 < 2 ^ 384 := by
  have : h * 2 ^ 128 + 2 ^ 128 ≤ 2 ^ 256 * 2 ^ 128 := by
    rw [← Nat.succ_mul]; exact Nat.mul_le_mul_right _ k
  have e : (2 : Nat) ^ 384 = 2 ^ 256 * 2 ^ 128 := (Nat.pow_add 2 256 128)
  rw [e]; exact Nat.lt_of_lt_of_le (by rw [Nat.add_comm]; exact Nat.add_lt_add_left l _) this

theorem high_field (lo h : Nat) (l : lo < 2 ^ 128) (k : h < 2 ^ 256) : nfld (lo + h * 2 ^ 128) 384 128 = 0 := by
  have e := Nat.div_eq_of_lt (field_bound lo h l k)
  unfold nfld
  rw [Nat.shiftRight_eq_div_pow, e]
  exact Nat.zero_mod _

/-- The header's number but for the hash: version 5, SVN 6, no body. -/
def firmLow : Nat := 0x46594D43 + 5 * 2 ^ 64 + 6 * 2 ^ 96

/-- A firmware header with the hash of an empty body. -/
def firmHead : List Byte := bytesLE 64 (firmLow + (Config.shake256 []).toNat * 2 ^ 128)

/-- A list's first 64 entries, where the rest follows them. -/
theorem take_head (bs : List Byte) (k : Nat) (h : bs.length = 64) : (bs ++ List.replicate k (0 : Byte)).take 64 = bs := by
  rw [← h, List.take_left]

/-- Where its signatures verify, there is an image that passes; no value of that check is known. -/
theorem witness_FirmwarePowerAndAlarms_image (h : ∀ sig, Config.slhVerify Config.fusedKeyDigest firmHead sig = true) :
    imageOk (firmHead ++ List.replicate 29792 0) 0 = some (5, 6) := by
  have l : firmHead.length = 64 := bytesLE_length ..
  have b := take_head firmHead 29792 l
  have len : (firmHead ++ List.replicate 29792 (0 : Byte)).length = 29856 := by
    rw [List.length_append, l, List.length_replicate]
  have k := (Config.shake256 []).isLt
  have w : firmLow < 2 ^ 128 := by decide +kernel
  have lt := field_bound _ _ w k
  have n : natLE firmHead = firmLow + (Config.shake256 []).toNat * 2 ^ 128 :=
    natLE_bytesLE 64 _ (Nat.lt_trans lt (by decide +kernel))
  have e0 : nfld (natLE firmHead) 0 32 = 0x46594D43 := by rw [n, low_field _ _ _ _ (by decide)]; decide +kernel
  have e1 : nfld (natLE firmHead) 384 128 = 0 := by rw [n]; exact high_field _ _ w k
  have e2 : nfld (natLE firmHead) 32 32 = 0 := by rw [n, low_field _ _ _ _ (by decide)]; decide +kernel
  have e3 : nfld (natLE firmHead) 96 32 = 6 := by rw [n, low_field _ _ _ _ (by decide)]; decide +kernel
  have e4 : nfld (natLE firmHead) 64 32 = 5 := by rw [n, low_field _ _ _ _ (by decide)]; decide +kernel
  have e5 : nfld (natLE firmHead) 128 256 = (Config.shake256 []).toNat := by rw [n, mid_field _ _ w k]
  rw [imageOk]
  generalize firmHead ++ List.replicate 29792 (0 : Byte) = bs at b len ⊢
  generalize firmHead = hb at *
  simp only [b, len, e0, e1, e2, e3, e4, e5, List.take_zero, h, BitVec.ofNat_toNat, BitVec.setWidth_eq]
  rw [if_neg]
  rintro (c | c | c | c | c | c)
  · exact c rfl
  · exact c rfl
  · exact absurd c (by decide)
  · exact absurd c (by decide)
  · exact c rfl
  · exact absurd c (by decide)

/-! Worked cases of the spec, each one instruction on a small state. -/

/-- Does the instruction of a word complete, and then is the state as a test says? -/
def runs (w : W32) (s : State) (p : State → Bool) : Bool :=
  okWith (decodeWord w) fun i => after (exec i s) p

/-- g3 after an instruction on A in g1 and B in g2. -/
def g3After (i : Instr) (a b : Word) : Option Word :=
  match exec i (setg 1 a (setg 2 b slotZero)) with
  | .next t => some (t.ctx.g 3)
  | _ => none

/-- The table of R158: signed division. -/
theorem test_divide_signed :
    let d (a b : Word) := (g3After (.div 3 1 2) a b, g3After (.rem 3 1 2) a b)
    d 7 (-2) = (some (-3), some 1) ∧ d (-7) 2 = (some (-3), some (-1)) ∧ d 9 0 = (some 0xFFFFFFFFFFFFFFFF, some 9)
    ∧ d 0x8000000000000000 (-1) = (some 0x8000000000000000, some 0) := by decide +kernel

/-- The table of R158: unsigned division. -/
theorem test_divide_unsigned :
    let d (a b : Word) := (g3After (.divw 3 1 2) a b, g3After (.remw 3 1 2) a b)
    d 7 (-2) = (some 0, some 7) ∧ d (-7) 2 = (some 0x7FFFFFFFFFFFFFFC, some 1)
    ∧ d 9 0 = (some 0xFFFFFFFFFFFFFFFF, some 9)
    ∧ d 0x8000000000000000 (-1) = (some 0, some 0x8000000000000000) := by decide +kernel

/-- The pair of R160: MOVK with keep leaves the rest of g9. -/
theorem test_movk_pair : runs 0x35205214 slotZero (fun t => t.ctx.g 9 == 0x5214
    && after (exec (.movk 9 1 1 0x5317) t) fun u => u.ctx.g 9 == 0x53175214) = true := by decide +kernel

/-- The LEA of R160: g4 + g5 × 8 − 24. -/
theorem test_lea : runs 0x38642FE8 (setg 4 0x100 (setg 5 3 slotZero)) (fun t => t.ctx.g 3 == 0x100) = true := by
  decide +kernel

/-- R162's worked case: core 6 of cluster 37 on die 5 of device 2. -/
theorem test_self_and_gcoord :
    let s : State := { slotZero with loc := { dev := 2, die := 5, cluster := 37, core := 6 } }
    after (exec (.self 3) s) (fun t => t.ctx.g 3 == 0x2A9700) = true
    ∧ after (exec (.gcoord 3 4) (setg 4 0x2A9700 s)) (fun t => t.ctx.g 3 == 0x0000200253165316) = true := by decide +kernel

/-- The queue of R137's worked case: the branch issues, then the jump in its slot. -/
theorem test_delay_slots :
    let s := slotZero.mod fun c => { c with queue := Queue.at 0x100 }
    after (exec (.beq 0 0 0 0x40) s) (fun t => t.ctx.queue.q0 == 0x104 && t.ctx.queue.q1 == 0x108 && t.ctx.queue.q2 == 0x200
      && after (exec (.j 0x7F) t) fun u => u.ctx.queue.q0 == 0x108 && u.ctx.queue.q1 == 0x200 && u.ctx.queue.q2 == 0x300) = true := by
  decide +kernel

/-- The block of R193 in v4, with FMODE 0x4000. -/
def block : State :=
  slotZero.mod fun c => { (c.setV 4 (0x40A00000 + 0x3F800000 * 2 ^ 32 + 0x3E800000 * 2 ^ 64)) with
    user := { c.user with fmode := 0x4000 } }

/-- R209's worked pair, step 1: VQNT with a spare value. -/
theorem test_vqnt : runs 0x912418C1 block (fun t => t.ctx.v 9 == 0x28 && t.ctx.f 3 == 0x4A7F
    && t.ctx.user.fflags == 1) = true := by decide +kernel

/-- R209's worked pair, step 2: VDQ gives 5.0, 1.0 and +0. -/
theorem test_vdq : runs 0x918918C2 (block.mod fun c => (c.setV 9 0x28).setF 3 0x4A7F) (fun t =>
    t.ctx.v 12 == 0x40A00000 + 0x3F800000 * 2 ^ 32 && t.ctx.v 13 == 0) = true := by decide +kernel

/-- R210's worked case: VDOT gives 257.875, not the matrix engine's 258. -/
theorem test_vdot : runs 0xA4453200 (slotZero.mod fun c => (((c.setV 5 0x343978).setV 6 0x383838).setF 4 0x7F).setF 5 0x7F)
    (fun t => t.ctx.v 2 == 0x4380F000) = true := by decide +kernel

/-- R295's worked job: the matrix engine gives 258. -/
theorem test_compute_job :
    let tile : Tile := { fmt := 5, kb := 1, n := 1, cols := [[0x38, 0x38, 0x38] ++ List.replicate 29 0 ++ [0x7F]], bad := [] }
    let job := queued (.compute 0x29 0x0100000000001000 0x0000010100002000 0x7F 0x7F) true
    let s := poke 0x20000001000 33 (0x343978 + 0x7F * 2 ^ 256) (helper.modCluster fun c => { c with jobs := [job], cur := some tile })
    after (exec .computeJobComplete (ev .computeJobComplete s)) (fun t => readNat t 0x20000002000 4 == 0x43810000
      && (t.at 1).g 3 == 1) = true := by decide +kernel

/-- R76's worked placement, cluster 4 alone: items of six on a launch of one slot each. -/
theorem test_placement :
    let hdr : BitVec 512 := BitVec.ofNat 512 (4 * 2 ^ 224 + 4 * 2 ^ 232)
    let l : Launch := { launch1 with hdr := hdr, kslots := 0, total := 6 }
    (List.range 6).map (fun n => unitOf slotZero { l with next := n })
      = [some (4, 0), some (4, 1), some (4, 2), some (4, 4), some (4, 5), some (4, 6)] := by decide +kernel

/-- R186's example: 464 is a tie and rounds to 448 with NX only; 465 overflows. -/
theorem test_vcvt_e4m3 :
    runs 0x90220880 (slotZero.mod fun c => c.setV 2 0x43E80000) (fun t => t.ctx.v 1 == 0x7E && t.ctx.user.fflags == 1) = true
    ∧ runs 0x90220880 (slotZero.mod fun c => c.setV 2 0x43E88000) (fun t => t.ctx.user.fflags == 5) = true := by decide +kernel

/-- Words the decoder refuses: reserved majors (R119), a field that must be zero (R109), a control register that does
not exist (R116), and a long form in short mode (R123). -/
theorem test_decode_refuses :
    decodeWord 0 = .error .reservedMajor ∧ decodeWord 0xE0000000 = .error .reservedMajor
    ∧ decodeWord 0x04000001 = .error .mustBeZero ∧ decodeWord 0x08A00800 = .error (.illFormed .noControlRegister)
    ∧ decode false 0xC4853022 = .error .longMode := by decide

end Sys2Proof.Tests
end

section
/-!
PROOFS. O3: a word that decodes is the encoding of its instruction. Each decoder of a function number is shown to
answer only instructions whose encoding is the packed fields it was given, and a word is the packing of its fields.
-/

namespace Sys2Proof.Laws

/-! Fields from what they are made of. -/

/-- A field is the literal that its number says. -/
theorem field_eq {n k : Nat} {x : BitVec n} (h : x.toNat = k) : x = BitVec.ofNat n k := by
  rw [← h, BitVec.ofNat_toNat, BitVec.setWidth_eq]

/-- A flag below four zero bits (R121). -/
theorem append_low1 : ∀ {x : BitVec 5}, x.extractLsb' 1 4 = 0 → 0#4 ++ x.extractLsb' 0 1 = x := by decide

/-- An element type below three zero bits (R117). -/
theorem append_low2 : ∀ {x : BitVec 5}, x.extractLsb' 2 3 = 0 → 0#3 ++ x.extractLsb' 0 2 = x := by decide

/-- An atomic's function is its ordering and its operation (R249). -/
theorem append_order {fn : BitVec 6} {k : Nat} (h : (fn.extractLsb' 0 4).toNat = k) :
    fn.extractLsb' 4 2 ++ BitVec.ofNat 4 k = fn := by
  rw [← field_eq h]
  exact (join_fields fn 0 4 2).trans (whole fn)

/-- A code of three fields gives them back. -/
theorem fields_of_code (d a b : BitVec 5) : (d ++ a ++ b).extractLsb' 10 5 = d ∧ (d ++ a ++ b).extractLsb' 5 5 = a
    ∧ (d ++ a ++ b).extractLsb' 0 5 = b :=
  ⟨(append_high _ _ 5 5).trans ((append_high _ _ 0 5).trans (whole d)),
    (append_high _ _ 0 5).trans ((append_low _ _ 0 5 (by decide)).trans (whole a)),
    (append_low _ _ 0 5 (by decide)).trans (whole b)⟩

/-! A word from its fields: the converse of the field lemmas of R109's layouts. -/

section
variable {w : W32} {k : Nat}

theorem packR_of_major (h : (w.extractLsb' 26 6).toNat = k) :
    packR (BitVec.ofNat 6 k) (w.extractLsb' 21 5) (w.extractLsb' 16 5) (w.extractLsb' 11 5) (w.extractLsb' 5 6)
      (w.extractLsb' 0 5) = w := by
  simp only [packR, ← field_eq h, BitVec.extractLsb'_append_extractLsb'_eq_extractLsb']
  exact whole w

theorem packI_of_major (h : (w.extractLsb' 26 6).toNat = k) :
    packI (BitVec.ofNat 6 k) (w.extractLsb' 21 5) (w.extractLsb' 16 5) (w.extractLsb' 0 16) = w := by
  simp only [packI, ← field_eq h, BitVec.extractLsb'_append_extractLsb'_eq_extractLsb']
  exact whole w

theorem packL_of_major (h : (w.extractLsb' 26 6).toNat = k) :
    packL (BitVec.ofNat 6 k) (w.extractLsb' 21 5) (w.extractLsb' 16 5) (w.extractLsb' 11 5) (w.extractLsb' 9 2)
      (w.extractLsb' 0 9) = w := by
  simp only [packL, ← field_eq h, BitVec.extractLsb'_append_extractLsb'_eq_extractLsb']
  exact whole w

theorem packB_of_major (h : (w.extractLsb' 26 6).toNat = k) :
    packB (BitVec.ofNat 6 k) (w.extractLsb' 21 5) (w.extractLsb' 16 5) (w.extractLsb' 13 3) (w.extractLsb' 11 2)
      (w.extractLsb' 0 11) = w := by
  simp only [packB, ← field_eq h, BitVec.extractLsb'_append_extractLsb'_eq_extractLsb']
  exact whole w

theorem packJ_of_major (h : (w.extractLsb' 26 6).toNat = k) : packJ (BitVec.ofNat 6 k) (w.extractLsb' 0 26) = w := by
  simp only [packJ, ← field_eq h, BitVec.extractLsb'_append_extractLsb'_eq_extractLsb']
  exact whole w

theorem packM_of_major (h : (w.extractLsb' 26 6).toNat = k) :
    packM (BitVec.ofNat 6 k) (w.extractLsb' 21 5) (w.extractLsb' 16 5) (w.extractLsb' 12 4) (w.extractLsb' 0 12)
      = w := by
  simp only [packM, ← field_eq h, BitVec.extractLsb'_append_extractLsb'_eq_extractLsb']
  exact whole w

theorem packF_of_major (h : (w.extractLsb' 26 6).toNat = k) (hz : w.extractLsb' 0 6 = 0) :
    packF (BitVec.ofNat 6 k) (w.extractLsb' 22 4) (w.extractLsb' 12 10) (w.extractLsb' 10 2) (w.extractLsb' 8 2)
      (w.extractLsb' 6 2) = w := by
  simp only [packF, ← field_eq h, show 0#6 = w.extractLsb' 0 6 from hz.symm,
    BitVec.extractLsb'_append_extractLsb'_eq_extractLsb']
  exact whole w

theorem packC_of_major (h : (w.extractLsb' 26 6).toNat = k) (hz : w.extractLsb' 0 6 = 0) :
    packC (BitVec.ofNat 6 k) (w.extractLsb' 21 5) (w.extractLsb' 9 12) (w.extractLsb' 6 3) = w := by
  simp only [packC, ← field_eq h, show 0#6 = w.extractLsb' 0 6 from hz.symm,
    BitVec.extractLsb'_append_extractLsb'_eq_extractLsb']
  exact whole w

theorem packV_of_major (h : (w.extractLsb' 26 6).toNat = k) :
    packV (BitVec.ofNat 6 k) (w.extractLsb' 21 5) (w.extractLsb' 16 5) (w.extractLsb' 11 5) (w.extractLsb' 8 3)
      (w.extractLsb' 5 3) (w.extractLsb' 0 5) = w := by
  simp only [packV, ← field_eq h, BitVec.extractLsb'_append_extractLsb'_eq_extractLsb']
  exact whole w

/-- The format-pair majors are the eight from 0x28 on, in the order of their pairs (R118). -/
theorem packD_of_major (h : (w.extractLsb' 26 6).toNat = k) (hk : k / 8 = 5) :
    packD (5#3 ++ w.extractLsb' 26 3) (w.extractLsb' 21 5) (w.extractLsb' 16 5) (w.extractLsb' 11 5)
      (w.extractLsb' 7 4) (w.extractLsb' 4 3) (w.extractLsb' 0 4) = w := by
  have hp : 5#3 = w.extractLsb' 29 3 := by
    apply BitVec.eq_of_toNat_eq
    simp only [BitVec.extractLsb'_toNat, Nat.shiftRight_eq_div_pow] at h ⊢
    simp
    omega
  simp only [packD, hp, BitVec.extractLsb'_append_extractLsb'_eq_extractLsb']
  exact whole w

/-- The K layout: R's place a holds pos, keep and two zeros (R112). -/
theorem place_of_movk (hz : w.extractLsb' 16 2 = 0) :
    w.extractLsb' 19 2 ++ w.extractLsb' 18 1 ++ 0#2 = w.extractLsb' 16 5 := by
  simp only [show 0#2 = w.extractLsb' 16 2 from hz.symm, BitVec.extractLsb'_append_extractLsb'_eq_extractLsb']

theorem place_of_res (hz : w.extractLsb' 19 2 = 0) : 0#2 ++ w.extractLsb' 16 3 = w.extractLsb' 16 5 := by
  simp only [show 0#2 = w.extractLsb' 19 2 from hz.symm, BitVec.extractLsb'_append_extractLsb'_eq_extractLsb']

/-- A store's size field: the release bit, a zero and the size (R114). -/
theorem size_of_store (hz : (w.extractLsb' 12 4).getLsbD 2 = false) :
    w.extractLsb' 15 1 ++ 0#1 ++ w.extractLsb' 12 2 = w.extractLsb' 12 4 := by
  have h0 : 0#1 = w.extractLsb' 14 1 := by
    apply BitVec.eq_of_getLsbD_eq
    intro i hi
    obtain rfl : i = 0 := by omega
    simpa using hz.symm
  simp only [h0, BitVec.extractLsb'_append_extractLsb'_eq_extractLsb']

/-- VMEM's displacement field: the direction and the displacement (R261). -/
theorem disp_of_vmem {b : Bool} (h : w.getLsbD 11 = b) :
    BitVec.ofBool b ++ w.extractLsb' 0 11 = w.extractLsb' 0 12 := by
  have hb : BitVec.ofBool b = w.extractLsb' 11 1 := by
    apply BitVec.eq_of_getLsbD_eq
    intro i hi
    obtain rfl : i = 0 := by omega
    simpa using h.symm
  simp only [hb, BitVec.extractLsb'_append_extractLsb'_eq_extractLsb']

end

/-- The shift field: eight zeros, the kind and the count (R111). -/
theorem place_of_shift {x : BitVec 16} {t : Nat} (hz : x.extractLsb' 8 8 = 0) (ht : (x.extractLsb' 6 2).toNat = t) :
    0#8 ++ BitVec.ofNat 2 t ++ x.extractLsb' 0 6 = x := by
  simp only [show 0#8 = x.extractLsb' 8 8 from hz.symm, ← field_eq ht,
    BitVec.extractLsb'_append_extractLsb'_eq_extractLsb']
  exact whole x

/-- Whatever instruction a decoder answers, this word is its encoding. -/
def WordOf (r : Except DecodeError Instr) (w : W32) : Prop := ∀ i, r = .ok i → encode i = some w

theorem wordOf_error {w : W32} (e : DecodeError) : WordOf (.error e) w := fun _ h => nomatch h

theorem wordOf_ok {w x : W32} {i : Instr} (h : encode i = some x) (e : x = w) : WordOf (.ok i) w := by
  rintro _ ⟨⟩
  exact e ▸ h

/-- A form with fields that must be zero encodes to a word in which they are. -/
theorem wordOf_mbz {w x : W32} {zero : Bool} {i : Instr} (h : encode i = some x) (e : zero = true → x = w) :
    WordOf (mbz zero i) w := by
  unfold mbz
  split
  · next hz => exact wordOf_ok h (e hz)
  · exact wordOf_error _

theorem WordOf.of_eq {r : Except DecodeError Instr} {w x : W32} (h : WordOf r x) (e : x = w) : WordOf r w :=
  e ▸ h

/-! The decoder of each major opcode, case by case of its function number (R120 to R122). -/

theorem wordOf_decodeSys {d a b : BitVec 5} {fn : BitVec 6} {c : BitVec 5} :
    WordOf (decodeSys d a b fn c) (packR 0x01 d a b fn c) := by
  unfold decodeSys
  split
  case h_9 => exact wordOf_error _
  all_goals rename_i hf; obtain rfl := field_eq hf
  case h_5 | h_6 => exact wordOf_mbz rfl fun hz => by simp [fields_of_code, beq_iff_eq.mp hz]
  all_goals exact wordOf_mbz rfl fun hz => by simp_all

theorem wordOf_decodeAlu {d a b : BitVec 5} {fn : BitVec 6} {c : BitVec 5} :
    WordOf (decodeAlu d a b fn c) (packR 0x03 d a b fn c) := by
  unfold decodeAlu
  split
  case h_21 => exact wordOf_error _
  all_goals rename_i hf; obtain rfl := field_eq hf
  case h_20 => exact wordOf_ok rfl rfl
  all_goals exact wordOf_mbz rfl fun hz => by simp_all

theorem wordOf_decodeMul {d a b : BitVec 5} {fn : BitVec 6} {c : BitVec 5} :
    WordOf (decodeMul d a b fn c) (packR 0x04 d a b fn c) := by
  unfold decodeMul
  split
  case h_9 => exact wordOf_error _
  all_goals rename_i hf; obtain rfl := field_eq hf
  all_goals exact wordOf_mbz rfl fun hz => by simp_all

theorem wordOf_decodeBit {d a b : BitVec 5} {fn : BitVec 6} {c : BitVec 5} :
    WordOf (decodeBit d a b fn c) (packR 0x05 d a b fn c) := by
  unfold decodeBit
  split
  case h_10 => exact wordOf_error _
  all_goals rename_i hf; obtain rfl := field_eq hf
  case h_6 | h_7 => exact wordOf_mbz rfl fun hz => by simp_all [append_low1]
  all_goals exact wordOf_mbz rfl fun hz => by simp_all

theorem wordOf_decodeAdr {d a b : BitVec 5} {fn : BitVec 6} {c : BitVec 5} :
    WordOf (decodeAdr d a b fn c) (packR 0x0F d a b fn c) := by
  unfold decodeAdr
  split
  case h_5 => exact wordOf_error _
  all_goals rename_i hf; obtain rfl := field_eq hf
  all_goals exact wordOf_mbz rfl fun hz => by simp_all

theorem wordOf_decodeJr {d a b : BitVec 5} {fn : BitVec 6} {c : BitVec 5} :
    WordOf (decodeJr d a b fn c) (packR 0x13 d a b fn c) := by
  unfold decodeJr
  split
  case h_4 => exact wordOf_error _
  all_goals rename_i hf; obtain rfl := field_eq hf
  all_goals exact wordOf_mbz rfl fun hz => by simp_all

theorem wordOf_decodeCtx {d a b : BitVec 5} {fn : BitVec 6} {c : BitVec 5} :
    WordOf (decodeCtx d a b fn c) (packR 0x15 d a b fn c) := by
  unfold decodeCtx
  split
  case h_7 => exact wordOf_error _
  all_goals rename_i hf; obtain rfl := field_eq hf
  case h_1 => exact wordOf_ok rfl rfl
  all_goals exact wordOf_mbz rfl fun hz => by simp_all

theorem wordOf_decodeObl {d a b : BitVec 5} {fn : BitVec 6} {c : BitVec 5} :
    WordOf (decodeObl d a b fn c) (packR 0x16 d a b fn c) := by
  unfold decodeObl
  split
  case h_11 => exact wordOf_error _
  all_goals rename_i hf; obtain rfl := field_eq hf
  case h_1 | h_6 => exact wordOf_ok rfl rfl
  all_goals exact wordOf_mbz rfl fun hz => by simp_all

theorem wordOf_decodeWt {d a b : BitVec 5} {fn : BitVec 6} {c : BitVec 5} :
    WordOf (decodeWt d a b fn c) (packR 0x17 d a b fn c) := by
  unfold decodeWt
  split
  case h_5 => exact wordOf_error _
  all_goals rename_i hf; obtain rfl := field_eq hf
  all_goals exact wordOf_mbz rfl fun hz => by simp_all

theorem wordOf_decodeAtom {d a b : BitVec 5} {fn : BitVec 6} {c : BitVec 5} :
    WordOf (decodeAtom d a b fn c) (packR 0x1A d a b fn c) := by
  unfold decodeAtom
  split
  · exact wordOf_error _
  next hc =>
    replace hc : c.extractLsb' 1 4 = 0 := by simpa using hc
    split
    case h_12 => exact wordOf_error _
    all_goals
      rename_i hf
      exact wordOf_ok rfl (by rw [append_order hf, append_low1 hc])

theorem wordOf_decodeLlk {d a b : BitVec 5} {fn : BitVec 6} {c : BitVec 5} :
    WordOf (decodeLlk d a b fn c) (packR 0x1B d a b fn c) := by
  unfold decodeLlk
  split
  case h_4 => exact wordOf_error _
  all_goals rename_i hf; obtain rfl := field_eq hf
  case h_3 => exact wordOf_mbz rfl fun hz => by simp_all
  all_goals exact wordOf_mbz rfl fun hz => by simp_all [append_low1]

theorem wordOf_decodeFen {d a b : BitVec 5} {fn : BitVec 6} {c : BitVec 5} :
    WordOf (decodeFen d a b fn c) (packR 0x1C d a b fn c) := by
  unfold decodeFen
  split
  case h_7 => exact wordOf_error _
  all_goals rename_i hf; obtain rfl := field_eq hf
  all_goals exact wordOf_mbz rfl fun hz => by simp_all

theorem wordOf_decodeQmem {d a b : BitVec 5} {fn : BitVec 6} {c : BitVec 5} :
    WordOf (decodeQmem d a b fn c) (packR 0x1F d a b fn c) := by
  unfold decodeQmem
  split
  case h_5 => exact wordOf_error _
  all_goals rename_i hf; obtain rfl := field_eq hf
  all_goals exact wordOf_mbz rfl fun hz => by simp_all [append_low2]

theorem wordOf_decodeCpy {d a b : BitVec 5} {fn : BitVec 6} {c : BitVec 5} :
    WordOf (decodeCpy d a b fn c) (packR 0x20 d a b fn c) := by
  unfold decodeCpy
  split
  case h_7 => exact wordOf_error _
  all_goals rename_i hf; obtain rfl := field_eq hf
  all_goals exact wordOf_ok rfl rfl

theorem wordOf_decodeStm {d a b : BitVec 5} {fn : BitVec 6} {c : BitVec 5} :
    WordOf (decodeStm d a b fn c) (packR 0x21 d a b fn c) := by
  unfold decodeStm
  split
  case h_4 => exact wordOf_error _
  all_goals rename_i hf; obtain rfl := field_eq hf
  all_goals exact wordOf_mbz rfl fun hz => by simp_all [append_low1]

theorem wordOf_decodeQm {d a b : BitVec 5} {fn : BitVec 6} {c : BitVec 5} :
    WordOf (decodeQm d a b fn c) (packR 0x30 d a b fn c) := by
  unfold decodeQm
  split
  case h_7 => exact wordOf_error _
  all_goals rename_i hf; obtain rfl := field_eq hf
  case h_4 => exact wordOf_mbz rfl fun hz => by simp_all [append_low2]
  all_goals exact wordOf_mbz rfl fun hz => by simp_all

theorem wordOf_decodeMx {d a b : BitVec 5} {fn : BitVec 6} {c : BitVec 5} :
    WordOf (decodeMx d a b fn c) (packR 0x34 d a b fn c) := by
  unfold decodeMx
  split
  case h_5 => exact wordOf_error _
  all_goals rename_i hf; obtain rfl := field_eq hf
  all_goals exact wordOf_mbz rfl fun hz => by simp_all

theorem wordOf_decodeBk {d a b : BitVec 5} {fn : BitVec 6} {c : BitVec 5} :
    WordOf (decodeBk d a b fn c) (packR 0x35 d a b fn c) := by
  unfold decodeBk
  split
  case h_5 => exact wordOf_error _
  all_goals rename_i hf; obtain rfl := field_eq hf
  all_goals exact wordOf_mbz rfl fun hz => by simp_all

theorem wordOf_decodePl {d a b : BitVec 5} {fn : BitVec 6} {c : BitVec 5} :
    WordOf (decodePl d a b fn c) (packR 0x36 d a b fn c) := by
  unfold decodePl
  split
  case h_6 => exact wordOf_error _
  all_goals rename_i hf; obtain rfl := field_eq hf
  all_goals exact wordOf_mbz rfl fun hz => by simp_all

theorem wordOf_decodeXc {d a b : BitVec 5} {fn : BitVec 6} {c : BitVec 5} :
    WordOf (decodeXc d a b fn c) (packR 0x37 d a b fn c) := by
  unfold decodeXc
  split
  case h_7 => exact wordOf_error _
  all_goals rename_i hf; obtain rfl := field_eq hf
  case h_2 | h_3 => exact wordOf_ok rfl rfl
  all_goals exact wordOf_mbz rfl fun hz => by simp_all

theorem wordOf_decodeVi {d a b : BitVec 5} {k t : BitVec 3} {fn : BitVec 5} :
    WordOf (decodeVi d a b k t fn) (packV 0x22 d a b k t fn) := by
  unfold decodeVi
  split
  case h_23 => exact wordOf_error _
  all_goals rename_i hf; obtain rfl := field_eq hf
  case h_14 => exact wordOf_mbz rfl fun hz => by simp_all
  all_goals exact wordOf_ok rfl rfl

theorem wordOf_decodeVf {d a b : BitVec 5} {k t : BitVec 3} {fn : BitVec 5} :
    WordOf (decodeVf d a b k t fn) (packV 0x23 d a b k t fn) := by
  unfold decodeVf
  split
  case h_18 => exact wordOf_error _
  all_goals rename_i hf; obtain rfl := field_eq hf
  case h_8 | h_9 => exact wordOf_mbz rfl fun hz => by simp_all
  all_goals exact wordOf_ok rfl rfl

theorem wordOf_decodeVx {d a b : BitVec 5} {k t : BitVec 3} {fn : BitVec 5} :
    WordOf (decodeVx d a b k t fn) (packV 0x24 d a b k t fn) := by
  unfold decodeVx
  split
  case h_10 => exact wordOf_error _
  all_goals rename_i hf; obtain rfl := field_eq hf
  case h_1 | h_4 | h_5 => exact wordOf_ok rfl rfl
  all_goals exact wordOf_mbz rfl fun hz => by simp_all

theorem wordOf_decodeVs {d a b : BitVec 5} {k t : BitVec 3} {fn : BitVec 5} :
    WordOf (decodeVs d a b k t fn) (packV 0x25 d a b k t fn) := by
  unfold decodeVs
  split
  case h_9 => exact wordOf_error _
  all_goals rename_i hf; obtain rfl := field_eq hf
  all_goals exact wordOf_mbz rfl fun hz => by simp_all

theorem wordOf_decodeVr {d a b : BitVec 5} {k t : BitVec 3} {fn : BitVec 5} :
    WordOf (decodeVr d a b k t fn) (packV 0x26 d a b k t fn) := by
  unfold decodeVr
  split
  case h_7 => exact wordOf_error _
  all_goals rename_i hf; obtain rfl := field_eq hf
  all_goals exact wordOf_mbz rfl fun hz => by simp_all

theorem wordOf_decodeQf {d a b : BitVec 5} {k t : BitVec 3} {fn : BitVec 5} :
    WordOf (decodeQf d a b k t fn) (packV 0x31 d a b k t fn) := by
  unfold decodeQf
  split
  case h_16 => exact wordOf_error _
  all_goals rename_i hf; obtain rfl := field_eq hf
  all_goals exact wordOf_mbz rfl fun hz => by simp_all

theorem wordOf_decodeQi {d a b : BitVec 5} {k t : BitVec 3} {fn : BitVec 5} :
    WordOf (decodeQi d a b k t fn) (packV 0x32 d a b k t fn) := by
  unfold decodeQi
  split
  case h_19 => exact wordOf_error _
  all_goals rename_i hf; obtain rfl := field_eq hf
  all_goals exact wordOf_mbz rfl fun hz => by simp_all

theorem wordOf_decodeQr {d a b : BitVec 5} {k t : BitVec 3} {fn : BitVec 5} :
    WordOf (decodeQr d a b k t fn) (packV 0x33 d a b k t fn) := by
  unfold decodeQr
  split
  case h_7 => exact wordOf_error _
  all_goals rename_i hf; obtain rfl := field_eq hf
  all_goals exact wordOf_mbz rfl fun hz => by simp_all

theorem wordOf_decodeCr {g : BitVec 5} {n : BitVec 12} {fn : BitVec 3} {z : BitVec 6} {w : W32}
    (h : z = 0 → packC 0x02 g n fn = w) : WordOf (decodeCr g n fn z) w := by
  unfold decodeCr
  split
  · exact wordOf_error _
  next hz =>
    have hw := h (by simpa using hz)
    split
    case h_6 => exact wordOf_error _
    all_goals rename_i hf; obtain rfl := field_eq hf; exact wordOf_ok rfl hw

theorem wordOf_decodeShi {d a : BitVec 5} {k : BitVec 16} : WordOf (decodeShi d a k) (packI 0x0A d a k) := by
  unfold decodeShi
  split
  · exact wordOf_error _
  next hz =>
    replace hz : k.extractLsb' 8 8 = 0 := by simpa using hz
    split
    case h_4 =>
      have lt := (k.extractLsb' 6 2).isLt
      have h3 : (k.extractLsb' 6 2).toNat = 3 := by grind
      exact wordOf_ok rfl (by rw [place_of_shift hz h3])
    all_goals rename_i ht; exact wordOf_ok rfl (by rw [place_of_shift hz ht])

theorem encode_decodeBc (a b : BitVec 5) (cc : BitVec 3) (nul : BitVec 2) (disp : BitVec 11) :
    encode (decodeBc a b cc nul disp) = some (packB 0x10 a b cc nul disp) := by
  have cases : ∀ x : BitVec 3, x = 0 ∨ x = 1 ∨ x = 2 ∨ x = 3 ∨ x = 4 ∨ x = 5 ∨ x = 6 ∨ x = 7 := by decide
  rcases cases cc with rfl | rfl | rfl | rfl | rfl | rfl | rfl | rfl <;> rfl

theorem wordOf_decodeDot {p : BitVec 3} {d a b : BitVec 5} {c : BitVec 4} {k : BitVec 3} {fn : BitVec 4} :
    WordOf (decodeDot p d a b c k fn) (packD (5#3 ++ p) d a b c k fn) := by
  unfold decodeDot
  split
  case h_6 => exact wordOf_error _
  all_goals rename_i hf; obtain rfl := field_eq hf
  case h_1 => exact wordOf_ok rfl rfl
  case h_5 =>
    split
    · exact wordOf_error _
    next hp =>
      obtain rfl : p = 7 := by simpa using hp
      exact wordOf_mbz rfl fun hz => by simp_all
  all_goals exact wordOf_mbz rfl fun hz => by simp_all

/-- ST and MST encode w[2] as the zero it must be (R114). -/
theorem wordOf_storeSize {w x : W32} {n : BitVec 4} {i : Instr} (h : encode i = some x)
    (e : n.getLsbD 2 = false → x = w) : WordOf (storeSize n i) w :=
  wordOf_mbz h fun hz => e (by simpa using hz)

/-- VMEM is a load or a store by bit 11 (R261). -/
theorem wordOf_decodeVmem {w : W32} (h : (w.extractLsb' 26 6).toNat = 0x1E) :
    WordOf (mbz (w.extractLsb' 12 4 == 0)
      (if w.getLsbD 11 then .vst (w.extractLsb' 21 5) (w.extractLsb' 16 5) (w.extractLsb' 0 11)
        else .vld (w.extractLsb' 21 5) (w.extractLsb' 16 5) (w.extractLsb' 0 11))) w := by
  have hw (z : (w.extractLsb' 12 4 == 0) = true) :=
    (congrArg (packM _ _ _ · _) (beq_iff_eq.mp z)).symm.trans (packM_of_major h)
  split
  next hb => exact wordOf_mbz rfl fun z => (congrArg (packM _ _ _ _) (disp_of_vmem hb)).trans (hw z)
  next hb =>
    exact wordOf_mbz rfl fun z =>
      (congrArg (packM _ _ _ _) (disp_of_vmem (Bool.eq_false_of_not_eq_true hb))).trans (hw z)

/-- Every major opcode's decoder answers the instruction that the word encodes (R119). -/
theorem wordOf_decodeRaw (w : W32) : WordOf (decodeRaw w) w := by
  unfold decodeRaw
  dsimp only
  split
  next h => exact wordOf_decodeSys.of_eq (packR_of_major h)
  next h => exact wordOf_decodeCr fun hz => packC_of_major h hz
  next h => exact wordOf_decodeAlu.of_eq (packR_of_major h)
  next h => exact wordOf_decodeMul.of_eq (packR_of_major h)
  next h => exact wordOf_decodeBit.of_eq (packR_of_major h)
  next h => exact wordOf_ok rfl (packI_of_major h)
  next h => exact wordOf_ok rfl (packI_of_major h)
  next h => exact wordOf_ok rfl (packI_of_major h)
  next h => exact wordOf_ok rfl (packI_of_major h)
  next h => exact wordOf_decodeShi.of_eq (packI_of_major h)
  next h => exact wordOf_ok rfl (packI_of_major h)
  next h => exact wordOf_ok rfl (packI_of_major h)
  next h =>
    exact wordOf_mbz rfl fun hz =>
      (congrArg (packI _ _ · _) (place_of_movk (beq_iff_eq.mp hz))).trans (packI_of_major h)
  next h => exact wordOf_ok rfl (packL_of_major h)
  next h => exact wordOf_decodeAdr.of_eq (packR_of_major h)
  next h => exact wordOf_ok (encode_decodeBc ..) (packB_of_major h)
  next h => exact wordOf_ok rfl (packJ_of_major h)
  next h => exact wordOf_ok rfl (packJ_of_major h)
  next h => exact wordOf_decodeJr.of_eq (packR_of_major h)
  next h => exact wordOf_mbz rfl fun hz => packF_of_major h (beq_iff_eq.mp hz)
  next h => exact wordOf_decodeCtx.of_eq (packR_of_major h)
  next h => exact wordOf_decodeObl.of_eq (packR_of_major h)
  next h => exact wordOf_decodeWt.of_eq (packR_of_major h)
  next h => exact wordOf_ok rfl (packM_of_major h)
  next h =>
    exact wordOf_storeSize rfl fun hz => (congrArg (packM _ _ _ · _) (size_of_store hz)).trans (packM_of_major h)
  next h => exact wordOf_decodeAtom.of_eq (packR_of_major h)
  next h => exact wordOf_decodeLlk.of_eq (packR_of_major h)
  next h => exact wordOf_decodeFen.of_eq (packR_of_major h)
  next h =>
    exact wordOf_storeSize rfl fun hz => (congrArg (packM _ _ _ · _) (size_of_store hz)).trans (packM_of_major h)
  next h => exact wordOf_decodeVmem h
  next h => exact wordOf_decodeQmem.of_eq (packR_of_major h)
  next h => exact wordOf_decodeCpy.of_eq (packR_of_major h)
  next h => exact wordOf_decodeStm.of_eq (packR_of_major h)
  next h => exact wordOf_decodeVi.of_eq (packV_of_major h)
  next h => exact wordOf_decodeVf.of_eq (packV_of_major h)
  next h => exact wordOf_decodeVx.of_eq (packV_of_major h)
  next h => exact wordOf_decodeVs.of_eq (packV_of_major h)
  next h => exact wordOf_decodeVr.of_eq (packV_of_major h)
  next h =>
    exact wordOf_mbz rfl fun hz =>
      (congrArg (packI _ _ · _) (place_of_res (beq_iff_eq.mp hz))).trans (packI_of_major h)
  iterate 8 next h => exact wordOf_decodeDot.of_eq (packD_of_major h rfl)
  next h => exact wordOf_decodeQm.of_eq (packR_of_major h)
  next h => exact wordOf_decodeQf.of_eq (packV_of_major h)
  next h => exact wordOf_decodeQi.of_eq (packV_of_major h)
  next h => exact wordOf_decodeQr.of_eq (packV_of_major h)
  next h => exact wordOf_decodeMx.of_eq (packR_of_major h)
  next h => exact wordOf_decodeBk.of_eq (packR_of_major h)
  next h => exact wordOf_decodePl.of_eq (packR_of_major h)
  next h => exact wordOf_decodeXc.of_eq (packR_of_major h)
  next => exact wordOf_error _

/-- A word decodes where its major and function give an instruction that is well formed (R124). -/
theorem decodeWord_ok {w : W32} {i : Instr} (h : decodeWord w = .ok i) : decodeRaw w = .ok i ∧ i.ill = none := by
  unfold decodeWord at h
  split at h
  · cases h
  next j hr =>
    split at h
    · cases h
    next hw =>
      cases h
      exact ⟨hr, hw⟩

/-- Settles O3: the decoder of every major opcode answers only instructions whose encoding is the packed word. -/
theorem decodeThenEncode : Obligations.DecodeThenEncode := by
  intro w i h
  obtain ⟨hr, hi⟩ := decodeWord_ok h
  exact ⟨wordOf_decodeRaw w i hr, by rw [Instr.wellFormed, hi]; rfl⟩

end Sys2Proof.Laws
end

section
/-!
PROOFS. O11: what the BIT, MOVK, LEA and ADR forms compute. The helpers of Machine/Bits.lean and Machine/Alu.lean are
described bit by bit, and each instruction is then a Write(d, x) of such a value.
-/

namespace Sys2Proof.Machine

/-! Fields of a word as numbers. -/

theorem fld_eq (x : Word) (lo n : Nat) : fld x lo n = x.toNat / 2 ^ lo % 2 ^ n := by
  rw [fld, Nat.shiftRight_eq_div_pow]

/-- A field that reaches the top of the word is a quotient. -/
theorem fld_top (x : Word) {lo n : Nat} (h : lo + n = 64) : fld x lo n = x.toNat / 2 ^ lo := by
  rw [fld_eq, Nat.mod_eq_of_lt]
  rw [Nat.div_lt_iff_lt_mul (by positivity), ← Nat.pow_add, Nat.add_comm, h]
  exact x.isLt

/-! Counts (R159). -/

theorem clzN_le (n x : Nat) : clzN n x ≤ n := by
  induction n with
  | zero => simp [clzN]
  | succ n ih => unfold clzN; split <;> omega

/-- The bits above the counted one are clear. -/
theorem testBit_above_clzN {n x i : Nat} (h : i < clzN n x) : x.testBit (n - 1 - i) = false := by
  induction n generalizing i with
  | zero => simp [clzN] at h
  | succ n ih =>
    unfold clzN at h
    split at h
    next => omega
    next hb =>
      cases i with
      | zero => simpa using hb
      | succ i =>
        rw [show n + 1 - 1 - (i + 1) = n - 1 - i by omega]
        exact ih (by omega)

/-- Where a bit is set, the count ends at one. -/
theorem testBit_at_clzN {n x : Nat} (h : clzN n x < n) : x.testBit (n - 1 - clzN n x) = true := by
  induction n with
  | zero => omega
  | succ n ih =>
    unfold clzN at h ⊢
    split at h
    next hb => simp [hb]
    next hb =>
      rw [if_neg hb, show n + 1 - 1 - (1 + clzN n x) = n - 1 - clzN n x by omega]
      exact ih (by omega)

theorem ctzN_le (n x : Nat) : ctzN n x ≤ n := by
  induction n generalizing x with
  | zero => simp [ctzN]
  | succ n ih => have := ih (x / 2); unfold ctzN; split <;> omega

theorem testBit_below_ctzN {n x i : Nat} (h : i < ctzN n x) : x.testBit i = false := by
  induction n generalizing x i with
  | zero => simp [ctzN] at h
  | succ n ih =>
    unfold ctzN at h
    split at h
    next => omega
    next hb =>
      cases i with
      | zero => simpa [Nat.testBit_zero] using hb
      | succ i =>
        rw [Nat.testBit_succ]
        exact ih (by omega)

theorem testBit_at_ctzN {n x : Nat} (h : ctzN n x < n) : x.testBit (ctzN n x) = true := by
  induction n generalizing x with
  | zero => omega
  | succ n ih =>
    unfold ctzN at h ⊢
    split at h
    next hb => simp [hb, Nat.testBit_zero]
    next hb =>
      rw [if_neg hb, Nat.add_comm, Nat.testBit_succ]
      exact ih (by omega)

/-- The set bits are counted one by one. -/
theorem popN_eq_countP (n x : Nat) : popN n x = (List.range n).countP fun i => x.testBit i := by
  induction n generalizing x with
  | zero => rfl
  | succ n ih =>
    have h0 : x % 2 = if x.testBit 0 then 1 else 0 := by
      rw [Nat.testBit_zero]
      rcases Nat.mod_two_eq_zero_or_one x with h | h <;> simp [h]
    have hs : (fun i => x.testBit i) ∘ Nat.succ = fun i => (x / 2).testBit i := by
      funext i
      exact Nat.testBit_succ ..
    rw [popN, ih, List.range_succ_eq_map, List.countP_cons, List.countP_map, hs, h0, Nat.add_comm]

/-! Reversals (R159). -/

theorem brevN_lt (n x : Nat) : brevN n x < 2 ^ n := by
  induction n generalizing x with
  | zero => simp [brevN]
  | succ n ih =>
    have := ih (x / 2)
    have := Nat.mul_le_mul_right (2 ^ n) (show x % 2 ≤ 1 by omega)
    rw [brevN, Nat.pow_succ]
    omega

theorem testBit_brevN {n i : Nat} (x : Nat) (h : i < n) : (brevN n x).testBit i = x.testBit (n - 1 - i) := by
  induction n generalizing x with
  | zero => omega
  | succ n ih =>
    rw [brevN, Nat.mul_comm, Nat.testBit_two_pow_mul_add _ (brevN_lt ..)]
    split
    next lt => rw [ih _ lt, ← Nat.testBit_succ, show (n - 1 - i).succ = n + 1 - 1 - i by omega]
    next ge =>
      obtain rfl : i = n := by omega
      simp [Nat.testBit_zero]

theorem getLsbD_brev (x : Word) {i : Nat} (h : i < 64) :
    (BitVec.ofNat 64 (brevN 64 x.toNat)).getLsbD i = x.getLsbD (63 - i) := by
  rw [BitVec.getLsbD_ofNat, testBit_brevN _ h, BitVec.testBit_toNat, decide_eq_true h, Bool.true_and]

/-- Byte i of a little-endian number is byte i of its list (R4). -/
theorem ofNat_natLE_shift (bs : List Byte) (i : Nat) : BitVec.ofNat 8 (natLE bs >>> (8 * i)) = bs.getD i 0 := by
  induction bs generalizing i with
  | nil => simp [natLE]
  | cons b bs ih =>
    cases i with
    | zero =>
      apply BitVec.eq_of_toNat_eq
      have := b.isLt
      simp [natLE]
      omega
    | succ i =>
      rw [List.getD_cons_succ, ← ih, natLE, Nat.mul_succ, Nat.add_comm (8 * i), Nat.shiftRight_add]
      congr 2
      have := b.isLt
      rw [Nat.shiftRight_eq_div_pow]
      omega

/-- Byte i of the list of a number is its byte i (R4). -/
theorem getD_bytesLE {n i : Nat} (x : Nat) (h : i < n) : (bytesLE n x).getD i 0 = BitVec.ofNat 8 (x >>> (8 * i)) := by
  induction n generalizing x i with
  | zero => omega
  | succ n ih =>
    cases i with
    | zero => simp [bytesLE]
    | succ i =>
      rw [bytesLE, List.getD_cons_succ, ih _ (by omega), Nat.mul_succ, Nat.add_comm (8 * i), Nat.shiftRight_add,
        Nat.shiftRight_eq_div_pow x 8]

theorem length_bytesLE (n x : Nat) : (bytesLE n x).length = n := by
  induction n generalizing x with
  | zero => rfl
  | succ n ih => simp [bytesLE, ih]

theorem natLE_lt (bs : List Byte) : natLE bs < 2 ^ (8 * bs.length) := by
  induction bs with
  | nil => simp [natLE]
  | cons b bs ih =>
    have := b.isLt
    rw [natLE, List.length_cons, Nat.mul_succ, Nat.pow_add]
    omega

/-- BSWAP's byte i is byte 7 - i of its operand (R159). -/
theorem extract_bswapW (a : Word) {i : Nat} (h : i < 8) :
    (bswapW a).extractLsb' (8 * i) 8 = a.extractLsb' (8 * (7 - i)) 8 := by
  have lt : natLE (bytesLE 8 a.toNat).reverse < 2 ^ 64 := by
    simpa [length_bytesLE] using natLE_lt (bytesLE 8 a.toNat).reverse
  have hr : (bytesLE 8 a.toNat).reverse.getD i 0 = (bytesLE 8 a.toNat).getD (7 - i) 0 := by
    rw [List.getD_eq_getElem?_getD, List.getElem?_reverse (by simpa [length_bytesLE] using h), length_bytesLE,
      List.getD_eq_getElem?_getD, show 8 - 1 - i = 7 - i by omega]
  calc (bswapW a).extractLsb' (8 * i) 8
      = BitVec.ofNat 8 (natLE (bytesLE 8 a.toNat).reverse >>> (8 * i)) := by
        rw [BitVec.extractLsb', bswapW, BitVec.toNat_ofNat, Nat.mod_eq_of_lt lt]
    _ = a.extractLsb' (8 * (7 - i)) 8 := by rw [ofNat_natLE_shift, hr, getD_bytesLE _ (by omega)]; rfl

/-! Fields (R148, R159, R160). -/

/-- Replacing a field, by bits: those of the value inside, the old ones outside. -/
theorem testBit_setFld (x lo n v i : Nat) : (setFld x lo n v).testBit i =
    if lo ≤ i ∧ i < lo + n then v.testBit (i - lo) else x.testBit i := by
  have h0 : x % 2 ^ lo < 2 ^ lo := Nat.mod_lt _ (by positivity)
  have hv : v % 2 ^ n < 2 ^ n := Nat.mod_lt _ (by positivity)
  have hx : x = 2 ^ lo * (2 ^ n * (x >>> lo / 2 ^ n) + x >>> lo % 2 ^ n) + x % 2 ^ lo := by
    rw [Nat.div_add_mod, Nat.shiftRight_eq_div_pow, Nat.div_add_mod]
  rw [Nat.mul_add] at hx
  have hf : setFld x lo n v = 2 ^ lo * (2 ^ n * (x >>> lo / 2 ^ n) + v % 2 ^ n) + x % 2 ^ lo := by
    rw [setFld, Nat.mul_comm _ (2 ^ lo), Nat.mul_comm _ (2 ^ lo), Nat.mul_add]
    omega
  rw [hf, Nat.testBit_two_pow_mul_add _ h0]
  split
  next lt => rw [if_neg (by omega), Nat.testBit_mod_two_pow]; simp [lt]
  next ge =>
    rw [Nat.testBit_two_pow_mul_add _ hv]
    split
    next lt => rw [if_pos (by omega), Nat.testBit_mod_two_pow]; simp [lt]
    next gt =>
      rw [if_neg (by omega), ← Nat.shiftRight_eq_div_pow, Nat.testBit_shiftRight, Nat.testBit_shiftRight]
      congr 1
      omega

/-- ZExt(x, n) truncates and extends by zeros (R148). -/
theorem zextN_eq (x : Word) (n : Nat) : zextN x n = (x.setWidth n).setWidth 64 := by
  apply BitVec.eq_of_toNat_eq
  simp [zextN]

/-- SExt(x, n) truncates and extends by the sign (R148). -/
theorem sextN_eq (x : Word) {n : Nat} (h0 : 0 < n) (h1 : n ≤ 64) : sextN x n = (x.setWidth n).signExtend 64 := by
  rw [sextN, if_neg (by omega)]
  split
  next =>
    obtain rfl : n = 64 := by omega
    simp
  next =>
    have hp : 2 ^ n = 2 * 2 ^ (n - 1) := by rw [← Nat.pow_succ', Nat.succ_eq_add_one, Nat.sub_add_cancel h0]
    have lt : x.toNat % 2 ^ n < 2 ^ n := Nat.mod_lt _ (by positivity)
    have le : 2 ^ n ≤ 2 ^ 64 := Nat.pow_le_pow_right (by decide) h1
    have hm : (x.setWidth n).msb = decide (2 ^ (n - 1) ≤ x.toNat % 2 ^ n) := by
      rw [BitVec.msb_eq_decide, BitVec.toNat_setWidth]
    apply BitVec.eq_of_toNat_eq
    rw [BitVec.toNat_signExtend, hm, BitVec.toNat_setWidth, BitVec.toNat_setWidth]
    generalize x.toNat % 2 ^ n = v at lt
    dsimp only
    split
    next small => rw [BitVec.toNat_ofNat, if_neg (by simpa using small)]; rfl
    next large => rw [BitVec.toNat_ofNat, if_pos (by simpa using large)]; omega

theorem getLsbD_zextN (x : Word) {n : Nat} (h : n ≤ 64) (i : Nat) :
    (zextN x n).getLsbD i = (decide (i < n) && x.getLsbD i) := by
  rw [zextN_eq]
  by_cases hi : i < n
  · simp [hi, show i < 64 by omega]
  · simp [hi]

theorem extWidth_eq (h : BitVec 1) (n : BitVec 5) : extWidth h n = 32 * h.toNat + n.toNat + 1 := by
  rw [extWidth, Nat.mul_comm]

/-- The place and the length of a bit field, from g[b] (R159). -/
theorem bitField_eq (b : Word) :
    bitField b = (b.toNat % 64, min (b.toNat / 256 % 64 + 1) (64 - b.toNat % 64)) := by
  simp only [bitField, fld_eq, Nat.pow_zero, Nat.div_one, Nat.reducePow]

theorem getLsbD_bextW (a b : Word) (i : Nat) : (bextW a b).getLsbD i =
    (decide (i < min (b.toNat / 256 % 64 + 1) (64 - b.toNat % 64)) && a.getLsbD (b.toNat % 64 + i)) := by
  rw [bextW, bitField_eq, getLsbD_zextN _ (by dsimp only; omega), BitVec.getLsbD_ushiftRight]

theorem getLsbD_binsW (old a b : Word) {i : Nat} (h : i < 64) : (binsW old a b).getLsbD i =
    if b.toNat % 64 ≤ i ∧ i < b.toNat % 64 + min (b.toNat / 256 % 64 + 1) (64 - b.toNat % 64) then
      a.getLsbD (i - b.toNat % 64) else old.getLsbD i := by
  simp only [binsW, bitField_eq, BitVec.getLsbD_ofNat, h, decide_true, Bool.true_and, testBit_setFld,
    BitVec.testBit_toNat]

theorem getLsbD_movkValue (old : Word) (pos : BitVec 2) (keep : BitVec 1) (k : BitVec 16) {i : Nat} (h : i < 64) :
    (movkValue old pos keep k).getLsbD i =
      if 16 * pos.toNat ≤ i ∧ i < 16 * pos.toNat + 16 then k.getLsbD (i - 16 * pos.toNat)
      else decide (keep = 1 ∧ old.getLsbD i = true) := by
  have hold : (if keep = 1 then old.toNat else 0).testBit i = decide (keep = 1 ∧ old.getLsbD i = true) := by
    by_cases hk : keep = 1
    · simp only [hk, if_true, BitVec.testBit_toNat, true_and, Bool.decide_eq_true]
    · simp only [hk, if_false, Nat.zero_testBit, false_and, decide_false]
  simp only [movkValue, BitVec.getLsbD_ofNat, h, decide_true, Bool.true_and, testBit_setFld,
    BitVec.testBit_toNat, hold]

/-! WIDF and GCOORD (R33, R162). -/

/-- A field of WID starts above the widths of those before it (R33). -/
theorem widStart_eq_sum (widx : Word) (n : Nat) :
    widStart widx n = ((List.range n).map fun j => widx.toNat / 2 ^ (6 * j) % 64).sum := by
  induction n with
  | zero => rfl
  | succ n ih => simp [widStart, ih, List.range_succ, widWidth, fld_eq]

theorem widField_eq (wid widx : Word) (i : Nat) : widField wid widx i =
    if i < widx.toNat / 2 ^ 36 % 8 then
      BitVec.ofNat 64 (wid.toNat / 2 ^ ((List.range i).map fun j => widx.toNat / 2 ^ (6 * j) % 64).sum
        % 2 ^ (widx.toNat / 2 ^ (6 * i) % 64))
    else 0 := by
  simp only [widField, widWidth, widStart_eq_sum, fld_eq, Nat.reducePow]

/-- GCOORD by the fields of a location (R10, R162). -/
theorem gcoordOf_eq (s : State) (x : Word) :
    let l := x.toNat
    let dev := l / 2 ^ 20 % 2 ^ 12
    let die := l / 2 ^ 17 % 8
    let cl := l / 2 ^ 10 % 128
    let cx := 16 * (die % 4) + 4 * (cl % 4) + l / 2 ^ 7 % 8 % 4
    let cy := 64 * (die / 4) + 2 * (cl / 4) + l / 2 ^ 7 % 8 / 4
    gcoordOf s x =
      if l / 2 ^ 32 ≠ 0 ∨ l % 128 ≠ 0 ∨ dev = s.loc.dev.toNat ∧ presentClusters s.grade ≤ cl then BitVec.allOnes 64
      else BitVec.ofNat 64 (dev * 2 ^ 44 + dev * 2 ^ 32 + cy * 2 ^ 24 + cx * 2 ^ 16 + cy * 2 ^ 8 + cx) := by
  dsimp only
  rw [gcoordOf, fld_top x (lo := 32) rfl]
  simp only [fld_eq, coords, Nat.pow_zero, Nat.div_one, Nat.reducePow, ← or_assoc, ite_or]

/-! The instructions. -/

/-- An instruction that ends in Write(d, x) and retires writes g[d] and nothing else. -/
theorem completes_writeG {i : Instr} {s : State} {d : BitVec 5} {x : Word} (e : exec i s = .next (writeG s d x)) :
    Completes i s fun t => WritesG s t d x := ⟨_, e, writesG_retire s d x⟩

/-- A count is small enough to be a word. -/
theorem toNat_ofNat_64 {n : Nat} (h : n ≤ 64) : (BitVec.ofNat 64 n : Word).toNat = n := by
  rw [BitVec.toNat_ofNat, Nat.mod_eq_of_lt (by omega)]

/-- Settles O11: each form ends in Write(d, x), and x has the bits that R159, R160 and R162 give. -/
theorem bitAndAddressForms : Obligations.BitAndAddressForms := by
  unfold Obligations.BitAndAddressForms
  refine ⟨fun s d a b h n => ⟨?clz, ?ctz, ?popc, ?brev, ?bswap, ?sext, ?zext, ?bext, ?bins⟩,
    fun s d a b pos keep k sc disp f => ⟨?movk, ?lea, ?self, ?cload, ?widf, ?gcoord⟩⟩
  case clz =>
    refine ⟨_, completes_writeG rfl, ?_⟩
    simp only [toNat_ofNat_64 (clzN_le _ _)]
    exact ⟨clzN_le _ _, fun i => testBit_above_clzN, testBit_at_clzN⟩
  case ctz =>
    refine ⟨_, completes_writeG rfl, ?_⟩
    simp only [toNat_ofNat_64 (ctzN_le _ _)]
    exact ⟨ctzN_le _ _, fun i => testBit_below_ctzN, testBit_at_ctzN⟩
  case popc =>
    have count : popN 64 (gv s a).toNat = (List.range 64).countP fun i => (gv s a).getLsbD i := popN_eq_countP ..
    rw [← count]
    exact completes_writeG rfl
  case brev => exact ⟨_, completes_writeG rfl, fun i hi => getLsbD_brev _ hi⟩
  case bswap => exact ⟨_, completes_writeG rfl, fun i hi => extract_bswapW _ hi⟩
  case sext =>
    rw [← extWidth_eq, ← sextN_eq _ (by simp [extWidth]) (by rw [extWidth_eq]; omega)]
    exact completes_writeG rfl
  case zext =>
    rw [← extWidth_eq, ← zextN_eq]
    exact completes_writeG rfl
  case bext => exact ⟨_, completes_writeG rfl, getLsbD_bextW _ _⟩
  case bins => exact ⟨_, completes_writeG rfl, fun i hi => getLsbD_binsW _ _ _ hi⟩
  case movk => exact ⟨_, completes_writeG rfl, fun i hi => getLsbD_movkValue _ _ _ _ hi⟩
  case lea => exact completes_writeG rfl
  case self => exact completes_writeG rfl
  case cload => exact completes_writeG rfl
  case widf =>
    rw [← widField_eq]
    exact completes_writeG rfl
  case gcoord =>
    rw [← gcoordOf_eq]
    exact completes_writeG rfl

end Sys2Proof.Machine
end

section
/-!
PROOFS. O6: fetching, and the step that issues a decoded instruction: one lemma for each function between `step` and
`exec`.
-/

namespace Sys2Proof.Machine

/-! Fetching (R103, R104). -/

/-- A byte below the bits of a word. -/
theorem toNat_append_byte {n : Nat} (x : BitVec n) (b : Byte) : (x ++ b).toNat = x.toNat * 256 + b.toNat := by
  rw [BitVec.toNat_append, ← Nat.shiftLeft_add_eq_or_of_lt b.isLt, Nat.shiftLeft_eq]

/-- Four little-endian bytes are the word of the bytes (R4). -/
theorem ofNat_natLE_four (b0 b1 b2 b3 : Byte) : BitVec.ofNat 32 (natLE [b0, b1, b2, b3]) = b3 ++ b2 ++ b1 ++ b0 := by
  apply BitVec.eq_of_toNat_eq
  simp only [natLE, BitVec.toNat_ofNat, toNat_append_byte]
  omega

/-- The checks of R104 pass exactly at the aligned addresses of TCM below BOUND. -/
theorem fetchFault_none {s : State} {a : Word} : fetchFault s a = none ↔
    a.toNat % 4 = 0 ∧ a.toNat < 0x8000 ∧ a.toNat < s.core.sys.xbound.toNat % 2 ^ 16 := by
  have h2 : fld a 0 2 = a.toNat % 4 := rfl
  have h15 : fld a 15 49 = a.toNat / 2 ^ 15 := fld_top a rfl
  have hb : fld s.core.sys.xbound 0 16 = s.core.sys.xbound.toNat % 2 ^ 16 := rfl
  simp only [fetchFault, h2, h15, hb]
  split
  next misaligned => simp; omega
  next =>
    split
    next outside => simp; omega
    next =>
      split
      next overlay => simp; omega
      next => simp; omega

/-- The word at an address inside TCM is its four bytes, little-endian (R103). -/
theorem fetchWord_bytes {s : State} {a : Word} (lt : a.toNat < 0x8000) :
    fetchWord s a = Memory.get s.mem (tcmBase s + a.toNat + 3) ++ Memory.get s.mem (tcmBase s + a.toNat + 2)
      ++ Memory.get s.mem (tcmBase s + a.toNat + 1) ++ Memory.get s.mem (tcmBase s + a.toNat + 0) := by
  have h : fld a 0 15 = a.toNat := by rw [fld_eq]; omega
  simp only [fetchWord, h, tcmWord, readNat, Memory.bytes, ofNat_natLE_four, Nat.add_assoc, Nat.reduceAdd, Nat.add_zero]

/-! The issue of a decoded instruction. -/

@[simp] theorem focus_cur (s : State) (k : Fin 11) : (focus s k).core.cur = k := by
  unfold focus
  dsimp only
  split <;> simp

/-- Outside a frame, at an entry that is neither nullified nor a delay slot, the decoded instruction is due (R124,
R136). -/
theorem due_of_decode {s : State} {k : Fin 11} {i : Instr} (hf : (s.at k).frame = none)
    (hn : (s.at k).queue.n0 = false) (hd : (s.at k).queue.d0 = false)
    (hc : fetchFault s (s.at k).queue.q0 = none)
    (hi : decode (s.at k).longMode (fetchWord s (s.at k).queue.q0) = .ok i) : due s k = .ins i := by
  simp [due, hf, hn, hd, hc, hi]

/-- With an instruction due that stalls on no register, an issue that does not stall is the cycle's (R126, R129). -/
theorem tryIssue_of_next {s t : State} {k : Fin 11} {i : Instr} (hs : issuable s k = true)
    (hi : due (focus s k) k = .ins i) (hr : regStall ((focus s k).at k) i = false)
    (ht : issueDue (focus s k) = .next t) (hst : t.core.stalled = false) : tryIssue s k = some (.next t) := by
  simp [tryIssue, hs, dueStalls, hi, hr, ht, unlessStalled, hst]

/-- Without active streams nothing is popped (R134). -/
theorem popAll_of_no_streams {s : State} {k : Fin 11} (h : (s.at k).streams = []) (rs : List Reg) :
    popAll k rs s = .ok s := by
  induction rs with
  | nil => rfl
  | cons r rs ih => simpa [popAll, popStream, Ctx.streamIn, h] using ih

/-- Without error marks and streams, an instruction runs with its registers kept, or takes its PRIV trap (R124). -/
theorem runInstr_plain {s : State} (i : Instr) (hs : s.ctx.streams = []) (hm : s.ctx.pend.marks = []) :
    runInstr i s = if privFails s i then .next (trapPriv s) else
      exec i (s.modCore fun c => { c with undo := some ⟨s.ctx.regs, [], s.agenda, s.cluster.ranges⟩ }) := by
  have he : errorMet s.ctx i = none := by simp [errorMet, hm]
  have hw : streamWritten s.ctx i = none := by simp [streamWritten, Ctx.streamIn, hs]
  have hp (u : Undo) (rs : List Reg) : popAll s.core.cur rs (s.modCore fun c => { c with undo := some u }) =
      .ok (s.modCore fun c => { c with undo := some u }) :=
    popAll_of_no_streams (s := s.modCore fun c => { c with undo := some u }) hs rs
  simp only [runInstr, he, hw, popAndRun, hs, hp]

/-- The privilege check looks at no breakpoint state (R124). -/
theorem privFails_skip (s : State) (b : Bool) (i : Instr) :
    privFails (s.mod fun c => { c with skip := b }) i = privFails s i := by
  have hl : (s.mod fun c => { c with skip := b }).ctx.level = s.ctx.level := by simp
  have hh : helperLevel (s.mod fun c => { c with skip := b }) = helperLevel s := by simp [helperLevel]
  unfold privFails
  rw [hl, hh]

/-- A step without a message is the cycle of the slot that the decision of R127 picks. -/
theorem step_of_pick {s : State} {p : Pick} {credit : Bool} (hn : nextEvent s = none)
    (hr : running { s with tick := s.tick + 1 } = true)
    (hp : pick { s with tick := s.tick + 1 } = (some p, credit))
    (hu : ¬(p.slot = 0 ∧ upcallDue { s with tick := s.tick + 1 } = true)) :
    step s = issueCycle { s with tick := s.tick + 1 } p := by
  have hu' (x : Prop) : ¬(p.slot = 0 ∧ upcallDue { s with tick := s.tick + 1 } = true ∧ x) :=
    fun h => hu ⟨h.1, h.2.1⟩
  unfold step
  rw [hn]
  unfold stepWith coreCycle
  rw [hr, hp]
  simp only [cycleOf, if_neg (hu' _), Bool.not_true, Bool.false_eq_true, if_false]

/-- Where neither an error nor a breakpoint comes first, the issue of the due instruction is its meaning, or the PRIV
trap (R124). -/
theorem issueDue_plain {s : State} {i : Instr} (he : longErrorDue s = none) (hi : due s s.core.cur = .ins i)
    (hb : breaks s = none) (hs : s.ctx.streams = []) (hm : s.ctx.pend.marks = []) :
    issueDue s = if privFails s i then .next (trapPriv (s.mod fun c => { c with skip := false })) else
      exec i ((s.mod fun c => { c with skip := false }).modCore fun c =>
        { c with undo := some ⟨s.ctx.regs, [], s.agenda, s.cluster.ranges⟩ }) := by
  have run : issueDue s = runInstr i (s.mod fun c => { c with skip := false }) := by
    simp only [issueDue, he, issueWord, hi, hb]
  rw [run, runInstr_plain i (by simpa using hs) (by simpa using hm), privFails_skip]
  simp only [State.mod_ctx, State.mod_agenda, State.mod_cluster]

/-- The cycle of an issue (R127, R129). -/
theorem issueCycle_of_next {s t : State} {p : Pick} (h : tryIssue (decided s p) p.slot = some (.next t)) :
    issueCycle s p = .next (tickClock (noteWaiters (llkStalls s (some p.slot) slots (llkCount s t p.slot)))) := by
  rw [issueCycle, h, finishCycle]

/-- Settles O6: the four bytes of a fetchable address make the word, and a step without a message is the issue of the
picked slot, whose due instruction is the decoded one. -/
theorem stepRunsDecodedInstruction : Obligations.StepRunsDecodedInstruction := by
  unfold Obligations.StepRunsDecodedInstruction
  refine ⟨?_, ?_, ?_, ?_⟩
  · intro s a h
    obtain ⟨aligned, inside, _⟩ := fetchFault_none.mp h
    exact ⟨fetchWord_bytes inside, by omega, aligned⟩
  · intro s a inside aligned below
    exact fetchFault_none.mpr ⟨aligned, by omega, below⟩
  · intro s h
    obtain ⟨_, inside, _⟩ := fetchFault_none.mp h
    simp at inside
  · intro s t i p credit s0 s1 c u sk s2 hn hr hp hu hs hf hn0 hd0 hst hm hc hi hb hreg he ht hstall
    have hfocus : focus (decided s0 p) p.slot = s1 := rfl
    clear_value s1
    have hcur : s1.core.cur = p.slot := by rw [← hfocus, focus_cur]
    have hat : s1.at p.slot = c := congrArg s1.at hcur.symm
    have hdue : due s1 p.slot = .ins i :=
      due_of_decode (hat ▸ hf) (hat ▸ hn0) (hat ▸ hd0) (hat ▸ hc) (hat ▸ hi)
    have hrun : issueDue s1 = .next t := (issueDue_plain he (hcur ▸ hdue) hb hst hm).trans ht
    have htry : tryIssue (decided s0 p) p.slot = some (.next t) :=
      tryIssue_of_next hs (hfocus ▸ hdue) (hfocus ▸ hat ▸ hreg) (hfocus ▸ hrun) hstall
    exact (step_of_pick hn hr hp hu).trans (issueCycle_of_next htry)

end Sys2Proof.Machine
end

section
/-!
PROOFS. O7: the trap of a helper, step by step; what a transfer leaves in the queue; what is due at an entry by its
flags.
-/

namespace Sys2Proof.Machine

/-! What the steps of a trap leave of the contexts (R366 to R369). -/

@[simp] theorem writeBytes_at (s : State) (pa : Nat) (bs : List Byte) (i : Fin 11) : (writeBytes s pa bs).at i = s.at i :=
  rfl

/-- The end of an LLK (R255) changes a context in its lock alone. -/
theorem endLlk_at (s : State) (i : Fin 11) : (endLlk s i).at i = { s.at i with llk := none } := by
  unfold endLlk
  split
  next none => rw [← none]
  next => simp

@[simp] theorem endLlk_cur (s : State) (i : Fin 11) : (endLlk s i).core.cur = s.core.cur := by
  unfold endLlk
  split <;> simp

/-- The failure of a phase (R344) changes the exchange and what goes out, and nothing of the core. -/
@[simp] theorem failPhase_core (s : State) (i : Fin 11) : (failPhase s i).core = s.core := by
  unfold failPhase failRun
  dsimp only
  split
  next => split <;> simp
  next => rfl

@[simp] theorem failPhase_at (s : State) (i j : Fin 11) : (failPhase s i).at j = s.at j := by
  simp only [State.at, failPhase_core]

/-- A machine check that writes no frames stops the core and leaves its contexts (R390). -/
theorem machineCheck_core (s : State) (code : Cause) (addr : Word) :
    (machineCheck s code addr false).core = { s.core with stopped := true, machineCheck := true, undo := none } := by
  simp [machineCheck, stopIssue, logCheck, logError]

/-- Writing the frame of a slot (R369), or the machine check where that fails (R368), changes its context at most in
the mark that it has a frame, and the slot that issues stays. -/
theorem frameOrCheck_at (s : State) (i : Fin 11) (code : Cause) :
    (∃ b, (frameOrCheck s i code).at i = { s.at i with framed := b })
      ∧ (frameOrCheck s i code).core.cur = s.core.cur := by
  unfold frameOrCheck writeFrame saveWrite
  cases saveAddr s (0x800 * i.val) with
  | none => exact ⟨⟨(s.at i).framed, by simp [State.at, machineCheck_core]⟩, by simp [machineCheck_core]⟩
  | some pa => exact ⟨⟨true, by simp⟩, by simp⟩

/-! The trap of a helper. -/

/-- The record of a helper's trap outside a frame (R366, R367): the queue, the cause and TVAL. -/
def helperRecord (c : Ctx) (t : Trap) : TrapRegs :=
  { epc0 := c.queue.q0, epc1 := c.queue.q1, epc2 := c.queue.q2, cause := causeWord t 0 0, tval := t.tval
    rptst := c.rptstNow ||| t.rpt }

/-- A helper that traps outside a frame has its record and its new state; its registers stand. -/
theorem helperTrap_at {s : State} {i : Fin 11} (hi : i ≠ 0) (hf : (s.at i).frame = none) (t : Trap) (st : SlotState) :
    (∃ b, (helperTrap s i t st).at i =
        { s.at i with trap := helperRecord (s.at i) t, slotState := st, framed := b })
      ∧ (helperTrap s i t st).core.cur = s.core.cur := by
  have hepc : (s.at i).epcNow = ((s.at i).queue.q0, (s.at i).queue.q1, (s.at i).queue.q2) := by simp [Ctx.epcNow, hf]
  obtain ⟨⟨b, hat⟩, hcur⟩ := frameOrCheck_at
    (s.setAt i { s.at i with trap := helperRecord (s.at i) t, slotState := st }) i t.code
  simp only [helperTrap, hepc]
  rw [State.setAt_at, if_neg hi, State.setAt_core_cur]
  exact ⟨⟨b, by simpa [helperRecord] using hat⟩, by simpa [helperRecord] using hcur⟩

/-- CAUSE holds the code of the trap in its low byte (R366). -/
theorem causeWord_code (t : Trap) (lvl slot : Nat) : (causeWord t lvl slot).toNat % 256 = t.code.toNat := by
  have := t.code.isLt
  simp only [causeWord, BitVec.toNat_ofNat]
  omega

/-- A helper's trap that no debugger takes ends its LLK, fails its phase, and makes its record (R255, R344, R367). -/
theorem trap_eq_helperTrap {s : State} (hc : s.core.cur ≠ 0) (hu : s.core.undo = none)
    (hd : s.core.sys.dbghost.getLsbD 12 = false) (code : Cause) (tval : Word) :
    trap s code tval = helperTrap (failPhase (endLlk s s.core.cur) s.core.cur) s.core.cur
      { code := code, tval := tval } .trapped := by
  have hdebug : ¬(code = 22 ∧ s.core.sys.dbghost.getLsbD 12 = true) := fun h => Bool.false_ne_true (hd.symm.trans h.2)
  simp only [trap, takeTrap, undoIssue, hu, trapIn, if_neg hdebug, if_pos hc]

/-- A trap of a helper outside a frame, whose instruction has changed nothing yet, is precise (R148, R366). -/
theorem trapsPrecisely_trap {s : State} (hc : s.core.cur ≠ 0) (hu : s.core.undo = none) (hf : s.ctx.frame = none)
    (hd : s.core.sys.dbghost.getLsbD 12 = false) (code : Cause) (tval : Word) :
    TrapsPrecisely s (trap s code tval) code.toNat tval := by
  let s1 := failPhase (endLlk s s.core.cur) s.core.cur
  let tr : Trap := { code := code, tval := tval }
  have hs1 : s1.at s.core.cur = { s.ctx with llk := none } := (failPhase_at _ _ _).trans (endLlk_at s s.core.cur)
  obtain ⟨⟨b, hat⟩, hcur⟩ := helperTrap_at (s := s1) hc (by rw [hs1]; exact hf) tr .trapped
  have hstay : (helperTrap s1 s.core.cur tr .trapped).core.cur = s.core.cur := by simpa [s1] using hcur
  have hctx : (trap s code tval).ctx =
      { s.ctx with llk := none, trap := helperRecord { s.ctx with llk := none } tr,
                   slotState := .trapped, framed := b } := by
    rw [trap_eq_helperTrap hc hu hd, State.ctx, hstay, hat, hs1]
  constructor
  all_goals rw [hctx]
  case cause => exact causeWord_code tr 0 0
  case epc => exact ⟨rfl, rfl, rfl⟩
  all_goals rfl

/-! What a transfer leaves in the queue (R136). -/

/-- A transfer issues from the queue that stands, whatever registers its instruction has written. -/
theorem transfers_transferTo {s u : State} (hq : u.ctx.queue = s.ctx.queue) (taken : Bool) (target : Word)
    (nul : BitVec 2) : Transfers s (transferTo u taken target nul) taken target nul := by
  have ht : (transferTo u taken target nul).ctx.queue = s.ctx.queue.transfer taken target nul := by
    rw [← hq]
    change (u.mod fun c => { c with queue := c.queue.transfer taken target nul }).ctx.queue = _
    rw [State.mod_ctx]
  constructor
  all_goals rw [ht]
  all_goals rfl

/-- The link of CALL and CALLR leaves the queue. -/
theorem linked_queue (s : State) : (linked s).ctx.queue = s.ctx.queue := by simp [linked, wg]

/-- Each of the thirteen transfers moves the queue as R136 has it, taken or not. -/
theorem transfers_of_mem {s : State} {i : Instr} {a b : BitVec 5} {nul : BitVec 2} {disp : BitVec 11} {far : BitVec 26}
    (h : i ∈ [.beq a b nul disp, .bne a b nul disp, .blt a b nul disp, .bge a b nul disp, .bltw a b nul disp,
      .bgew a b nul disp, .bbs a b nul disp, .bbc a b nul disp, .j far, .call far, .jr a, .callr a, .ret]) :
    Completes i s fun t => ∃ taken target n, Transfers s t taken target n := by
  have moved {i : Instr} {u : State} {taken : Bool} {target : Word} {n : BitVec 2}
      (e : exec i s = .next (transferTo u taken target n)) (hq : u.ctx.queue = s.ctx.queue) :
      Completes i s fun t => ∃ taken target n, Transfers s t taken target n :=
    ⟨_, e, taken, target, n, transfers_transferTo hq taken target n⟩
  simp only [List.mem_cons, List.not_mem_nil, or_false] at h
  obtain rfl | rfl | rfl | rfl | rfl | rfl | rfl | rfl | rfl | rfl | rfl | rfl | rfl := h
  all_goals exact moved rfl (by simp only [linked_queue])

/-! What is due at an entry, by its flags (R136, R137). -/

/-- The instructions that may not issue from a delay slot. -/
theorem notInDelay_iff (i : Instr) : notInDelay i = true ↔
    (∃ n count sd sa sb, i = .rpt n count sd sa sb) ∨ (∃ d a b, i = .cpack d a b) ∨ ∃ d a b, i = .migrate d a b := by
  constructor
  · intro h
    unfold notInDelay at h
    split at h
    · exact .inl ⟨_, _, _, _, _, rfl⟩
    · exact .inr (.inl ⟨_, _, _, rfl⟩)
    · exact .inr (.inr ⟨_, _, _, rfl⟩)
    · cases h
  · rintro (⟨n, count, sd, sa, sb, rfl⟩ | ⟨d, a, b, rfl⟩ | ⟨d, a, b, rfl⟩) <;> rfl

/-- At a nullified entry nothing is due, whatever stands there. -/
theorem due_of_nullified {s : State} {k : Fin 11} (hf : (s.at k).frame = none) (hn : (s.at k).queue.n0 = true) :
    due s k = .nullified := by
  simp [due, hf, hn]

/-- At an entry that is not nullified the decoded instruction is due, or ILL where its place forbids it. -/
theorem due_of_decode_marked {s : State} {k : Fin 11} {i : Instr} (hf : (s.at k).frame = none)
    (hn : (s.at k).queue.n0 = false) (hc : fetchFault s (s.at k).queue.q0 = none)
    (hi : decode (s.at k).longMode (fetchWord s (s.at k).queue.q0) = .ok i) :
    due s k = if (s.at k).queue.d0 && notInDelay i then .illegal else .ins i := by
  simp [due, hf, hn, hc, hi]

/-- The issue of a nullified entry shifts the queue and does nothing else. -/
theorem issueDue_of_nullified {s : State} (he : longErrorDue s = none) (hdue : due s s.core.cur = .nullified) :
    issueDue s = .next (s.mod fun c => { c with queue := c.queue.shift (c.queue.q2 + 4) }) := by
  simp only [issueDue, he, issueWord, hdue]

/-- The issue of a word that is no instruction here is its ILL trap (R124). -/
theorem issueDue_of_illegal {s : State} (he : longErrorDue s = none) (hb : breaks s = none)
    (hdue : due s s.core.cur = .illegal) : issueDue s = .next (trap s 1 ((curWord s).zeroExtend 64)) := by
  simp only [issueDue, he, issueWord, hdue, hb]
  rfl

/-- The issue of an instruction that is due runs it. -/
theorem issueDue_of_ins {s : State} {i : Instr} (he : longErrorDue s = none) (hb : breaks s = none)
    (hdue : due s s.core.cur = .ins i) : issueDue s = runInstr i (s.mod fun c => { c with skip := false }) := by
  simp only [issueDue, he, issueWord, hdue, hb]

/-- Outside a frame the word that ILL and PRIV record is the one fetched (R365). -/
theorem curWord_of_no_frame {s : State} (hf : s.ctx.frame = none) : curWord s = fetchWord s s.ctx.queue.q0 := by
  simp [curWord, hf, fetchWord]

/-- Settles O7: the queue of each transfer is that of R136, and the flags of the entry at Q0 decide what is due. -/
theorem delaySlots : Obligations.DelaySlots := by
  unfold Obligations.DelaySlots
  refine ⟨?_, ?_⟩
  · intro s i a b nul disp far _ hi
    obtain ⟨t, ht, _, _, _, m⟩ := transfers_of_mem hi
    exact ⟨t, ht, m.q0, m.q1, m.d0, m.d1, m.d2⟩
  · intro s i hcur hu hf hb hdbg he q
    refine ⟨fun hn => issueDue_of_nullified he (due_of_nullified hf hn), ?_⟩
    intro hn hc hi barred
    have hdue : due s s.core.cur = if q.d0 && notInDelay i then .illegal else .ins i :=
      due_of_decode_marked hf hn hc hi
    have hbar : notInDelay i = true ↔ barred := notInDelay_iff i
    refine ⟨?_, ?_⟩
    · rintro ⟨hd, hbarred⟩
      have hill : due s s.core.cur = .illegal := by rw [hdue, hd, hbar.mpr hbarred]; rfl
      refine ⟨_, issueDue_of_illegal he hb hill, ?_⟩
      rw [curWord_of_no_frame hf]
      exact trapsPrecisely_trap hcur hu hf hdbg 1 _
    · intro hfree
      have hins : due s s.core.cur = .ins i := by
        rw [hdue]
        obtain hd | hnot := hfree
        · simp [hd]
        · simp [mt hbar.mp hnot]
      exact issueDue_of_ins he hb hins

end Sys2Proof.Machine
end

section
/-!
PROOFS. O15: a trap that is taken as its instruction completes: the pend bit of a helper's trap, and the entry of
slot 0 to the system level.
-/

namespace Sys2Proof.Machine

/-! What the steps of a trap leave of the other slots and of the core (R366 to R369). -/

@[simp] theorem State.modCore_at (s : State) (f : Core → Core) (i : Fin 11) (h : (f s.core).ctxs = s.core.ctxs) :
    (s.modCore f).at i = s.at i := by
  simp only [State.at, State.modCore_core, h]

/-- The end of an LLK leaves the other contexts. -/
theorem endLlk_at_ne (s : State) {i j : Fin 11} (h : j ≠ i) : (endLlk s i).at j = s.at j := by
  unfold endLlk
  split <;> simp [h]

@[simp] theorem endLlk_sys (s : State) (i : Fin 11) : (endLlk s i).core.sys = s.core.sys := by
  unfold endLlk
  split <;> simp

/-- The frame of a slot, or the machine check in its place, leaves the other contexts (R368, R369). -/
theorem frameOrCheck_at_ne (s : State) {i j : Fin 11} (h : j ≠ i) (code : Cause) :
    (frameOrCheck s i code).at j = s.at j := by
  unfold frameOrCheck writeFrame saveWrite
  cases saveAddr s (0x800 * i.val) with
  | none => simp [State.at, machineCheck_core]
  | some pa => simp [h]

/-- Two contexts with the same register files and user control registers read the same registers. -/
theorem keepsRegisters_of_eq {s t : State} (hr : t.ctx.regs = s.ctx.regs) (hu : t.ctx.user = s.ctx.user) :
    KeepsRegisters s t where
  g := fun r => by simp [gv, Ctx.g, hr]
  f := fun r => by simp [Ctx.f, hr]
  v := fun r => by simp [Ctx.v, hr]
  k := fun r => by simp [Ctx.k, hr]
  q := fun r => by simp [Ctx.q, hr]
  user := hu

theorem keepsMemory_of_eq {s t : State} (h : t.mem = s.mem) : KeepsMemory s t := fun a => by rw [h]

/-! Which way a trap goes (R367, R374). -/

/-- No debugger stops the slot: the trap is no breakpoint, or none is attached (R382). -/
def NoDebugger (s : State) (t : Trap) : Prop := ¬(t.code = 22 ∧ s.core.sys.dbghost.getLsbD 12 = true)

theorem noDebugger_of_detached {s : State} (h : s.core.sys.dbghost.getLsbD 12 = false) (t : Trap) : NoDebugger s t :=
  fun hd => Bool.false_ne_true (h.symm.trans hd.2)

theorem trapIn_helper {s : State} {i : Fin 11} {t : Trap} (hi : i ≠ 0) (hd : NoDebugger s t) (st : SlotState) :
    trapIn s i t st = helperTrap (failPhase (endLlk s i) i) i t st := by
  simp only [trapIn, if_neg hd, if_pos hi]

theorem trapIn_control {s : State} {t : Trap} (hl : (s.at 0).level = .c) (hd : NoDebugger s t) :
    trapIn s 0 t = enterSystem (failPhase (endLlk s 0) 0) t := by
  simp only [trapIn, if_neg hd, ne_eq, not_true_eq_false, if_false, hl]

/-- A helper's trap sets its PEND bit in the control context (R367). -/
theorem helperTrap_pend (s : State) {i : Fin 11} (hi : i ≠ 0) (t : Trap) (st : SlotState) :
    ((helperTrap s i t st).at 0).upcall.pend = (s.at 0).upcall.pend ||| BitVec.twoPow 10 (i.val - 1) := by
  simp [helperTrap, frameOrCheck_at_ne _ hi.symm, hi.symm]

/-! The entry to the system level (R374). -/

/-- The context of slot 0 once a trap has entered the system level: its record, level S, the queue at SVEC. -/
def systemEntry (c : Ctx) (t : Trap) (svec : Word) : Ctx :=
  { c with
    llk := none, level := .s, frame := none, idle := false, slotState := .ready, queue := Queue.at svec
    trap := { epc0 := c.epcNow.1, epc1 := c.epcNow.2.1, epc2 := c.epcNow.2.2
              cause := causeWord t (levelCode c.level) 0, tval := t.tval, rptst := c.rptstNow ||| t.rpt } }

/-- The system registers once the K registers have taken a record. -/
def SysRegs.keepTrap (k : SysRegs) (r : TrapRegs) : SysRegs :=
  { k with kepc0 := r.epc0, kepc1 := r.epc1, kepc2 := r.epc2, kcause := r.cause, ktval := r.tval, krptst := r.rptst }

/-- What a trap of the control context does to the core: its context enters the system level, the K registers take
the old record, and nothing else of the contexts or of memory changes. -/
structure EntersSystem (s u : State) (t : Trap) : Prop where
  context : u.at 0 = systemEntry (s.at 0) t s.core.sys.svec
  others : ∀ i, i ≠ 0 → u.at i = s.at i
  sys : u.core.sys = s.core.sys.keepTrap (s.at 0).trap
  cur : u.core.cur = s.core.cur
  mem : u.mem = s.mem

theorem entersSystem_trapIn {s : State} {t : Trap} (hl : (s.at 0).level = .c) (hd : NoDebugger s t) :
    EntersSystem s (trapIn s 0 t) t := by
  have h0 : (failPhase (endLlk s 0) 0).at 0 = { s.at 0 with llk := none } :=
    (failPhase_at _ _ _).trans (endLlk_at s 0)
  rw [trapIn_control hl hd]
  constructor
  case context => simp only [enterSystem, h0, State.setAt_at, if_true, failPhase_core, endLlk_sys]; rfl
  case others => intro i hi; simp [enterSystem, hi, endLlk_at_ne _ hi]
  case sys => simp only [enterSystem, h0, State.setAt_core_sys, State.modCore_core, failPhase_core, endLlk_sys]; rfl
  case cur => simp [enterSystem]
  case mem => simp [enterSystem]

/-! The record of TRAP and BRK: the queue after the instruction (R151). -/

/-- The flags of the queue after an instruction that is no transfer, as RPTST[63:57] records them (R136, R141). -/
theorem rptst_plain_flags {c : Ctx} (hf : c.frame = none) : (c.advance.rptstNow ||| 0).extractLsb' 57 7 =
    0#2 ++ (BitVec.ofBool c.queue.n2 ++ BitVec.ofBool c.queue.n1) ++ 0#1
      ++ (BitVec.ofBool c.queue.d2 ++ BitVec.ofBool c.queue.d1) := by
  simp only [Ctx.advance, Ctx.rptstNow, hf, Queue.shift]
  cases c.queue.n2 <;> cases c.queue.n1 <;> cases c.queue.d2 <;> cases c.queue.d1 <;> decide

theorem advance_frame {c : Ctx} (hf : c.frame = none) : c.advance.frame = none := by simp [Ctx.advance, hf]

theorem advance_queue {c : Ctx} (hf : c.frame = none) : c.advance.queue = c.queue.shift (c.queue.q2 + 4) := by
  simp [Ctx.advance, hf]

theorem epcNow_advance {c : Ctx} (hf : c.frame = none) :
    c.advance.epcNow = (c.queue.q1, c.queue.q2, c.queue.q2 + 4) := by
  simp [Ctx.epcNow, advance_frame hf, advance_queue hf, Queue.shift]

/-- The trap of TRAP and BRK: a cause, and TVAL from the code of the word (R151). -/
def codeTrap (s : State) (n : Cause) (code : BitVec 15) : Trap := { code := n, tval := trapTval s code }

/-- TVAL holds the instruction's own address beside the code (R151). -/
theorem trapTval_eq {s : State} (hf : s.ctx.frame = none) (code : BitVec 15) :
    trapTval s code = BitVec.ofNat 64 (s.ctx.queue.q0.toNat % 2 ^ 15 * 2 ^ 32 + code.toNat) := by
  simp only [trapTval, Ctx.pc, hf, fld_eq, Nat.pow_zero, Nat.div_one]

/-- CAUSE of such a trap: the level it came from and its code (R366). -/
theorem causeWord_codeTrap (s : State) (n : Cause) (code : BitVec 15) (lvl : Nat) :
    causeWord (codeTrap s n code) lvl 0 = BitVec.ofNat 64 (lvl * 2 ^ 40 + n.toNat) := by
  simp [causeWord, codeTrap]

/-- The context that a trap of TRAP or BRK leaves of a helper. -/
theorem trapIn_retire_helper {s : State} {t : Trap} (hc : s.core.cur ≠ 0) (hf : s.ctx.frame = none)
    (hd : NoDebugger s t) :
    let u := trapIn (retire s) s.core.cur t
    (∃ b, u.ctx = { s.ctx.advance with
        llk := none, trap := helperRecord s.ctx.advance t, slotState := .trapped, framed := b })
      ∧ (u.at 0).upcall.pend = (s.at 0).upcall.pend ||| BitVec.twoPow 10 (s.core.cur.val - 1) := by
  let s1 := failPhase (endLlk (retire s) s.core.cur) s.core.cur
  have hs1 : s1.at s.core.cur = { s.ctx.advance with llk := none } := by
    simp only [s1, failPhase_at, endLlk_at, retire_at, if_true]
  have h0 : s1.at 0 = s.at 0 := by
    simp only [s1, failPhase_at, endLlk_at_ne _ hc.symm, retire_at, if_neg hc.symm]
  obtain ⟨⟨b, hat⟩, hcur⟩ := helperTrap_at (s := s1) hc (by rw [hs1]; exact advance_frame hf) t .trapped
  have hstay : (helperTrap s1 s.core.cur t .trapped).core.cur = s.core.cur := by simpa [s1] using hcur
  rw [trapIn_helper (s := retire s) hc hd]
  refine ⟨⟨b, ?_⟩, ?_⟩
  · rw [State.ctx, hstay, hat, hs1]
    rfl
  · rw [helperTrap_pend _ hc, h0]

/-- Settles O15: the instruction retires and its trap is then taken, in a helper with its PEND bit, in the control
context by the entry to the system level. -/
theorem trapAndBreakInstructions : Obligations.TrapAndBreakInstructions := by
  unfold Obligations.TrapAndBreakInstructions
  refine ⟨?helper, ?control⟩
  case helper =>
    intro s code hf hc hd q goes
    have taken {i : Instr} (n : Cause)
        (e : exec i s = .next (trapIn (retire s) s.core.cur (codeTrap s n code))) : goes i n.toNat := by
      obtain ⟨⟨b, hctx⟩, hpend⟩ := trapIn_retire_helper hc hf (noDebugger_of_detached hd (codeTrap s n code))
      refine ⟨_, e, ?_⟩
      beta_reduce
      rw [hctx]
      have hcause := causeWord_codeTrap s n code 0
      rw [Nat.zero_mul, Nat.zero_add] at hcause
      exact ⟨rfl, congrArg Queue.q0 (advance_queue hf), congrArg Queue.q1 (advance_queue hf),
        congrArg Queue.q2 (advance_queue hf), hcause, rptst_plain_flags hf, trapTval_eq hf code, hpend,
        Ctx.advance_regs _, Ctx.advance_user _⟩
    exact ⟨taken 23 rfl, taken 22 rfl⟩
  case control =>
    intro s code hf hc hl _ hd q v goes
    have h0 : (retire s).at 0 = s.ctx.advance := by rw [retire_at, if_pos hc.symm]
    have taken {i : Instr} (n : Cause)
        (e : exec i s = .next (trapIn (retire s) s.core.cur (codeTrap s n code))) : goes i n.toNat := by
      rw [hc] at e
      obtain ⟨context, others, sys, cur, mem⟩ := entersSystem_trapIn (s := retire s)
        (by rw [h0, Ctx.advance_level, hl]) (noDebugger_of_detached hd (codeTrap s n code))
      have hctx : (trapIn (retire s) 0 (codeTrap s n code)).ctx =
          systemEntry s.ctx.advance (codeTrap s n code) v := by
        rw [State.ctx, cur, retire_core_cur, hc, context, h0, retire_core_sys]
      rw [h0, Ctx.advance_trap] at sys
      have hregs : KeepsRegisters s (trapIn (retire s) 0 (codeTrap s n code)) :=
        keepsRegisters_of_eq (by rw [hctx]; exact Ctx.advance_regs _) (by rw [hctx]; exact Ctx.advance_user _)
      have hcause := causeWord_codeTrap s n code (levelCode s.ctx.advance.level)
      rw [Ctx.advance_level, hl, levelCode, Nat.one_mul] at hcause
      have hothers (j : Fin 11) (hj : j ≠ 0) : (trapIn (retire s) 0 (codeTrap s n code)).at j = s.at j := by
        rw [others j hj, retire_at, if_neg (hc ▸ hj)]
      refine ⟨_, e, ?_⟩
      beta_reduce
      rw [hctx, sys]
      refine ⟨rfl, rfl, rfl, congrArg (·.1) (epcNow_advance hf), congrArg (·.2.1) (epcNow_advance hf),
        congrArg (·.2.2) (epcNow_advance hf), ?cause, rptst_plain_flags hf, trapTval_eq hf code, rfl, rfl, rfl, rfl,
        rfl, rfl, hregs, keepsMemory_of_eq mem, hothers⟩
      case cause => simpa only [systemEntry, Ctx.advance_level, hl, levelCode] using hcause
    exact ⟨taken 23 rfl, taken 22 rfl⟩

end Sys2Proof.Machine
end

section
/-!
PROOFS. O16: what ERET checks, what a context resumes with, and what the freeing of a slot leaves of the others.
-/

namespace Sys2Proof.Machine

/-! Resuming from a record (R140, R152). -/

/-- A repeat frame as it is captured again (R165). -/
def refetched (s : State) (f : RepFrame) : RepFrame :=
  match captureWords s f.base (f.nm1.toNat + 1) with
  | .ok ws => { f with words := ws, again := true, bad := none }
  | .error e => { f with words := [], again := true, bad := some e }

/-- A frame that is captured again keeps all but its words. -/
theorem refetched_eq (s : State) (f : RepFrame) :
    ∃ ws bad, refetched s f = { f with words := ws, again := true, bad := bad } := by
  unfold refetched
  split
  · exact ⟨_, _, rfl⟩
  · exact ⟨_, _, rfl⟩

/-- Capturing a slot's frame again changes that frame alone. -/
theorem recaptureAt_at (s : State) (i j : Fin 11) : (recaptureAt s i).at j =
    if j = i then { s.at i with frame := (s.at i).frame.map (refetched s) } else s.at j := by
  unfold recaptureAt
  cases hf : (s.at i).frame with
  | none =>
    simp only [Option.map_none]
    split
    next h => rw [h, ← hf]
    next => rfl
  | some f => rw [State.setAt_at]; rfl

@[simp] theorem recaptureAt_sys (s : State) (i : Fin 11) : (recaptureAt s i).core.sys = s.core.sys := by
  unfold recaptureAt
  split <;> rfl

@[simp] theorem recaptureAt_cur (s : State) (i : Fin 11) : (recaptureAt s i).core.cur = s.core.cur := by
  unfold recaptureAt
  split <;> rfl

/-- A context has the queue, or the repeat frame, of a record (R140, R152). -/
structure ResumesFrom (c : Ctx) (r : TrapRegs) : Prop where
  queue : r.rptst.getLsbD 63 = false →
    c.queue = { q0 := r.epc0, q1 := r.epc1, q2 := r.epc2
                n0 := r.rptst.getLsbD 60, n1 := r.rptst.getLsbD 61, n2 := r.rptst.getLsbD 62
                d0 := r.rptst.getLsbD 57, d1 := r.rptst.getLsbD 58, d2 := r.rptst.getLsbD 59 }
      ∧ c.frame = none
  frame : r.rptst.getLsbD 63 = true → ∃ f, c.frame = some f
    ∧ f.base = BitVec.ofNat 64 (r.rptst.toNat / 2 ^ 34 % 2 ^ 13 * 4) ∧ f.nm1.toNat = r.rptst.toNat / 2 ^ 30 % 16
    ∧ f.cm1.toNat = r.rptst.toNat / 2 ^ 20 % 1024 ∧ f.sd.toNat = r.rptst.toNat / 2 ^ 18 % 4
    ∧ f.sa.toNat = r.rptst.toNat / 2 ^ 16 % 4 ∧ f.sb.toNat = r.rptst.toNat / 2 ^ 14 % 4
    ∧ f.iter.toNat = r.rptst.toNat / 2 ^ 4 % 1024 ∧ f.slot.toNat = r.rptst.toNat % 16

/-- A field of n bits keeps its number as a vector of n bits. -/
theorem toNat_ofNat_fld (x : Word) (lo n : Nat) : (BitVec.ofNat n (fld x lo n)).toNat = x.toNat / 2 ^ lo % 2 ^ n := by
  rw [BitVec.toNat_ofNat, fld_eq, Nat.mod_mod]

/-- A context that has taken the queue and the frame of a record, its frame captured again, resumes from it. -/
theorem resumesFrom_resumeAt {c d : Ctx} {s : State} {r : TrapRegs}
    (hq : d.queue = (c.resumeAt r.epc0 r.epc1 r.epc2 r.rptst).queue)
    (hf : d.frame = (c.resumeAt r.epc0 r.epc1 r.epc2 r.rptst).frame.map (refetched s)) : ResumesFrom d r := by
  constructor
  case queue =>
    intro inactive
    rw [Ctx.resumeAt, if_neg (ne_true_of_eq_false inactive)] at hq hf
    exact ⟨hq, hf⟩
  case frame =>
    intro active
    rw [Ctx.resumeAt, if_pos active] at hf
    obtain ⟨ws, bad, e⟩ := refetched_eq s
      { words := [], base := BitVec.ofNat 64 (fld r.rptst 34 13 * 4), nm1 := BitVec.ofNat 4 (fld r.rptst 30 4)
        cm1 := BitVec.ofNat 10 (fld r.rptst 20 10), sd := BitVec.ofNat 2 (fld r.rptst 18 2)
        sa := BitVec.ofNat 2 (fld r.rptst 16 2), sb := BitVec.ofNat 2 (fld r.rptst 14 2)
        iter := BitVec.ofNat 10 (fld r.rptst 4 10), slot := BitVec.ofNat 4 (fld r.rptst 0 4), again := false
        bad := none }
    refine ⟨_, hf.trans (congrArg some e), ?_⟩
    have hslot := toNat_ofNat_fld r.rptst 0 4
    rw [Nat.pow_zero, Nat.div_one] at hslot
    exact ⟨by rw [fld_eq], toNat_ofNat_fld _ _ _, toNat_ofNat_fld _ _ _, toNat_ofNat_fld _ _ _, toNat_ofNat_fld _ _ _,
      toNat_ofNat_fld _ _ _, toNat_ofNat_fld _ _ _, hslot⟩

@[simp] theorem resumeAt_regs (c : Ctx) (e0 e1 e2 rp : Word) : (c.resumeAt e0 e1 e2 rp).regs = c.regs := by
  unfold Ctx.resumeAt
  split <;> rfl

@[simp] theorem resumeAt_user (c : Ctx) (e0 e1 e2 rp : Word) : (c.resumeAt e0 e1 e2 rp).user = c.user := by
  unfold Ctx.resumeAt
  split <;> rfl

/-! What an ERET leaves (R152, R373, R375). -/

/-- From a context c, an ERET lands in a context d: the queue or the frame, and the level, come from c's record, and no
register is written. -/
structure Lands (c d : Ctx) : Prop where
  level : d.level = levelOf (c.trap.cause.toNat / 2 ^ 40 % 4)
  regs : d.regs = c.regs
  user : d.user = c.user
  resumes : ResumesFrom d c.trap

/-- Slot 0 lands where it is given the level, the queue and the frame of its record, the frame captured again. -/
theorem lands_recaptureAt {s : State} {c : Ctx} (hl : c.level = levelOf (fld (s.at 0).trap.cause 40 2))
    (hr : c.regs = (s.at 0).regs) (hu : c.user = (s.at 0).user)
    (h : let r := (s.at 0).trap
      let d := (s.at 0).resumeAt r.epc0 r.epc1 r.epc2 r.rptst
      c.queue = d.queue ∧ c.frame = d.frame) :
    Lands (s.at 0) ((recaptureAt (s.setAt 0 c) 0).at 0) := by
  rw [recaptureAt_at, if_pos rfl, State.setAt_at, if_pos rfl]
  constructor
  case level => exact hl.trans (congrArg levelOf (fld_eq ..))
  case regs => exact hr
  case user => exact hu
  case resumes => exact resumesFrom_resumeAt h.1 (congrArg (Option.map _) h.2)

/-- Another slot sees nothing of the capture of slot 0's frame and of a change of its context. -/
theorem recaptureAt_setAt_others (s : State) (c : Ctx) {i : Fin 11} (h : i ≠ 0) :
    (recaptureAt (s.setAt 0 c) 0).at i = s.at i := by
  rw [recaptureAt_at, if_neg h, State.setAt_at, if_neg h]

/-- Slot 0 has returned: it lands, and the system registers and memory stay. -/
structure Returns (s t : State) : Prop where
  lands : Lands (s.at 0) (t.at 0)
  cur : t.core.cur = s.core.cur
  sys : t.core.sys = s.core.sys
  mem : t.mem = s.mem

theorem returns_eretSystem (s : State) : Returns s (eretSystem s) where
  lands := lands_recaptureAt rfl (resumeAt_regs ..) (resumeAt_user ..) ⟨rfl, rfl⟩
  cur := by simp [eretSystem]
  sys := by simp [eretSystem]
  mem := by simp [eretSystem]

theorem eretSystem_others (s : State) (i : Fin 11) (h : i ≠ 0) : (eretSystem s).at i = s.at i :=
  recaptureAt_setAt_others s _ h

/-- The trap registers after an ERET at S level are the K registers, their reserved bits as zero (R375). -/
theorem eretSystem_trap (s : State) : ((eretSystem s).at 0).trap =
    { epc0 := s.core.sys.kepc0, epc1 := s.core.sys.kepc1, epc2 := s.core.sys.kepc2
      cause := keepBits s.core.sys.kcause causeBits, tval := s.core.sys.ktval
      rptst := keepBits s.core.sys.krptst rptstBits } := by
  unfold eretSystem
  dsimp only
  rw [State.modCore_at _ _ _ rfl, recaptureAt_at, if_pos rfl, State.setAt_at, if_pos rfl]

/-- Slot 0 as an ERET at C level returns it, before the masks are obeyed (R373, steps 2, 3 and 6). -/
def controlReturn (s : State) : State :=
  let c := s.at 0
  let u := c.upcall
  recaptureAt (i := 0) <| s.setAt 0
    { c.resumeAt c.trap.epc0 c.trap.epc1 c.trap.epc2 c.trap.rptst with
      level := levelOf (fld c.trap.cause 40 2)
      skip := (c.trap.cause.truncate 8 : BitVec 8) == 22 && fld c.trap.cause 8 24 != 0 && fld c.trap.cause 44 4 == 0
      trap := { c.trap with rptst := BitVec.ofNat 64 (fld c.trap.rptst 0 63) }
      upcall := { u with inHandler := false, free := 0, resume := 0, pend := u.pend &&& ~~~ (u.resume ||| u.free) } }

/-- The issue is over: a trap of the next instruction has nothing of this one to put back. -/
def issueDone (s : State) : State := s.modCore fun c => { c with undo := none }

/-- An ERET at C level returns slot 0, then resumes the slots of RESUME, then frees those of FREE (R373). -/
theorem eretControl_eq (s : State) : eretControl s =
    issueDone (freeMask (s.at 0).upcall.free helperSlots
      (resumeMask (s.at 0).upcall.resume helperSlots (controlReturn s))) := rfl

theorem returns_controlReturn (s : State) : Returns s (controlReturn s) where
  lands := lands_recaptureAt rfl (resumeAt_regs ..) (resumeAt_user ..) ⟨rfl, rfl⟩
  cur := by simp [controlReturn]
  sys := by simp [controlReturn]
  mem := by simp [controlReturn]

theorem controlReturn_others (s : State) (i : Fin 11) (h : i ≠ 0) : (controlReturn s).at i = s.at i :=
  recaptureAt_setAt_others s _ h

/-- Without a RESUME bit, IN-HANDLER and FREE are cleared, and the PEND bits of FREE (R373, steps 2 and 3). -/
theorem controlReturn_upcall {s : State} (hr : (s.at 0).upcall.resume = 0) : ((controlReturn s).at 0).upcall =
    { (s.at 0).upcall with
      inHandler := false, free := 0, resume := 0, pend := (s.at 0).upcall.pend &&& ~~~ (s.at 0).upcall.free } := by
  have named : (s.at 0).upcall.resume ||| (s.at 0).upcall.free = (s.at 0).upcall.free := by
    rw [hr]
    exact BitVec.zero_or
  unfold controlReturn
  dsimp only
  rw [recaptureAt_at, if_pos rfl, State.setAt_at, if_pos rfl, named]

/-! The masks (R371, R373). -/

theorem mem_helperSlots : ∀ {i : Fin 11}, i ∈ helperSlots ↔ i ≠ 0 := by decide

theorem maskBit_zero (i : Fin 11) : maskBit 0 i = false := by simp [maskBit]

/-- The mask of one slot names that slot. -/
theorem maskBit_twoPow : ∀ {i j : Fin 11}, i ≠ 0 → maskBit (BitVec.twoPow 10 (i.val - 1)) j = decide (j = i) := by
  decide

theorem resumeMask_zero (l : List (Fin 11)) (s : State) : resumeMask 0 l s = s := by
  induction l with
  | nil => rfl
  | cons i rest ih => rw [resumeMask, maskBit_zero, if_neg Bool.false_ne_true, ih]

/-- A mask that names none of some slots frees none of them. -/
theorem freeMask_of_none {m : BitVec 10} {l : List (Fin 11)} (s : State) (h : ∀ j ∈ l, maskBit m j = false) :
    freeMask m l s = s := by
  induction l with
  | nil => rfl
  | cons j rest ih =>
    simp only [List.mem_cons, forall_eq_or_imp] at h
    simp only [freeMask, h.1, Bool.false_eq_true, if_false, ih h.2]

/-- A mask that names one of some slots frees that one. -/
theorem freeMask_of_one {m : BitVec 10} {l : List (Fin 11)} {i : Fin 11} (s : State) (hl : l.Nodup) (hi : i ∈ l)
    (hm : ∀ j, maskBit m j = decide (j = i)) : freeMask m l s = freeSlot s i := by
  induction l with
  | nil => cases hi
  | cons j rest ih =>
    obtain ⟨hj, hrest⟩ := List.nodup_cons.mp hl
    by_cases e : j = i
    · subst e
      have none : ∀ k ∈ rest, maskBit m k = false := fun k hk => by
        rw [hm, decide_eq_false]
        rintro rfl
        exact hj hk
      simp only [freeMask, hm, decide_true, if_true]
      exact freeMask_of_none _ none
    · simp only [freeMask, hm, e, decide_false, Bool.false_eq_true, if_false]
      exact ih hrest ((List.mem_cons.mp hi).resolve_left (Ne.symm e))

/-- What ERET checks (R373, step 1): the slots of RESUME are TRAPPED, those of FREE have stopped and owe nothing. -/
theorem eretAllowed_iff (s : State) : eretAllowed s = true ↔ ∀ i, i ≠ 0 →
    (maskBit (s.at 0).upcall.resume i = true → (s.at i).slotState = .trapped)
    ∧ (maskBit (s.at 0).upcall.free i = true →
        ((s.at i).slotState = .trapped ∨ (s.at i).slotState = .unsettled) ∧ oblsOf s i = [])
    ∧ ¬(maskBit (s.at 0).upcall.resume i = true ∧ maskBit (s.at 0).upcall.free i = true) := by
  simp only [eretAllowed, List.all_eq_true, mem_helperSlots, ne_eq, Bool.and_eq_true, Bool.or_eq_true,
    Bool.not_eq_true', beq_iff_eq, List.isEmpty_iff, Bool.and_eq_false_iff]
  refine forall₂_congr fun i _ => ?_
  cases maskBit (s.at 0).upcall.resume i <;> cases maskBit (s.at 0).upcall.free i <;> simp

/-- Without a RESUME bit the check looks at the slots of FREE alone. -/
theorem eretAllowed_of_no_resume {s : State} (hr : (s.at 0).upcall.resume = 0)
    (hf : ∀ i, maskBit (s.at 0).upcall.free i = true →
      ((s.at i).slotState = .trapped ∨ (s.at i).slotState = .unsettled) ∧ oblsOf s i = []) :
    eretAllowed s = true := by
  refine (eretAllowed_iff s).mpr fun i _ => ?_
  rw [hr, maskBit_zero]
  exact ⟨nofun, hf i, nofun⟩

/-! Freeing a slot (R82). -/

/-- The contexts but their activity, the slot that issues and the system registers stay. -/
structure KeepsButActivity (s t : State) : Prop where
  sys : t.core.sys = s.core.sys
  cur : t.core.cur = s.core.cur
  contexts : ∀ i, ∃ a, t.at i = { s.at i with act := a }

theorem KeepsButActivity.trans {s t u : State} (h : KeepsButActivity s t) (k : KeepsButActivity t u) :
    KeepsButActivity s u := by
  refine ⟨k.sys.trans h.sys, k.cur.trans h.cur, fun i => ?_⟩
  obtain ⟨a, ha⟩ := h.contexts i
  obtain ⟨b, hb⟩ := k.contexts i
  exact ⟨b, by rw [hb, ha]⟩

theorem keepsButActivity_modAct (s : State) (i : Fin 11) (f : Activity → Activity) :
    KeepsButActivity s (s.modAct i f) := by
  refine ⟨rfl, rfl, fun j => ?_⟩
  rw [State.modAct, State.setAt_at]
  split
  next h => exact ⟨_, by rw [h]⟩
  next => exact ⟨_, rfl⟩

/-- The end of an item changes what its slots reserve, and counts outside the contexts (R80). -/
theorem keepsButActivity_releaseItem (s : State) (key : ItemKey) : KeepsButActivity s (releaseItem s key) := by
  unfold releaseItem
  refine List.foldlRecOn slots _ ?_ fun t h j _ => ?_
  · exact ⟨rfl, rfl, fun _ => ⟨_, rfl⟩⟩
  · split
    · exact h.trans (keepsButActivity_modAct t j _)
    · exact h

theorem keepsButActivity_countHelper (s : State) (key : ItemKey) (starts : Bool) :
    KeepsButActivity s (countHelper s key starts) := by
  unfold countHelper
  split
  · exact ⟨rfl, rfl, fun _ => ⟨_, rfl⟩⟩
  · split
    · exact ⟨rfl, rfl, fun _ => ⟨_, rfl⟩⟩
    · split
      · exact keepsButActivity_releaseItem s key
      · exact ⟨rfl, rfl, fun _ => ⟨_, rfl⟩⟩

/-- A freed slot is FREE; the other contexts change in their activity alone. -/
structure Frees (s t : State) (i : Fin 11) : Prop where
  sys : t.core.sys = s.core.sys
  cur : t.core.cur = s.core.cur
  free : (t.at i).slotState = .free
  others : ∀ j, j ≠ i → ∃ a, t.at j = { s.at j with act := a }

theorem Frees.trans {s t u : State} {i : Fin 11} (h : Frees s t i) (k : KeepsButActivity t u) : Frees s u i where
  sys := k.sys.trans h.sys
  cur := k.cur.trans h.cur
  free := by
    obtain ⟨a, ha⟩ := k.contexts i
    rw [ha]
    exact h.free
  others := fun j hj => by
    obtain ⟨a, ha⟩ := h.others j hj
    obtain ⟨b, hb⟩ := k.contexts j
    exact ⟨b, by rw [hb, ha]⟩

theorem frees_freeSlot (s : State) (i : Fin 11) : Frees s (freeSlot s i) i := by
  have reset {u : State} {c : Ctx} (hu : u.core.ctxs = s.core.ctxs) (hs : u.core.sys = s.core.sys)
      (hc : u.core.cur = s.core.cur) (hfree : c.slotState = .free) : Frees s (u.setAt i c) i := by
    refine ⟨hs, hc, by rw [State.setAt_at, if_pos rfl, hfree], fun j hj => ⟨(s.at j).act, ?_⟩⟩
    rw [State.setAt_at, if_neg hj]
    simp only [State.at, hu]
  unfold freeSlot
  dsimp only
  split
  · rw [if_pos rfl]
    refine Frees.trans ?_ (keepsButActivity_countHelper _ _ _)
    exact reset rfl rfl rfl rfl
  · exact reset rfl rfl rfl rfl

theorem Returns.issueDone {s t : State} (h : Returns s t) : Returns s (issueDone t) :=
  ⟨h.lands, h.cur, h.sys, h.mem⟩

/-- Slot 0 has returned also where another slot is freed after it. -/
theorem Returns.free {s t u : State} {i : Fin 11} (h : Returns s t) (hi : i ≠ 0) (k : Frees t u i)
    (hm : u.mem = t.mem) : Returns s u where
  lands := by
    obtain ⟨a, ha⟩ := k.others 0 hi.symm
    rw [ha]
    exact ⟨h.lands.level, h.lands.regs, h.lands.user, ⟨h.lands.resumes.queue, h.lands.resumes.frame⟩⟩
  cur := k.cur.trans h.cur
  sys := k.sys.trans h.sys
  mem := hm.trans h.mem

/-! ERET (R152). -/

/-- UPCALL holds RESUME in its field (R371). -/
theorem fld_upcallOf_resume (s : State) (c : Ctx) : fld (upcallOf s c) 33 10 = c.upcall.resume.toNat := by
  have hfree := c.upcall.free.isLt
  have hresume := c.upcall.resume.isLt
  have hpend := c.upcall.pend.isLt
  have hvec := c.upcall.vec.isLt
  have hin := Bool.toNat_le c.upcall.inHandler
  have hevt : (if s.core.events = [] then 0 else 2 ^ 22) ≤ 2 ^ 22 := by split <;> decide
  rw [fld_eq, upcallOf, BitVec.toNat_ofNat]
  omega

/-- Without a RESUME bit, an ERET at C level whose check passes is the return (R373). -/
theorem exec_eret_control {s : State} (hl : s.ctx.level = .c) (ha : eretAllowed s = true)
    (hr : (s.at 0).upcall.resume = 0) : exec .eret s = .next (eretControl s) := by
  have hf : fld (upcallOf s (s.at 0)) 33 10 = 0 := by rw [fld_upcallOf_resume, hr]; rfl
  change execEret s = _
  simp only [execEret, hl, ha, hf, Bool.not_true, Bool.false_eq_true, if_false, ne_eq, not_true_eq_false, false_and]

/-- An ERET whose check fails traps PROT with UPCALL (R373, step 1). -/
theorem exec_eret_refused {s : State} (hl : s.ctx.level = .c) (ha : eretAllowed s = false) :
    exec .eret s = .next (trap s 6 (upcallOf s (s.at 0))) := by
  change execEret s = _
  simp only [execEret, hl, ha, Bool.not_false, if_true]

theorem exec_eret_system {s : State} (hl : s.ctx.level = .s) : exec .eret s = .next (eretSystem s) := by
  change execEret s = _
  simp only [execEret, hl]

/-- An ERET at C level without a RESUME bit returns slot 0 and then frees the slots of FREE. -/
theorem eretControl_of_no_resume {s : State} (hr : (s.at 0).upcall.resume = 0) : eretControl s =
    issueDone (freeMask (s.at 0).upcall.free helperSlots (controlReturn s)) := by
  rw [eretControl_eq, hr, resumeMask_zero]

/-- With no slot to resume or to free, an ERET at C level returns slot 0 and does no more. -/
theorem eretControl_of_empty_masks {s : State} (hr : (s.at 0).upcall.resume = 0) (hf : (s.at 0).upcall.free = 0) :
    eretControl s = issueDone (controlReturn s) := by
  rw [eretControl_of_no_resume hr, hf, freeMask_of_none _ fun i _ => maskBit_zero i]

theorem eretControl_of_one_free {s : State} {i : Fin 11} (hi : i ≠ 0) (hr : (s.at 0).upcall.resume = 0)
    (hf : (s.at 0).upcall.free = BitVec.twoPow 10 (i.val - 1)) :
    eretControl s = issueDone (freeSlot (controlReturn s) i) := by
  rw [eretControl_of_no_resume hr, hf,
    freeMask_of_one _ (by decide) (mem_helperSlots.mpr hi) fun j => maskBit_twoPow hi]

/-- Settles O16: slot 0 takes its queue or frame and its level from the record; the masks and the K registers come
on top of that, and a refused ERET is a trap of the control context. -/
theorem returnFromException : Obligations.ReturnFromException := by
  intro s hcur r u lands back
  have hs : s.ctx = s.at 0 := by rw [State.ctx, hcur]
  have hu : (s.at 0).upcall = u := congrArg Ctx.upcall hs.symm
  have landed {t : State} (h : Returns s t) : t.ctx = t.at 0 ∧ lands t ∧ KeepsMemory s t := by
    have hc : t.ctx = t.at 0 := by rw [State.ctx, h.cur, hcur]
    have hl := h.lands
    rw [← hs, ← hc] at hl
    exact ⟨hc, ⟨hl.level, keepsRegisters_of_eq hl.regs hl.user, hl.resumes.queue, hl.resumes.frame⟩,
      keepsMemory_of_eq h.mem⟩
  refine ⟨fun hl hres => ⟨?plain, ?frees⟩, ?refused, ?system⟩
  case plain =>
    intro hfree
    have hr : (s.at 0).upcall.resume = 0 := hu ▸ hres
    have hf : (s.at 0).upcall.free = 0 := hu ▸ hfree
    have allowed : eretAllowed s = true := eretAllowed_of_no_resume hr fun i h => by
      rw [hf, maskBit_zero] at h
      cases h
    refine ⟨_, exec_eret_control hl allowed hr, ?_⟩
    rw [eretControl_of_empty_masks hr hf]
    have m := (returns_controlReturn s).issueDone
    obtain ⟨hctx, hlands, hmem⟩ := landed m
    have hup := (congrArg Ctx.upcall hctx).trans (controlReturn_upcall hr)
    beta_reduce
    rw [hup]
    refine ⟨⟨hlands, hmem, controlReturn_others s⟩, rfl, ?_, m.sys⟩
    rw [hf, hu]
    exact BitVec.and_allOnes
  case frees =>
    intro i hi hfree hstate howes
    have hr : (s.at 0).upcall.resume = 0 := hu ▸ hres
    have hf : (s.at 0).upcall.free = BitVec.twoPow 10 (i.val - 1) := hu ▸ hfree
    have allowed : eretAllowed s = true := eretAllowed_of_no_resume hr fun j h => by
      rw [hf, maskBit_twoPow hi] at h
      obtain rfl := of_decide_eq_true h
      exact ⟨hstate, howes⟩
    refine ⟨_, exec_eret_control hl allowed hr, ?_⟩
    rw [eretControl_of_one_free hi hr hf]
    have freed := frees_freeSlot (controlReturn s) i
    have m := ((returns_controlReturn s).free hi freed (freeSlot_mem _ _)).issueDone
    obtain ⟨hctx, hlands, hmem⟩ := landed m
    obtain ⟨a, ha⟩ := freed.others 0 hi.symm
    have hup := (congrArg Ctx.upcall (hctx.trans ha)).trans (controlReturn_upcall hr)
    beta_reduce
    rw [hup, hu]
    exact ⟨hlands, hmem, freed.free, rfl, rfl, rfl, m.sys⟩
  case refused =>
    intro i hl hi hbit hstate hundo hframe
    have hmask : maskBit (s.at 0).upcall.resume i = true := by
      rw [hu]
      simp [maskBit, hbit, Fin.val_ne_zero_iff.mpr hi]
    have refused : eretAllowed s = false := by
      rw [Bool.eq_false_iff]
      exact fun h => hstate (((eretAllowed_iff s).mp h i hi).1 hmask)
    let t : Trap := { code := 6, tval := upcallOf s (s.at 0) }
    have e : exec .eret s = .next (trapIn s 0 t) := by
      rw [exec_eret_refused hl refused]
      simp only [trap, takeTrap, undoIssue, hundo, hcur, t]
    have nodebug : NoDebugger s t := fun h => absurd h.1 (show (6 : Cause) ≠ 22 by decide)
    obtain ⟨context, -, -, cur, mem⟩ := entersSystem_trapIn (hs ▸ hl) nodebug
    have hctx : (trapIn s 0 t).ctx = systemEntry s.ctx t s.core.sys.svec := by rw [State.ctx, cur, hcur, context, hs]
    have hregs : KeepsRegisters s (trapIn s 0 t) := keepsRegisters_of_eq (by rw [hctx]; rfl) (by rw [hctx]; rfl)
    refine ⟨_, e, ?_⟩
    beta_reduce
    rw [hctx]
    exact ⟨rfl, causeWord_code t _ 0, by simp [systemEntry, Ctx.epcNow, hframe], hregs, keepsMemory_of_eq mem⟩
  case system =>
    intro hl
    obtain ⟨hctx, hlands, hmem⟩ := landed (returns_eretSystem s)
    refine ⟨_, exec_eret_system hl, ?_⟩
    beta_reduce
    rw [hctx, eretSystem_trap]
    exact ⟨⟨hlands, hmem, eretSystem_others s⟩, rfl, rfl, rfl, rfl, rfl, rfl⟩

end Sys2Proof.Machine
end
